-- ==== Sys2Proof/Word.lean ====
section
/-! DEFINITION. The words of the model: bytes, 16-bit words, wrapping 32-bit counters, and the plainest arithmetic on
saturating counts (00_scope.md, Conventions). -/

namespace Sys2Proof

/-- One byte of a frame. -/
abbrev Byte := BitVec 8

/-- A two-byte field of a frame. -/
abbrev Word := BitVec 16

/-- A counter 32 bits wide that wraps (R8, R25, R40, R64, R83, R111, R151, R165, R179, R197). -/
abbrev Counter := BitVec 32

/-- `a + b`, kept at `top` when it would pass it: the saturating counts of R2, R43, R85 and R129. -/
def satAdd (top a b : Nat) : Nat := min top (a + b)

/-- The largest cell count, 1023 pages of 256 cells (R1, R26). -/
def maxCells : Nat := 261888

end Sys2Proof
end

