-- ==== Sys2Proof/Syntax.lean ====
section
/-! DEFINITION. The commands of the block: one constructor of `Instr` per row of spec/opcode_table.json, with the operands its
rule gives. Operands that arrive in frames keep the widths of 11_frame_and_record_layouts.md, so that out-of-range values can
be written (and refused). -/

namespace Sys2Proof

/-- The two link ports (R166). -/
inductive Port where
  | capture
  | office
  deriving DecidableEq, Repr

/-- The strap pins as sampled at power-on and at the release of RESET_N (00_scope.md, R26, R166, R184). -/
structure Straps where
  node  : Byte
  mgr   : Byte
  store : BitVec 2
  deriving DecidableEq, Repr

/-- The order of steps 5 and 6 of R172, which the spec leaves open (log 8). -/
inductive SyncOrder where
  | roomsFirst
  | playbackFirst
  deriving DecidableEq, Repr

/-- A capture sync as taken (R169): its addresses, its cycle number, the payload bytes after the number, its CRC as received.
The sync is repeated unchanged in every field (R172). -/
structure SyncFrame where
  dst   : Byte
  src   : Byte
  cycle : Word
  rest  : List Byte
  crc   : Word
  deriving DecidableEq, Repr

/-- One channel object of an AUDIO frame (R7): whole, or counted but running past the payload (R199). -/
inductive AudioObject where
  | whole (channel : Byte) (samples : List Word)
  | cutShort
  deriving DecidableEq, Repr

/-- The annotation kinds a console sends (R17). -/
inductive AnnotationKind where
  | speaker
  | exhibit
  | objection
  | readbackRequest
  deriving DecidableEq, Repr

/-- A MARK frame as taken: port and source of arrival, capture cycle number, code, and the label characters that arrived (R17, R199). -/
structure Mark where
  port  : Port
  src   : Byte
  cycle : Word
  code  : Word
  label : List Byte
  deriving DecidableEq, Repr

/-- What every CONTROL frame carries (R181, 11.3): port of arrival, source, tag, and the override trailer if one stands after
the command's fields. -/
structure Ctl where
  port : Port
  src  : Byte
  tag  : Word
  ovr  : Option Word
  deriving DecidableEq, Repr

/-- The fields of SET_CLOCK (R156, 11.3): bytes 0 to 5 of a stamp, then the day of week. -/
structure ClockFields where
  year   : Byte
  month  : Byte
  day    : Byte
  hour   : Byte
  minute : Byte
  second : Byte
  dow    : Byte
  deriving DecidableEq, Repr

/-- The fields of CUE (R112); skip and displacement are two's complement. -/
structure CueFields where
  base         : Byte
  marker       : Word
  skip         : Byte
  filter       : Byte
  displacement : Word
  deriving DecidableEq, Repr

/-- The fields of SET_MIX (R138): mode, track mask and six gains. -/
structure MixFields where
  mode  : Byte
  mask  : Byte
  gains : Vector Byte 6
  deriving DecidableEq, Repr

/-- The index of a station-table entry (R84). -/
abbrev StationId := Fin 32

/-- The commands: operations and events that change the block (spec/opcode_table.json, one constructor a row). -/
inductive Instr where
  | powerOnReset (straps : Straps) (backupHeld : Bool)
  | hardReset (straps : Straps)
  | tickArrival
  | frameArrival (port : Port) (bytes : List Byte) (order : SyncOrder)
  | transmitFrame (port : Port)
  | audioFrame (port : Port) (src : Byte) (cycle : Word) (objects : List AudioObject)
  | captureSync (f : SyncFrame) (order : SyncOrder)
  | syncReturn (f : SyncFrame) (order : SyncOrder)
  | syncLossExpiry
  | localSync
  | statusFrame
  | offerExpiry (entry : StationId)
  | leaseExpiry (entry : StationId)
  | stallExpiry (entry : StationId)
  | annotationMark (kind : AnnotationKind) (m : Mark)
  | goOffRecord (m : Mark)
  | goOnRecord (m : Mark)
  | sealRecord (m : Mark)
  | unsealRecord (m : Mark)
  | cutNow (m : Mark)
  | unknownCommand (port : Port) (src : Byte) (payload : List Byte)
  | run (c : Ctl)
  | halt (c : Ctl)
  | sessionReset (c : Ctl)
  | setCursor (c : Ctl) (table : Byte) (index : Word)
  | writeEntry (c : Ctl) (body : List Byte)
  | readEntry (c : Ctl)
  | setResponseMode (c : Ctl) (port : Byte) (mode : Byte)
  | readAlerts (c : Ctl)
  | readCounters (c : Ctl)
  | clearCounters (c : Ctl)
  | openRoom (c : Ctl) (room : Byte)
  | closeRoom (c : Ctl) (room : Byte)
  | cutTake (c : Ctl) (room : Byte)
  | readTake (c : Ctl) (number : Word)
  | readQueue (c : Ctl) (queue : Byte) (start : Word)
  | moveTake (c : Ctl) (number : Word) (pool : Byte)
  | readMarker (c : Ctl) (number : Word) (selector : Byte) (value : Word)
  | releaseTake (c : Ctl) (number : Word)
  | clearStore (c : Ctl)
  | setClock (c : Ctl) (f : ClockFields)
  | readClock (c : Ctl)
  | hello (c : Ctl) (presence : Byte)
  | readPosition (c : Ctl)
  | stop (c : Ctl)
  | requestWork (c : Ctl)
  | accept (c : Ctl)
  | decline (c : Ctl)
  | keep (c : Ctl)
  | complete (c : Ctl)
  | returnTake (c : Ctl)
  | cue (c : Ctl) (f : CueFields)
  | save (c : Ctl)
  | play (c : Ctl)
  | pause (c : Ctl)
  | setNotice (c : Ctl) (point : BitVec 24)
  | setMix (c : Ctl) (f : MixFields)
  | addNote (c : Ctl) (code : Word) (label : List Byte) (position : BitVec 24)
  | listen (c : Ctl) (room : Byte)
  | requestArchive (c : Ctl)
  | archived (c : Ctl)
  | archiveFailed (c : Ctl)
  | credit (c : Ctl) (count : Word)
  | mainPowerLoss (vbakHolds : Bool)
  deriving DecidableEq, Repr

end Sys2Proof
end

