-- ==== Sys2Proof/Decode.lean ====
section
/-! DEFINITION. The command that a word spells by the bits of spec/opcode_table.json. The table gives no row any bits (the
commands arrive as frames and events, whose layouts are read in Machine/Operands.lean), so no word spells one. -/

namespace Sys2Proof

/-- The command spelled by an `nbits`-bit word `w`: none, since no row of the table has bits. -/
def decodeTableWord (_nbits _w : Nat) : Option Instr := none

end Sys2Proof
end

