-- ==== Sys2Proof/Config.lean ====
section
/-! DEFINITION. The fixed capacities of the part, each with the rule that gives it. The spec leaves no result of a command
undefined, so the model has no free value. -/

namespace Sys2Proof.Config

/-- Take slots (R43). -/
def takeSlots : Nat := 1024
/-- Marker entries (R66). -/
def markerEntries : Nat := 8192
/-- Entries kept for state and system markers (R70). -/
def markerReserve : Nat := 32
/-- Cells of one page (R26). -/
def cellsPerPage : Nat := 256
/-- FREE take slots the Page Store tries to keep (R32). -/
def slotReserve : Nat := 8
/-- Entries of a room's history ring (R23). -/
def ringEntries : Nat := 64
/-- Frames of one forward queue (R170). -/
def forwardFrames : Nat := 32
/-- Frames of one originate list (R171). -/
def originateFrames : Nat := 512
/-- Responses of one held-response queue (R192). -/
def heldResponses : Nat := 16
/-- Credits a context may hold (R129). -/
def maxCredits : Nat := 4096
/-- Items a BULK context may send at one office-side sync (R148). -/
def bulkItems : Nat := 8
/-- Ticks in a second (R153). -/
def ticksPerSecond : Nat := 1024

end Sys2Proof.Config
end

