-- ==== Sys2Proof/Machine/Table.lean ====
section
/-! DEFINITION. Sparse tables in one canonical form: key and value pairs, keys strictly rising. The page link table (R27) lists the
pages that stand in a chain, the Take Table (R43) the slots that hold a take; an unlisted key reads as a free page or a FREE slot. -/

namespace Sys2Proof.Machine

/-- A sparse table from numbers to values. -/
abbrev SMap (α : Type) := List (Nat × α)

/-- The value at a key, if one is listed. -/
def mapGet {α : Type} (k : Nat) : SMap α → Option α
  | [] => none
  | (k', v) :: rest => if k' = k then some v else mapGet k rest

/-- Lists `v` at `k`, in its place by key. -/
def mapSet {α : Type} (k : Nat) (v : α) : SMap α → SMap α
  | [] => [(k, v)]
  | (k', v') :: rest =>
    if k < k' then (k, v) :: (k', v') :: rest
    else if k = k' then (k, v) :: rest
    else (k', v') :: mapSet k v rest

/-- Removes the entry of a key. -/
def mapErase {α : Type} (k : Nat) : SMap α → SMap α
  | [] => []
  | (k', v) :: rest => if k' = k then mapErase k rest else (k', v) :: mapErase k rest

/-- The listed keys. -/
def mapKeys {α : Type} (m : SMap α) : List Nat := m.map Prod.fst

/-- The canonical form: keys strictly rising. -/
abbrev mapWf {α : Type} (m : SMap α) : Prop := (mapKeys m).Pairwise (· < ·)

/-- The first number from `k` on, of the next `fuel` numbers, that is not a listed key. -/
def firstUnlisted {α : Type} (m : SMap α) : Nat → Nat → Option Nat
  | 0, _ => none
  | fuel + 1, k => if (mapGet k m).isSome then firstUnlisted m fuel (k + 1) else some k

end Sys2Proof.Machine
end

