-- ==== Sys2Proof/Machine/Types.lean ====
section
/-! DEFINITION. The enumerations and records of the device's state, block by block. Each enumeration lists its values in the order of
the rule that defines it, which gives their codes on the wire (11.2). -/

namespace Sys2Proof.Machine

/-- A frame, byte by byte as it stands on the wire (11.1). -/
abbrev Frame := List Byte

/-- A courtroom as the device knows it (R1). -/
abbrev RoomId := Fin 16

/-- A pool queue (R90). -/
abbrev PoolId := Fin 4

/-- One track's samples for one cycle (00_scope.md). -/
abbrev Granule := List Word

/-- One room's granules for one cycle, in track order (00_scope.md). -/
abbrev AudioCell := List Granule

/-- Main power (R154, MAIN_POWER_LOSS): present; absent with the clock counting on VBAK; absent with the count lost. -/
inductive Power where
  | on
  | backup
  | dead
  deriving DecidableEq, Repr

/-- The cycle period P (R166). -/
inductive CyclePeriod where
  | us2000
  | us2500
  | us4000
  | us5000
  deriving DecidableEq, Repr

/-- A stamp (R155). -/
structure Stamp where
  year      : Nat
  month     : Nat
  day       : Nat
  hour      : Nat
  minute    : Nat
  second    : Nat
  tick      : Nat
  uncertain : Bool
  deriving DecidableEq, Repr

/-! ## Proceedings Clock -/

/-- Validity of the clock (R152). -/
inductive Validity where
  | set
  | unset
  deriving DecidableEq, Repr

/-- The outage record (R152). -/
inductive Outage where
  | none
  | held
  | lost
  deriving DecidableEq, Repr

/-- An entry of CUT_SCHEDULE (R160); an absent hour or minute is ANY. -/
structure ScheduleEntry where
  hour   : Option Nat
  minute : Option Nat
  second : Nat
  mask   : BitVec 16
  deriving DecidableEq, Repr

/-- The calendar reading with its tick count, day of week, validity and outage (R152). -/
structure Calendar where
  year     : Nat
  month    : Nat
  day      : Nat
  hour     : Nat
  minute   : Nat
  second   : Nat
  tick     : Nat
  dow      : Nat
  validity : Validity
  outage   : Outage
  deriving DecidableEq, Repr

/-- The clock's counters (R165). -/
structure ClockCounters where
  scheduleCuts      : Counter := 0
  scheduleShort     : Counter := 0
  scheduleOffRecord : Counter := 0
  deriving DecidableEq, Repr

/-! ## Ingest Mapper and Room Recorder -/

/-- Action of an ingest map entry (R6). -/
inductive IngestAction where
  | unused
  | map
  | discard
  deriving DecidableEq, Repr

/-- An ingest map entry (R6); an absent channel is ANY. -/
structure IngestEntry where
  action  : IngestAction
  source  : Byte
  channel : Option Byte
  room    : RoomId
  track   : Nat
  deriving DecidableEq, Repr

/-- The Ingest Mapper's counters (R8). -/
structure IngestCounters where
  wrongSize  : Counter := 0
  unmapped   : Counter := 0
  outOfCycle : Counter := 0
  inactive   : Counter := 0
  duplicate  : Counter := 0
  deriving DecidableEq, Repr

/-- A room's configuration (R1). -/
structure RoomConfig where
  console     : Byte
  tracks      : Nat
  pool        : PoolId
  minCells    : Nat
  lengthLimit : Nat
  deriving DecidableEq, Repr

/-- A room's state (R2). -/
inductive RoomState where
  | closed
  | onRecord
  | offRecord
  deriving DecidableEq, Repr

/-- The cause of a dropped cell (R2, R11). -/
inductive DropCause where
  | store
  | length
  deriving DecidableEq, Repr

/-- Overrun: its cause and its dropped cycles (R2, R12). -/
structure Overrun where
  cause   : DropCause
  dropped : Nat
  deriving DecidableEq, Repr

/-- The cause of a cut (R43). -/
inductive CutCause where
  | schedule
  | length
  | console
  | manager
  | roomClose
  | sessionReset
  | deferred
  deriving DecidableEq, Repr

/-- A history ring entry (R23, R24). -/
structure RingEntry where
  cycle    : Word
  slot     : Option Nat
  position : Option Nat
  stamp    : Stamp
  deriving DecidableEq, Repr

/-- A room's counters (R25). -/
structure RoomCounters where
  cellsStored  : Counter := 0
  cellsDropped : Counter := 0
  cyclesLost   : Counter := 0
  missing      : Counter := 0
  marksRefused : Counter := 0
  deriving DecidableEq, Repr

/-- A room: its configuration (R1), its dynamic record (R2) and its counters (R25). The ring stands oldest entry first. -/
structure Room where
  config    : RoomConfig
  state     : RoomState
  openTake  : Option Nat
  sealed    : Bool
  overrun   : Option Overrun
  deferred  : Option CutCause
  offCycles : Nat
  gap       : Nat
  assembly  : List (Option Granule)
  ring      : List RingEntry
  counters  : RoomCounters
  deriving DecidableEq, Repr

/-! ## Page Store -/

/-- A page in a chain: its entry in the page link table (R27) and the cells it holds, at offsets 0 up. An absent next is END. -/
structure Page where
  next  : Option Nat
  fill  : Nat
  owner : Nat
  cells : List AudioCell
  deriving DecidableEq, Repr

/-- The Page Store's counters (R40). -/
structure StoreCounters where
  pagesAllocated   : Counter := 0
  noPage           : Counter := 0
  pressureReclaims : Counter := 0
  commandReclaims  : Counter := 0
  deriving DecidableEq, Repr

/-- The Page Store (R26 to R41): the pages in chains, the free page queue, the retention queue, the page reserve. -/
structure Store where
  pageCount   : Nat
  pages       : SMap Page
  freePages   : List Nat
  retention   : List Nat
  pageReserve : Nat
  counters    : StoreCounters
  deriving DecidableEq, Repr

/-! ## Takes and markers -/

/-- The eleven marker kinds (R67). -/
inductive MarkerKind where
  | speaker
  | exhibit
  | objection
  | readbackRequest
  | note
  | offRecordBegin
  | offRecordEnd
  | sealBegin
  | sealEnd
  | gap
  | continued
  deriving DecidableEq, Repr

/-- A placed marker (R67); its owner is the take whose list holds it. Gap and off cycles are 0 where the kind has none. -/
structure Marker where
  number    : Nat
  kind      : MarkerKind
  position  : Nat
  stamp     : Stamp
  source    : Byte
  code      : Word
  label     : List Byte
  late      : Bool
  gapCycles : Nat
  offCycles : Nat
  deriving DecidableEq, Repr

/-- Lifecycle states of a live take (R43); a FREE slot holds no take. -/
inductive Lifecycle where
  | open
  | closed
  | retained
  deriving DecidableEq, Repr

/-- Transcription sub-state (R43). -/
inductive Transcription where
  | pending
  | offered
  | assigned
  | typed
  deriving DecidableEq, Repr

/-- Archive sub-state (R43). -/
inductive ArchiveState where
  | unarchived
  | archiving
  | archived
  deriving DecidableEq, Repr

/-- A take record (R43). The marker list stands in list order; its length is the marker count, its ends the head and tail. -/
structure Take where
  lifecycle     : Lifecycle
  number        : Nat
  room          : RoomId
  tracks        : Nat
  period        : CyclePeriod
  openStamp     : Stamp
  endStamp      : Option Stamp
  cause         : Option CutCause
  cells         : Nat
  firstPage     : Option Nat
  lastPage      : Option Nat
  markers       : List Marker
  nextMarker    : Nat
  pool          : PoolId
  transcription : Option Transcription
  holder        : Option Byte
  handOffs      : Nat
  archive       : Option ArchiveState
  archiver      : Option Byte
  sealed        : Bool
  markersLost   : Nat
  pins          : Nat
  deriving DecidableEq, Repr

/-- The Take Table's counters (R64). -/
structure TakeCounters where
  takesClosed  : Counter := 0
  emptyTakes   : Counter := 0
  deferredCuts : Counter := 0
  deriving DecidableEq, Repr

/-- The Take Table (R43 to R45): the live takes by slot, and the issue counter. -/
structure TakeTable where
  takes    : SMap Take
  issue    : Nat
  counters : TakeCounters
  deriving DecidableEq, Repr

/-- The Marker Pool (R66, R83): its free count and counters. The placed entries stand in the takes' lists. -/
structure MarkerPool where
  free            : Nat
  annotationsLost : Counter := 0
  lateMarks       : Counter := 0
  badMarkKind     : Counter := 0
  deriving DecidableEq, Repr

/-! ## Hand-off Unit -/

/-- Class of a station (R84). -/
inductive StationClass where
  | typist
  | readback
  | archive
  deriving DecidableEq, Repr

/-- Mode of a mix (R129). -/
inductive MixMode where
  | separate
  | mono
  deriving DecidableEq, Repr

/-- A mix (R129): mode, track mask with the lowest bit track 1, and six gains. -/
structure Mix where
  mode  : MixMode
  mask  : BitVec 6
  gains : Vector Nat 6
  deriving DecidableEq, Repr

/-- The configuration part of a station entry (R84). -/
structure StationConfig where
  node        : Byte
  cls         : StationClass
  pools       : BitVec 4
  clearance   : Bool
  mix         : Mix
  backstep    : Nat
  listenDelay : Nat
  deriving DecidableEq, Repr

/-- State of a station (R85, R86). -/
inductive StationState where
  | offline
  | idle
  | waiting
  | offered
  | holding
  | listening
  | archiving
  deriving DecidableEq, Repr

/-- The timers of a station (R85). -/
inductive TimerKind where
  | offer
  | lease
  | stall
  deriving DecidableEq, Repr

/-- A running timer with its ticks remaining (R85). -/
structure Timer where
  kind  : TimerKind
  ticks : Nat
  deriving DecidableEq, Repr

/-- A station-table entry: its configuration (R84) and its dynamic part (R85). -/
structure Station where
  config   : StationConfig
  state    : StationState
  take     : Option Nat
  misses   : Nat
  lastPort : Port
  timer    : Option Timer
  deriving DecidableEq, Repr

/-- The Hand-off Unit's counters (R111). -/
structure HandOffCounters where
  offersMade      : Counter := 0
  offersDeclined  : Counter := 0
  offersExpired   : Counter := 0
  takesTyped      : Counter := 0
  takesReturned   : Counter := 0
  leasesExpired   : Counter := 0
  archiveAssigned : Counter := 0
  takesArchived   : Counter := 0
  archiveFailures : Counter := 0
  archiveStalls   : Counter := 0
  deriving DecidableEq, Repr

/-- The Hand-off Unit (R84 to R111): station table, pool queues, archive queue and wait list, heads first. -/
structure HandOff where
  stations : Vector Station 32
  pools    : Vector (List Nat) 4
  archive  : List Nat
  wait     : List StationId
  counters : HandOffCounters
  deriving DecidableEq, Repr

/-! ## Playback Unit -/

/-- State of a playback context (R129). -/
inductive ContextState where
  | stopped
  | playing
  | paused
  | heldLive
  | heldSealed
  | bulk
  deriving DecidableEq, Repr

/-- The located page of a context (R123): a page with its ordinal in the chain, or the end. -/
inductive Located where
  | page (number ordinal : Nat)
  | atEnd
  deriving DecidableEq, Repr

/-- The cue flags (R124). -/
structure CueFlags where
  short      : Bool
  clamped    : Bool
  sealedSkip : Bool
  deriving DecidableEq, Repr

/-- A playback context (R129). -/
structure Context where
  state       : ContextState
  take        : Option Nat
  position    : Option Nat
  located     : Option Located
  saved       : Option Nat
  notice      : Option Nat
  mix         : Mix
  follow      : Bool
  link        : Option Nat
  credits     : Nat
  markersSent : Nat
  flags       : Option CueFlags
  deriving DecidableEq, Repr

/-- The Playback Unit's counters (R151). -/
structure PlaybackCounters where
  cellsPlayed      : Counter := 0
  cellsWithheld    : Counter := 0
  cellsSentBulk    : Counter := 0
  markersSent      : Counter := 0
  endOfTakeNotices : Counter := 0
  deriving DecidableEq, Repr

/-- The Playback Unit: context `s` belongs to station entry `s` (R129). -/
structure Playback where
  contexts : Vector Context 32
  counters : PlaybackCounters
  deriving DecidableEq, Repr

/-! ## Link Interface -/

/-- The sync source (R171). -/
inductive SyncSource where
  | repeating
  | localSource
  deriving DecidableEq, Repr

/-- A frame in a list, with the serial number of its entry, by which R171 compares entry order (log 9). -/
structure Queued where
  serial : Nat
  frame  : Frame
  deriving DecidableEq, Repr

/-- The nine configuration tables, in catalogue order (R187). -/
inductive TableName where
  | ingestMap
  | roomConfig
  | stationTable
  | cutSchedule
  | statusItems
  | managerList
  | linkProfile
  | storeSettings
  | timeouts
  deriving DecidableEq, Repr

/-- A table cursor (R185). -/
structure Cursor where
  table : TableName
  index : Nat
  deriving DecidableEq, Repr

/-- Response mode of a port (R191). -/
inductive ResponseMode where
  | immediate
  | onSync
  deriving DecidableEq, Repr

/-- The counters each port keeps (R179). -/
structure PortCounters where
  framesReceived : Counter := 0
  framesSent     : Counter := 0
  crcErrors      : Counter := 0
  forwardDrops   : Counter := 0
  originateDrops : Counter := 0
  deriving DecidableEq, Repr

/-- One link port: its originate list and the forward queue toward it (R170, R171), the frame its transmitter sent last (log 9),
its cursor (R185), response mode (R191), held-response queue (R192) and counters (R179). -/
structure PortState where
  originate : List Queued
  forward   : List Queued
  lastSent  : Option Frame
  cursor    : Option Cursor
  mode      : ResponseMode
  held      : List Frame
  counters  : PortCounters
  deriving DecidableEq, Repr

/-- The Link Interface's other counters (R179, R199). -/
structure LinkCounters where
  badAddress         : Counter := 0
  looped             : Counter := 0
  untakenKind        : Counter := 0
  officeSyncDiscards : Counter := 0
  cyclesSkipped      : Counter := 0
  syncRenumbered     : Counter := 0
  syncLosses         : Counter := 0
  localSyncs         : Counter := 0
  shortPayload       : Counter := 0
  deriving DecidableEq, Repr

/-- The Link Interface (R166 to R180). `syncs` are the syncs waiting for the Office Port's transmitter; `interval` is the cycle
period in force when the running local sync interval began (R175). -/
structure Link where
  node         : Byte
  period       : CyclePeriod
  capturePort  : PortState
  officePort   : PortState
  syncs        : List Frame
  nextSerial   : Nat
  source       : SyncSource
  lossTimer    : Option Nat
  interval     : Option CyclePeriod
  previousSync : Option Word
  officeCycle  : Option Word
  counters     : LinkCounters
  deriving DecidableEq, Repr

/-! ## Management Unit -/

/-- The operating state (R188). -/
inductive OpState where
  | config
  | run
  deriving DecidableEq, Repr

/-- An entry of the manager list (R184). -/
structure Manager where
  node     : Byte
  lastPort : Port
  deriving DecidableEq, Repr

/-- The eleven alerts, in the order of their codes (R193, 11.4). -/
inductive Alert where
  | overrun
  | storeLow
  | slotsLow
  | markersLow
  | markRefused
  | cutDeferred
  | syncLost
  | clockUnset
  | offerExpired
  | leaseExpired
  | archiveStall
  deriving DecidableEq, Repr

/-- Mode of the status stream (R195). -/
inductive StatusMode where
  | off
  | time
  | cycles
  deriving DecidableEq, Repr

/-- The four per-port counters of the LINK_COUNTER item, in R179 order. -/
inductive LinkCounterName where
  | framesReceived
  | framesSent
  | crcErrors
  | forwardDrops
  deriving DecidableEq, Repr

/-- A STATUS_ITEMS entry: an item with its argument (R195). -/
inductive StatusItem where
  | none
  | roomState (room : RoomId)
  | openCells (room : RoomId)
  | poolDepth (pool : PoolId)
  | archiveDepth
  | freePages
  | freeMarkers
  | freeSlots
  | stationState (entry : StationId)
  | stationPosition (entry : StationId)
  | alertsPending
  | syncSource
  | linkCounter (port : Port) (counter : LinkCounterName)
  deriving DecidableEq, Repr

/-- The status stream's running count (R196): ticks remaining in TIME mode, office-side syncs counted in CYCLES mode. -/
inductive StatusCount where
  | ticks (remaining : Nat)
  | cycles (counted : Nat)
  deriving DecidableEq, Repr

/-- The TIMEOUTS entry: the fields of R89, R174 and R195. -/
structure Timeouts where
  accept       : Nat
  lease        : Nat
  stall        : Nat
  syncLoss     : Nat
  statusMode   : StatusMode
  statusDest   : Byte
  statusPort   : Port
  statusPeriod : Nat
  deriving DecidableEq, Repr

/-- The Management Unit's counters (R197). -/
structure MgmtCounters where
  controlTaken  : Counter := 0
  unknownSource : Counter := 0
  heldOverflows : Counter := 0
  alertNotices  : Counter := 0
  statusFrames  : Counter := 0
  deriving DecidableEq, Repr

/-- The Management Unit (R181 to R198): bit n of `latches` is the latch of the alert with code n (11.4). -/
structure Mgmt where
  op          : OpState
  managers    : Vector Manager 4
  latches     : BitVec 11
  statusItems : Vector StatusItem 16
  statusCount : Option StatusCount
  counters    : MgmtCounters
  deriving DecidableEq, Repr

/-! ## Results and notices -/

/-- Result codes, in the order of their codes (R183, 11.4). -/
inductive Result where
  | ok
  | notPermitted
  | unknownCommand
  | badParameter
  | wrongState
  | notHolder
  | noSuchTake
  | noTake
  | tableFull
  | pinned
  | unarchived
  | cursorEnd
  deriving DecidableEq, Repr

/-- Reasons of WITHDRAWN, in the order of R109. -/
inductive Withdrawal where
  | offerExpired
  | leaseExpired
  | stall
  | sessionReset
  | halt
  deriving DecidableEq, Repr

/-- Reasons of END_OF_TAKE, in the order of their codes (11.4). -/
inductive EndReason where
  | ended
  | followEnded
  | discarded
  | sessionReset
  | halt
  deriving DecidableEq, Repr

/-- The class of a sender (R182); a station's class comes with its entry. -/
inductive Sender where
  | manager
  | station (entry : StationId)
  | console
  | unknown
  deriving DecidableEq, Repr

end Sys2Proof.Machine
end

