-- ==== Sys2Proof/Machine/Wire.lean ====
section
/-! DEFINITION. How values stand on the wire: byte order (11), the CRC (R167), stamps, absent values (11.2), the numeric codes of
enumerations (11.2 to 11.4), records (11.5) and whole frames (11.1). -/

namespace Sys2Proof.Machine

/-! ## Numbers -/

/-- `n` in `k` bytes, most significant byte first (11). -/
def bytesOf : Nat → Nat → List Byte
  | 0, _ => []
  | k + 1, n => bytesOf k (n / 256) ++ [BitVec.ofNat 8 n]

/-- The number that bytes spell, most significant byte first. -/
def natOf (bs : List Byte) : Nat := bs.foldl (fun n b => n * 256 + b.toNat) 0

/-- A flag as one byte: 1 when set (log 11). -/
def flagByte (b : Bool) : List Byte := [if b then 1 else 0]

/-- A position, or its absent code (11.2). -/
def positionBytes (p : Option Nat) : List Byte := bytesOf 3 (p.getD 16777215)

/-- A page, or its absent code (11.2). -/
def pageBytes (p : Option Nat) : List Byte := bytesOf 2 (p.getD 65535)

/-- A take number, or its absent code (11.2). -/
def takeNumberBytes (n : Option Nat) : List Byte := bytesOf 2 (n.getD 0)

/-- A node, or its absent code (11.2). -/
def nodeBytes (n : Option Byte) : List Byte := [n.getD 0]

/-- An enumeration's code, or its absent code (11.2). -/
def enumBytes (c : Option Nat) : List Byte := bytesOf 1 (c.getD 255)

/-! ## CRC (R167) -/

/-- `k` shifts of the CRC register by the polynomial x^16 + x^12 + x^5 + 1. -/
def crcShift : Nat → Word → Word
  | 0, r => r
  | k + 1, r => crcShift k (if r.msb then (r <<< 1) ^^^ 0x1021#16 else r <<< 1)

/-- One byte into the CRC register, most significant bit first. -/
def crcByte (r : Word) (b : Byte) : Word := crcShift 8 (r ^^^ (b.setWidth 16 <<< 8))

/-- The CRC of bytes in arrival order, from a register of all ones. -/
def crcOf (bs : List Byte) : Word := bs.foldl crcByte 0xFFFF#16

/-! ## Codes -/

/-- Cycle period in µs (R166). -/
def CyclePeriod.us : CyclePeriod → Nat
  | .us2000 => 2000
  | .us2500 => 2500
  | .us4000 => 4000
  | .us5000 => 5000

/-- Samples of a granule (R7). -/
def CyclePeriod.samples : CyclePeriod → Nat
  | .us2000 => 16
  | .us2500 => 20
  | .us4000 => 32
  | .us5000 => 40

/-- Code of a cycle period (11.3, SYNC payload). -/
def CyclePeriod.code : CyclePeriod → Nat
  | .us2000 => 0
  | .us2500 => 1
  | .us4000 => 2
  | .us5000 => 3

/-- The cycle period of a code (11.3). -/
def periodOfCode (b : Byte) : Option CyclePeriod :=
  match b.toNat with
  | 0 => some .us2000
  | 1 => some .us2500
  | 2 => some .us4000
  | 3 => some .us5000
  | _ => none

def portCode : Port → Nat
  | .capture => 0
  | .office => 1

/-- A port of a code: CAPTURE 0, OFFICE 1 (11.3, 11.5). -/
def portOfCode (b : Byte) : Option Port :=
  match b.toNat with
  | 0 => some .capture
  | 1 => some .office
  | _ => none

def Validity.code : Validity → Nat
  | .set => 0
  | .unset => 1

def Outage.code : Outage → Nat
  | .none => 0
  | .held => 1
  | .lost => 2

def IngestAction.code : IngestAction → Nat
  | .unused => 0
  | .map => 1
  | .discard => 2

def ingestActionOfCode (b : Byte) : Option IngestAction :=
  match b.toNat with
  | 0 => some .unused
  | 1 => some .map
  | 2 => some .discard
  | _ => none

def RoomState.code : RoomState → Nat
  | .closed => 0
  | .onRecord => 1
  | .offRecord => 2

/-- R2 lists seal as OPEN or CLEAR, so OPEN is 0 (log 11). -/
def sealCode (sealed : Bool) : Nat := if sealed then 0 else 1

/-- Overrun cause in ROOM_STATE: 0 absent, 1 STORE, 2 LENGTH (11.4). -/
def overrunCode : Option Overrun → Nat
  | none => 0
  | some o => match o.cause with
    | .store => 1
    | .length => 2

def CutCause.code : CutCause → Nat
  | .schedule => 0
  | .length => 1
  | .console => 2
  | .manager => 3
  | .roomClose => 4
  | .sessionReset => 5
  | .deferred => 6

/-- FREE is 0 (R43, 11.2). -/
def Lifecycle.code : Lifecycle → Nat
  | .open => 1
  | .closed => 2
  | .retained => 3

def Transcription.code : Transcription → Nat
  | .pending => 0
  | .offered => 1
  | .assigned => 2
  | .typed => 3

def ArchiveState.code : ArchiveState → Nat
  | .unarchived => 0
  | .archiving => 1
  | .archived => 2

/-- Marker kind codes (11.3). -/
def MarkerKind.code : MarkerKind → Nat
  | .speaker => 1
  | .exhibit => 2
  | .objection => 3
  | .readbackRequest => 4
  | .note => 5
  | .offRecordBegin => 32
  | .offRecordEnd => 33
  | .sealBegin => 34
  | .sealEnd => 35
  | .gap => 48
  | .continued => 49

/-- The marker kind of a code (11.3). -/
def markerKindOfCode (b : Byte) : Option MarkerKind :=
  match b.toNat with
  | 1 => some .speaker
  | 2 => some .exhibit
  | 3 => some .objection
  | 4 => some .readbackRequest
  | 5 => some .note
  | 32 => some .offRecordBegin
  | 33 => some .offRecordEnd
  | 34 => some .sealBegin
  | 35 => some .sealEnd
  | 48 => some .gap
  | 49 => some .continued
  | _ => none

def annotationMarkerKind : AnnotationKind → MarkerKind
  | .speaker => .speaker
  | .exhibit => .exhibit
  | .objection => .objection
  | .readbackRequest => .readbackRequest

def StationClass.code : StationClass → Nat
  | .typist => 0
  | .readback => 1
  | .archive => 2

def stationClassOfCode (b : Byte) : Option StationClass :=
  match b.toNat with
  | 0 => some .typist
  | 1 => some .readback
  | 2 => some .archive
  | _ => none

/-- NO is 0, YES is 1 (R84). -/
def boolOfCode (b : Byte) : Option Bool :=
  match b.toNat with
  | 0 => some false
  | 1 => some true
  | _ => none

def MixMode.code : MixMode → Nat
  | .separate => 0
  | .mono => 1

def mixModeOfCode (b : Byte) : Option MixMode :=
  match b.toNat with
  | 0 => some .separate
  | 1 => some .mono
  | _ => none

def StationState.code : StationState → Nat
  | .offline => 0
  | .idle => 1
  | .waiting => 2
  | .offered => 3
  | .holding => 4
  | .listening => 5
  | .archiving => 6

/-- Running timer: none 0, OFFER 1, LEASE 2, STALL 3 (11.5). -/
def timerCode : Option Timer → Nat
  | none => 0
  | some t => match t.kind with
    | .offer => 1
    | .lease => 2
    | .stall => 3

def ContextState.code : ContextState → Nat
  | .stopped => 0
  | .playing => 1
  | .paused => 2
  | .heldLive => 3
  | .heldSealed => 4
  | .bulk => 5

/-- Last cue flags in one byte: SHORT, CLAMPED, SEALED_SKIP from bit 0; 255 absent (11.5). -/
def cueFlagsByte : Option CueFlags → List Byte
  | none => [255]
  | some f => [BitVec.ofNat 8 ((if f.short then 1 else 0) + (if f.clamped then 2 else 0) + (if f.sealedSkip then 4 else 0))]

def SyncSource.code : SyncSource → Nat
  | .repeating => 0
  | .localSource => 1

def TableName.code : TableName → Nat
  | .ingestMap => 0
  | .roomConfig => 1
  | .stationTable => 2
  | .cutSchedule => 3
  | .statusItems => 4
  | .managerList => 5
  | .linkProfile => 6
  | .storeSettings => 7
  | .timeouts => 8

/-- The table of a code: its order in the catalogue of R187 (11.3). -/
def tableOfCode (b : Byte) : Option TableName :=
  match b.toNat with
  | 0 => some .ingestMap
  | 1 => some .roomConfig
  | 2 => some .stationTable
  | 3 => some .cutSchedule
  | 4 => some .statusItems
  | 5 => some .managerList
  | 6 => some .linkProfile
  | 7 => some .storeSettings
  | 8 => some .timeouts
  | _ => none

def responseModeOfCode (b : Byte) : Option ResponseMode :=
  match b.toNat with
  | 0 => some .immediate
  | 1 => some .onSync
  | _ => none

def Alert.code : Alert → Nat
  | .overrun => 0
  | .storeLow => 1
  | .slotsLow => 2
  | .markersLow => 3
  | .markRefused => 4
  | .cutDeferred => 5
  | .syncLost => 6
  | .clockUnset => 7
  | .offerExpired => 8
  | .leaseExpired => 9
  | .archiveStall => 10

def StatusMode.code : StatusMode → Nat
  | .off => 0
  | .time => 1
  | .cycles => 2

def statusModeOfCode (b : Byte) : Option StatusMode :=
  match b.toNat with
  | 0 => some .off
  | 1 => some .time
  | 2 => some .cycles
  | _ => none

def LinkCounterName.code : LinkCounterName → Nat
  | .framesReceived => 0
  | .framesSent => 1
  | .crcErrors => 2
  | .forwardDrops => 3

/-- Item code and argument byte of a STATUS_ITEMS entry (11.4); items without an argument carry 0 (log 19). -/
def StatusItem.bytes : StatusItem → List Byte
  | .none => [0, 0]
  | .roomState r => bytesOf 1 1 ++ bytesOf 1 r.val
  | .openCells r => bytesOf 1 2 ++ bytesOf 1 r.val
  | .poolDepth p => bytesOf 1 3 ++ bytesOf 1 p.val
  | .archiveDepth => [4, 0]
  | .freePages => [5, 0]
  | .freeMarkers => [6, 0]
  | .freeSlots => [7, 0]
  | .stationState e => bytesOf 1 8 ++ bytesOf 1 e.val
  | .stationPosition e => bytesOf 1 9 ++ bytesOf 1 e.val
  | .alertsPending => [10, 0]
  | .syncSource => [11, 0]
  | .linkCounter p k => bytesOf 1 12 ++ bytesOf 1 (portCode p * 128 + k.code)

/-- The LINK_COUNTER argument: bit 7 is the port, the low bits the counter (11.4). -/
def linkCounterOfArg (a : Byte) : Option StatusItem :=
  let port : Port := if a.toNat / 128 = 1 then .office else .capture
  match a.toNat % 128 with
  | 0 => some (.linkCounter port .framesReceived)
  | 1 => some (.linkCounter port .framesSent)
  | 2 => some (.linkCounter port .crcErrors)
  | 3 => some (.linkCounter port .forwardDrops)
  | _ => none

/-- The room a byte names (R1). -/
def roomOfByte (b : Byte) : Option RoomId := if h : b.toNat < 16 then some ⟨b.toNat, h⟩ else none

/-- The pool a byte names (R90). -/
def poolOfByte (b : Byte) : Option PoolId := if h : b.toNat < 4 then some ⟨b.toNat, h⟩ else none

/-- The station entry a byte names (R84). -/
def stationOfByte (b : Byte) : Option StationId := if h : b.toNat < 32 then some ⟨b.toNat, h⟩ else none

/-- The item that an item code and an argument name (R195); none where a value is out of range. -/
def statusItemOf (code arg : Byte) : Option StatusItem :=
  match code.toNat with
  | 0 => some .none
  | 1 => (roomOfByte arg).map .roomState
  | 2 => (roomOfByte arg).map .openCells
  | 3 => (poolOfByte arg).map .poolDepth
  | 4 => some .archiveDepth
  | 5 => some .freePages
  | 6 => some .freeMarkers
  | 7 => some .freeSlots
  | 8 => (stationOfByte arg).map .stationState
  | 9 => (stationOfByte arg).map .stationPosition
  | 10 => some .alertsPending
  | 11 => some .syncSource
  | 12 => linkCounterOfArg arg
  | _ => none

def Result.code : Result → Nat
  | .ok => 0
  | .notPermitted => 1
  | .unknownCommand => 2
  | .badParameter => 3
  | .wrongState => 4
  | .notHolder => 5
  | .noSuchTake => 6
  | .noTake => 7
  | .tableFull => 8
  | .pinned => 9
  | .unarchived => 10
  | .cursorEnd => 11

def Withdrawal.code : Withdrawal → Nat
  | .offerExpired => 0
  | .leaseExpired => 1
  | .stall => 2
  | .sessionReset => 3
  | .halt => 4

def EndReason.code : EndReason → Nat
  | .ended => 0
  | .followEnded => 1
  | .discarded => 2
  | .sessionReset => 3
  | .halt => 4

/-! ## Stamps, labels, mixes, markers -/

/-- A stamp's eight bytes (11.2). -/
def Stamp.bytes (t : Stamp) : List Byte :=
  [BitVec.ofNat 8 (t.year - 2000), BitVec.ofNat 8 t.month, BitVec.ofNat 8 t.day, BitVec.ofNat 8 t.hour, BitVec.ofNat 8 t.minute,
    BitVec.ofNat 8 t.second] ++ bytesOf 2 (t.tick % 1024 + if t.uncertain then 32768 else 0)

/-- A stamp or its absent code, month byte 0 (11.2); that its other seven bytes are then 0 too is the model's choice (log 57). -/
def stampBytes : Option Stamp → List Byte
  | some t => t.bytes
  | none => [0, 0, 0, 0, 0, 0, 0, 0]

/-- A label's 13 bytes: length, then 12 characters, unused ones 0 (11.2). -/
def labelBytes (label : List Byte) : List Byte :=
  bytesOf 1 label.length ++ (label ++ List.replicate 12 0).take 12

/-- A mix as mode, mask and six gains (11.5). -/
def Mix.bytes (m : Mix) : List Byte :=
  bytesOf 1 m.mode.code ++ [m.mask.setWidth 8] ++ m.gains.toList.flatMap (bytesOf 1)

/-- A marker record (11.5). -/
def Marker.bytes (m : Marker) : List Byte :=
  bytesOf 2 m.number ++ bytesOf 1 m.kind.code ++ bytesOf 3 m.position ++ m.stamp.bytes ++ [m.source] ++ bytesOf 2 m.code.toNat ++
    labelBytes m.label ++ flagByte m.late ++
    bytesOf 2 (match m.kind with | .gap => m.gapCycles | .offRecordEnd => m.offCycles | _ => 0)

/-! ## Frames (11.1) -/

/-- Frame kind codes (11.1). -/
def kindSync : Byte := 1
def kindAudio : Byte := 2
def kindMark : Byte := 3
def kindControl : Byte := 4
def kindResponse : Byte := 5
def kindNotice : Byte := 6
def kindPlayback : Byte := 7
def kindStatus : Byte := 8

/-- Header and payload of a frame, before its CRC. -/
def frameBody (dst src kind : Byte) (payload : List Byte) : List Byte :=
  [dst, src, kind] ++ bytesOf 2 payload.length ++ payload

/-- A whole frame with its CRC, high byte first (R167, R200). -/
def mkFrame (dst src kind : Byte) (payload : List Byte) : Frame :=
  frameBody dst src kind payload ++ bytesOf 2 (crcOf (frameBody dst src kind payload)).toNat

/-- A capture sync byte for byte as it arrived (R172). -/
def syncFrameBytes (f : SyncFrame) : Frame :=
  frameBody f.dst f.src kindSync (bytesOf 2 f.cycle.toNat ++ f.rest) ++ bytesOf 2 f.crc.toNat

/-- A sound frame's header and payload, with its CRC as received. -/
structure Parsed where
  dst     : Byte
  src     : Byte
  kind    : Byte
  payload : List Byte
  crc     : Word
  deriving DecidableEq, Repr

/-- The soundness check of R167: a length field of at most 1024 that counts the bytes between header and CRC, and a matching CRC.
Fewer bytes than a header and a CRC cannot hold a length that agrees (log 29). -/
def parseFrame (bs : Frame) : Option Parsed :=
  match bs with
  | dst :: src :: kind :: l1 :: l2 :: rest =>
    let len := natOf [l1, l2]
    let payload := rest.take len
    let crc := natOf (rest.drop len)
    if len ≤ 1024 ∧ rest.length = len + 2 ∧ crc = (crcOf ([dst, src, kind, l1, l2] ++ payload)).toNat then
      some ⟨dst, src, kind, payload, BitVec.ofNat 16 crc⟩
    else none
  | _ => none

end Sys2Proof.Machine
end

