-- ==== Sys2Proof/Machine/Arith.lean ====
section
/-! DEFINITION. The part's arithmetic: durations to ticks (R158) and to cycles (R118), the calendar (R152, R153), cycle distances
(R72, R173), the mix (R137). -/

namespace Sys2Proof.Machine

/-- Milliseconds to ticks, rounded up (R158). -/
def ticksOfMs (ms : Nat) : Nat := (ms * 1024 + 999) / 1000

/-- Seconds to ticks (R158). -/
def ticksOfS (s : Nat) : Nat := s * 1024

/-- Minutes to ticks (R158). -/
def ticksOfMin (m : Nat) : Nat := m * 61440

/-- A signed duration in ms as a signed count of cycles of `p` µs, to the nearest cycle, ties away from zero (R118). -/
def cyclesOfMs (p : Nat) (ms : Int) : Int :=
  let magnitude : Nat := (ms.natAbs * 1000 + p / 2) / p
  if ms < 0 then -(magnitude : Int) else magnitude

/-- Days of a month (R152). -/
def monthLength (year month : Nat) : Nat :=
  if month = 2 then (if year % 4 = 0 then 29 else 28)
  else if month = 4 ∨ month = 6 ∨ month = 9 ∨ month = 11 then 30
  else 31

/-- A midnight passes: steps 3 to 5 of R153 for the day, month and year, and the day of week. -/
def Calendar.nextDay (c : Calendar) : Calendar :=
  let c := { c with dow := if c.dow = 7 then 1 else c.dow + 1 }
  if c.day < monthLength c.year c.month then { c with day := c.day + 1 }
  else if c.month < 12 then { c with day := 1, month := c.month + 1 }
  else { c with day := 1, month := 1, year := if c.year = 2099 then 2000 else c.year + 1 }

/-- The second update of R153. -/
def Calendar.nextSecond (c : Calendar) : Calendar :=
  if c.second < 59 then { c with second := c.second + 1 }
  else if c.minute < 59 then { c with second := 0, minute := c.minute + 1 }
  else if c.hour < 23 then { c with second := 0, minute := 0, hour := c.hour + 1 }
  else ({ c with second := 0, minute := 0, hour := 0 } : Calendar).nextDay

/-- Whether the next tick arrival makes a second update (R153). -/
def Calendar.atLastTick (c : Calendar) : Bool := c.tick == 1023

/-- One tick arrival at the calendar (R153). -/
def Calendar.addTick (c : Calendar) : Calendar :=
  if c.atLastTick then ({ c with tick := 0 } : Calendar).nextSecond else { c with tick := c.tick + 1 }

/-- The stamp that a read of the clock gives (R155). -/
def Calendar.stamp (c : Calendar) : Stamp :=
  { year := c.year, month := c.month, day := c.day, hour := c.hour, minute := c.minute, second := c.second, tick := c.tick,
    uncertain := c.validity == .unset }

/-- The distance from cycle `m` on to cycle `c`, modulo 65536 (R72, R173). -/
def cycleDistance (c m : Word) : Nat := (c - m).toNat

/-- A silent granule (R10). -/
def silentGranule (p : CyclePeriod) : Granule := List.replicate p.samples 0

/-- A sum divided by 16, rounded toward minus infinity, then saturated to 16 bits (R137). -/
def mixSample (s : Int) : Word := BitVec.ofInt 16 (max (-32768) (min 32767 (s.fdiv 16)))

/-- Track `t` (from 1) is named by a mask whose lowest bit stands for track 1 (11.3). -/
def maskHas {w : Nat} (mask : BitVec w) (t : Nat) : Bool := mask.getLsbD (t - 1)

/-- A gain of a mix, for track `t` (R129). -/
def Mix.gain (m : Mix) (t : Nat) : Nat := m.gains[t - 1]?.getD 0

/-- Sample `j` of a cell's granule for track `t`. -/
def cellSample (cell : AudioCell) (t j : Nat) : Int := (((cell[t - 1]?.getD [])[j]?.getD 0) : Word).toInt

/-- The masked tracks within a take's track count, in rising order (R136, R137). -/
def mixTracks (m : Mix) (tracks : Nat) : List Nat := (List.range' 1 tracks).filter (maskHas m.mask ·)

/-- The MONO granule of a cell (R137). -/
def monoGranule (m : Mix) (tracks samples : Nat) (cell : AudioCell) : Granule :=
  (List.range samples).map fun j =>
    mixSample (((mixTracks m tracks).map fun t => cellSample cell t j * (m.gain t : Int)).foldl (· + ·) 0)

end Sys2Proof.Machine
end

