-- ==== Sys2Proof/Machine/ResetValues.lean ====
section
/-! DEFINITION. The value of each block's items after power-on reset and hard reset, as its rule states it. -/

namespace Sys2Proof.Machine

/-- A strap address of 0 or 255 is taken as 254 (R166, R184). -/
def strapNode (b : Byte) : Byte := if b = 0 ∨ b = 255 then 254 else b

/-- The page count of the STORE straps (R26). -/
def strapPages (b : BitVec 2) : Nat := 4096 * 2 ^ b.toNat

/-- The clock after power-on with backup lost (R152, R154). -/
def lostCalendar : Calendar :=
  { year := 2000, month := 1, day := 1, hour := 0, minute := 0, second := 0, tick := 0, dow := 1, validity := .unset, outage := .lost }

/-- A CUT_SCHEDULE entry's defaults (R160). -/
def defaultSchedule : ScheduleEntry := { hour := none, minute := some 0, second := 0, mask := 0 }

/-- An ingest map entry's defaults (R6). -/
def defaultIngest : IngestEntry := { action := .unused, source := 0, channel := none, room := 0, track := 1 }

/-- A room configuration's defaults (R1). -/
def defaultRoomConfig : RoomConfig := { console := 0, tracks := 1, pool := 1, minCells := 256, lengthLimit := 225000 }

/-- A cell under assembly with every granule slot empty (R2). -/
def emptyAssembly (tracks : Nat) : List (Option Granule) := List.replicate tracks none

/-- A room after reset (R1, R2, R25). -/
def resetRoom : Room :=
  { config := defaultRoomConfig, state := .closed, openTake := none, sealed := false, overrun := none, deferred := none,
    offCycles := 0, gap := 0, assembly := emptyAssembly 1, ring := [], counters := {} }

/-- The Page Store after reset (R28, R32, R41). -/
def resetStore (pageCount : Nat) : Store :=
  { pageCount := pageCount, pages := [], freePages := List.range pageCount, retention := [], pageReserve := 256, counters := {} }

/-- The Take Table after reset (R45, R65). -/
def resetTakeTable : TakeTable := { takes := [], issue := 1, counters := {} }

/-- The Marker Pool after reset (R66). -/
def resetMarkerPool : MarkerPool := { free := Config.markerEntries }

/-- The default mix of a station entry (R84): MONO, tracks 1 to 6, gain 16 each. -/
def defaultMix : Mix := { mode := .mono, mask := 63, gains := Vector.replicate 6 16 }

/-- A station entry's defaults (R84). -/
def defaultStationConfig : StationConfig :=
  { node := 0, cls := .typist, pools := 15, clearance := false, mix := defaultMix, backstep := 0, listenDelay := 2000 }

/-- A station entry with the dynamic part it has after reset or a write (R84, R85). -/
def freshStation (config : StationConfig) : Station :=
  { config := config, state := .offline, take := none, misses := 0, lastPort := .office, timer := none }

/-- The Hand-off Unit after reset (R110, R111). -/
def resetHandOff : HandOff :=
  { stations := Vector.replicate 32 (freshStation defaultStationConfig), pools := Vector.replicate 4 [], archive := [], wait := [],
    counters := {} }

/-- A STOPPED context with a mix (R129). -/
def stoppedContext (mix : Mix) : Context :=
  { state := .stopped, take := none, position := none, located := none, saved := none, notice := none, mix := mix, follow := false,
    link := none, credits := 0, markersSent := 0, flags := none }

/-- The Playback Unit after reset (R150, R151). -/
def resetPlayback : Playback := { contexts := Vector.replicate 32 (stoppedContext defaultMix), counters := {} }

/-- A port after reset (R180, R198). -/
def resetPort : PortState :=
  { originate := [], forward := [], lastSent := none, cursor := none, mode := .immediate, held := [], counters := {} }

/-- The TIMEOUTS entry's defaults (R89, R174, R195). -/
def defaultTimeouts : Timeouts :=
  { accept := 30, lease := 20, stall := 10, syncLoss := 20, statusMode := .off, statusDest := 0, statusPort := .office,
    statusPeriod := 1000 }

/-- The Link Interface after reset (R180); that no sync waits for the Office Port's transmitter is the model's choice (log 55). -/
def resetLink (node : Byte) : Link :=
  { node := node, period := .us4000, capturePort := resetPort, officePort := resetPort, syncs := [], nextSerial := 0,
    source := .repeating, lossTimer := some (ticksOfMs defaultTimeouts.syncLoss), interval := none, previousSync := none,
    officeCycle := none, counters := {} }

/-- The manager list after reset (R184). -/
def resetManagers (mgr : Byte) : Vector Manager 4 :=
  (Vector.replicate 4 ⟨0, .office⟩).set 0 ⟨mgr, .office⟩

/-- The Management Unit after reset (R198), before any CLOCK_UNSET report. -/
def resetMgmt (mgr : Byte) : Mgmt :=
  { op := .config, managers := resetManagers mgr, latches := 0, statusItems := Vector.replicate 16 .none, statusCount := none,
    counters := {} }

/-- An ALERT notice's payload (11.4). -/
def alertPayload (a : Alert) (latches : BitVec 11) (stamp : Stamp) : List Byte :=
  bytesOf 1 5 ++ bytesOf 1 a.code ++ bytesOf 2 latches.toNat ++ stamp.bytes

end Sys2Proof.Machine
end

