-- ==== Sys2Proof/Machine/State.lean ====
section
/-! DEFINITION. The state of the device, block by block, with the queue of waiting commands; the reasons a step can stop; the state
right after reset. -/

namespace Sys2Proof.Machine

/-- Reasons for which the device stops. The spec names none: a refused command is answered (R183), an unsound or ill-addressed
frame is counted and discarded (R167, R168), and the device goes on. So there is no constructor, and no step ends here. -/
inductive Fault where
  deriving DecidableEq, Repr

/-- Reasons for which the model has no meaning for a command. -/
inductive Refusal where
  /-- The command of this mnemonic is not modelled yet; raised only by an arm of `exec` (safe: the model stops). No arm does. -/
  | notModelled (mnemonic : String)
  deriving DecidableEq, Repr

/-- The state of the device. -/
structure State where
  /-- Commands waiting, first in, first out (the model's own). -/
  pending    : List Instr
  /-- Main power and the backup supply (R154). -/
  power      : Power
  /-- The Proceedings Clock's calendar (R152). -/
  clock      : Calendar
  /-- The CUT_SCHEDULE table (R160). -/
  schedule   : Vector ScheduleEntry 8
  /-- The clock's counters (R165). -/
  clockCounters : ClockCounters
  /-- The ingest map (R6) and the Ingest Mapper's counters (R8). -/
  ingestMap  : Vector IngestEntry 64
  ingestCounters : IngestCounters
  /-- The rooms (R1, R2, R25). -/
  rooms      : Vector Room 16
  /-- The current capture cycle (R9). -/
  currentCycle : Option Word
  /-- The Room Recorder's NOT_CONSOLE counter (R25). -/
  notConsole : Counter
  /-- The Page Store (R26 to R41). -/
  store      : Store
  /-- The Take Table (R43 to R65). -/
  takeTable  : TakeTable
  /-- The Marker Pool (R66 to R83). -/
  markerPool : MarkerPool
  /-- The Hand-off Unit (R84 to R111). -/
  handOff    : HandOff
  /-- The Playback Unit (R129 to R151). -/
  playback   : Playback
  /-- The Link Interface (R166 to R180). -/
  link       : Link
  /-- The TIMEOUTS table (R89, R174, R195). -/
  timeouts   : Timeouts
  /-- The Management Unit (R181 to R198). -/
  mgmt       : Mgmt
  deriving DecidableEq, Repr

/-- Every block at its reset values, with main power present, the given calendar and queue, and the straps as sampled
(R41, R65, R110, R150, R180, R198). -/
def State.afterReset (straps : Straps) (clock : Calendar) (pending : List Instr) : State :=
  { pending := pending, power := .on, clock := clock,
    schedule := Vector.replicate 8 defaultSchedule, clockCounters := {},
    ingestMap := Vector.replicate 64 defaultIngest, ingestCounters := {},
    rooms := Vector.replicate 16 resetRoom, currentCycle := none, notConsole := 0,
    store := resetStore (strapPages straps.store), takeTable := resetTakeTable, markerPool := resetMarkerPool,
    handOff := resetHandOff, playback := resetPlayback,
    link := resetLink (strapNode straps.node), timeouts := defaultTimeouts,
    mgmt := resetMgmt (strapNode straps.mgr) }

/-- The straps of State.reset: DESIGN CHOICE, those of the spec's worked configuration, 10.9 (log 1). -/
def resetStraps : Straps := { node := 200, mgr := 10, store := 0 }

/-- The state right after power-on reset, with the straps of log 1 and the backup lost (log 2): CLOCK_UNSET is latched and its
notice waits for the bootstrap manager on the Office Port (R154, R193, R198). -/
def State.reset : State :=
  let s := State.afterReset resetStraps lostCalendar []
  { s with
    link := { s.link with
      officePort := { s.link.officePort with
        originate := [⟨0, mkFrame 10 200 kindNotice (alertPayload .clockUnset 0x080#11 lostCalendar.stamp)⟩] }
      nextSerial := 1 }
    mgmt := { s.mgmt with latches := 0x080#11, counters := { s.mgmt.counters with alertNotices := 1 } } }

end Sys2Proof.Machine
end

