-- ==== Sys2Proof/Machine/Ops.lean ====
section
/-! DEFINITION. The named operations over the state that every meaning is written with: reading and writing one room, station, context,
take, page or port; placing a frame in an originate list (R171); notices to stations (R109). -/

namespace Sys2Proof.Machine

/-! ## Reading and writing one item -/

/-- The Proceedings Clock's stamp now (R155). -/
def State.now (s : State) : Stamp := s.clock.stamp

/-- A room of the room table. -/
def State.room (s : State) (r : RoomId) : Room := s.rooms[r]

/-- Changes one room. -/
def State.updRoom (s : State) (r : RoomId) (f : Room → Room) : State :=
  { s with rooms := s.rooms.set r.val (f (s.room r)) r.isLt }

/-- A station-table entry. -/
def State.station (s : State) (e : StationId) : Station := s.handOff.stations[e]

/-- Changes one station-table entry. -/
def State.updStation (s : State) (e : StationId) (f : Station → Station) : State :=
  { s with handOff := { s.handOff with stations := s.handOff.stations.set e.val (f (s.station e)) e.isLt } }

/-- A playback context. -/
def State.context (s : State) (e : StationId) : Context := s.playback.contexts[e]

/-- Changes one playback context. -/
def State.updContext (s : State) (e : StationId) (f : Context → Context) : State :=
  { s with playback := { s.playback with contexts := s.playback.contexts.set e.val (f (s.context e)) e.isLt } }

/-- A pool queue, head first. -/
def State.pool (s : State) (p : PoolId) : List Nat := s.handOff.pools[p]

/-- Changes one pool queue. -/
def State.updPool (s : State) (p : PoolId) (f : List Nat → List Nat) : State :=
  { s with handOff := { s.handOff with pools := s.handOff.pools.set p.val (f (s.pool p)) p.isLt } }

/-- The archive queue changed (R103). -/
def State.updArchive (s : State) (f : List Nat → List Nat) : State :=
  { s with handOff := { s.handOff with archive := f s.handOff.archive } }

/-- The wait list changed (R91). -/
def State.updWait (s : State) (f : List StationId → List StationId) : State :=
  { s with handOff := { s.handOff with wait := f s.handOff.wait } }

/-- The Hand-off Unit's counters changed (R111). -/
def State.countHandOff (s : State) (f : HandOffCounters → HandOffCounters) : State :=
  { s with handOff := { s.handOff with counters := f s.handOff.counters } }

/-- The Playback Unit's counters changed (R151). -/
def State.countPlayback (s : State) (f : PlaybackCounters → PlaybackCounters) : State :=
  { s with playback := { s.playback with counters := f s.playback.counters } }

/-- The Take Table's counters changed (R64). -/
def State.countTakes (s : State) (f : TakeCounters → TakeCounters) : State :=
  { s with takeTable := { s.takeTable with counters := f s.takeTable.counters } }

/-- The Page Store's counters changed (R40). -/
def State.countStore (s : State) (f : StoreCounters → StoreCounters) : State :=
  { s with store := { s.store with counters := f s.store.counters } }

/-- The Link Interface's counters changed (R179, R199). -/
def State.countLink (s : State) (f : LinkCounters → LinkCounters) : State :=
  { s with link := { s.link with counters := f s.link.counters } }

/-- The Management Unit's counters changed (R197). -/
def State.countMgmt (s : State) (f : MgmtCounters → MgmtCounters) : State :=
  { s with mgmt := { s.mgmt with counters := f s.mgmt.counters } }

/-- A room's counters changed (R25). -/
def State.countRoom (s : State) (r : RoomId) (f : RoomCounters → RoomCounters) : State :=
  s.updRoom r fun x => { x with counters := f x.counters }

/-- The take in a slot, if the slot is not FREE (R43). -/
def State.take? (s : State) (slot : Nat) : Option Take := mapGet slot s.takeTable.takes

/-- Writes a slot's take record. -/
def State.setTake (s : State) (slot : Nat) (t : Take) : State :=
  { s with takeTable := { s.takeTable with takes := mapSet slot t s.takeTable.takes } }

/-- Changes the take in a slot, if there is one. -/
def State.updTake (s : State) (slot : Nat) (f : Take → Take) : State :=
  match s.take? slot with
  | some t => s.setTake slot (f t)
  | none => s

/-- The count of FREE slots (R44). -/
def State.freeSlots (s : State) : Nat := Config.takeSlots - s.takeTable.takes.length

/-- The slot and record of the live take with a number (R62). Number 0 names none. -/
def State.findTake (s : State) (number : Nat) : Option (Nat × Take) :=
  s.takeTable.takes.find? fun p => p.2.number == number

/-- The number of the take in a slot, 0 where the slot is FREE. -/
def State.numberOf (s : State) (slot : Nat) : Nat := ((s.take? slot).map Take.number).getD 0

/-- The cell count of the take in a slot, 0 where the slot is FREE. -/
def State.cellsOf (s : State) (slot : Nat) : Nat := ((s.take? slot).map Take.cells).getD 0

/-- A page in a chain, if the page is not free (R27). -/
def State.page? (s : State) (n : Nat) : Option Page := mapGet n s.store.pages

/-- One of the two ports (R166). -/
def State.port (s : State) : Port → PortState
  | .capture => s.link.capturePort
  | .office => s.link.officePort

/-- Changes one port. -/
def State.updPort (s : State) (p : Port) (f : PortState → PortState) : State :=
  match p with
  | .capture => { s with link := { s.link with capturePort := f s.link.capturePort } }
  | .office => { s with link := { s.link with officePort := f s.link.officePort } }

/-- The port on the other side (R169). -/
def oppositePort : Port → Port
  | .capture => .office
  | .office => .capture

/-- The stations in station-table order, 0 to 31 (R84). -/
def allStations : List StationId := List.finRange 32

/-- The rooms in ascending order. -/
def allRooms : List RoomId := List.finRange 16

/-- The pools in priority order, 0 first (R90). -/
def allPools : List PoolId := List.finRange 4

/-! ## Frames out -/

/-- A frame for a port's transmitter joins the port's originate list, or is discarded and counted when the list is full (R171). -/
def originate (p : Port) (fr : Frame) (s : State) : State :=
  if (s.port p).originate.length < Config.originateFrames then
    let s := s.updPort p fun q => { q with originate := q.originate ++ [⟨s.link.nextSerial, fr⟩] }
    { s with link := { s.link with nextSerial := s.link.nextSerial + 1 } }
  else
    s.updPort p fun q => { q with counters := { q.counters with originateDrops := q.counters.originateDrops + 1 } }

/-- A frame joins the forward queue toward a port, or is counted as dropped at the port of its arrival (R170). -/
def forward (arrival : Port) (fr : Frame) (s : State) : State :=
  let toward := oppositePort arrival
  if (s.port toward).forward.length < Config.forwardFrames then
    let s := s.updPort toward fun q => { q with forward := q.forward ++ [⟨s.link.nextSerial, fr⟩] }
    { s with link := { s.link with nextSerial := s.link.nextSerial + 1 } }
  else
    s.updPort arrival fun q => { q with counters := { q.counters with forwardDrops := q.counters.forwardDrops + 1 } }

/-- A frame the device builds, with its own address as source (R200). -/
def State.deviceFrame (s : State) (dst kind : Byte) (payload : List Byte) : Frame := mkFrame dst s.link.node kind payload

/-- A NOTICE to a station, out of the station's last port (R109). -/
def stationNotice (e : StationId) (payload : List Byte) (s : State) : State :=
  originate (s.station e).lastPort (s.deviceFrame (s.station e).config.node kindNotice payload) s

/-- A WITHDRAWN notice (R109, 11.4). -/
def withdrawnNotice (e : StationId) (takeNumber : Nat) (why : Withdrawal) (s : State) : State :=
  stationNotice e (bytesOf 1 2 ++ bytesOf 2 takeNumber ++ bytesOf 1 why.code) s

/-- An END_OF_TAKE notice, counted (R144, R151, 11.4). -/
def endOfTakeNotice (e : StationId) (takeNumber position : Nat) (why : EndReason) (s : State) : State :=
  (stationNotice e (bytesOf 1 4 ++ bytesOf 2 takeNumber ++ bytesOf 3 position ++ bytesOf 1 why.code) s).countPlayback
    fun k => { k with endOfTakeNotices := k.endOfTakeNotices + 1 }

/-- Folds an operation over items, left to right: the blocks act one after another within one event. -/
def forEach {α : Type} (xs : List α) (f : α → State → State) (s : State) : State := xs.foldl (fun s x => f x s) s

end Sys2Proof.Machine
end

