-- ==== Sys2Proof/Machine/Flags.lean ====
section
/-! DEFINITION. The alert latches (R193, R194): reporting an alert, the live conditions, and the counts behind them. -/

namespace Sys2Proof.Machine

/-- The latch of an alert (R193). -/
def State.latched (s : State) (a : Alert) : Bool := s.mgmt.latches.getLsbD a.code

/-- The set holding one alert (11.4). -/
def alertBit (a : Alert) : BitVec 11 := 1#11 <<< a.code

/-- One ALERT notice to a manager-list entry, counted, if the entry is used (R193). -/
def alertManager (a : Alert) (m : Manager) (s : State) : State :=
  if m.node = 0 then s
  else (originate m.lastPort (s.deviceFrame m.node kindNotice (alertPayload a s.mgmt.latches s.now)) s).countMgmt
    fun k => { k with alertNotices := k.alertNotices + 1 }

/-- A block reports an alert: a clear latch is set and every manager is sent a notice; a set latch changes nothing (R193). The
managers are served in list order, entry 0 first (log 52). -/
def reportAlert (a : Alert) (s : State) : State :=
  if s.latched a then s
  else forEach s.mgmt.managers.toList (alertManager a) { s with mgmt := { s.mgmt with latches := s.mgmt.latches ||| alertBit a } }

/-- The page reserve is unmet (R32). -/
def State.pagesShort (s : State) : Bool := s.store.freePages.length < s.store.pageReserve

/-- The slot reserve is unmet (R32). -/
def State.slotsShort (s : State) : Bool := s.freeSlots < Config.slotReserve

/-- Whether an alert's condition holds now (R194). -/
def State.live (s : State) : Alert → Bool
  | .overrun => allRooms.any fun r => (s.room r).overrun.isSome
  | .cutDeferred => allRooms.any fun r => (s.room r).deferred.isSome
  | .storeLow => s.pagesShort
  | .slotsLow => s.slotsShort
  | .markersLow => s.markerPool.free ≤ Config.markerReserve
  | .syncLost => s.link.source == .localSource
  | .clockUnset => s.clock.validity == .unset
  | .markRefused => false
  | .offerExpired => false
  | .leaseExpired => false
  | .archiveStall => false

/-- The eleven alerts. -/
def allAlerts : List Alert :=
  [.overrun, .storeLow, .slotsLow, .markersLow, .markRefused, .cutDeferred, .syncLost, .clockUnset, .offerExpired, .leaseExpired,
    .archiveStall]

/-- The live set (R194). -/
def State.liveSet (s : State) : BitVec 11 :=
  (allAlerts.filter fun a => s.live a).foldl (fun b a => b ||| alertBit a) 0

end Sys2Proof.Machine
end

