-- ==== Sys2Proof/Machine/Operands.lean ====
section
/-! DEFINITION. CONTROL frames: command codes (11.3), the command table (R183), classes of senders (R182), the checks every command
passes first (R88, R183), responses (R181, R191, R192). -/

namespace Sys2Proof.Machine

/-- The commands of CONTROL frames (R183). -/
inductive CommandName where
  | run | halt | sessionReset | setCursor | writeEntry | readEntry | setResponseMode | readAlerts | readCounters | clearCounters
  | openRoom | closeRoom | cutTake | readTake | readQueue | moveTake | readMarker | releaseTake | clearStore | setClock | readClock
  | hello | readPosition | stop | requestWork | accept | decline | keep | complete | returnTake | cue | save | play | pause
  | setNotice | setMix | addNote | listen | requestArchive | archived | archiveFailed | credit
  deriving DecidableEq, Repr

/-- The commands in the order of their codes, from 1 (11.3). -/
def commandList : List CommandName :=
  [.run, .halt, .sessionReset, .setCursor, .writeEntry, .readEntry, .setResponseMode, .readAlerts, .readCounters, .clearCounters,
    .openRoom, .closeRoom, .cutTake, .readTake, .readQueue, .moveTake, .readMarker, .releaseTake, .clearStore, .setClock, .readClock,
    .hello, .readPosition, .stop, .requestWork, .accept, .decline, .keep, .complete, .returnTake, .cue, .save, .play, .pause,
    .setNotice, .setMix, .addNote, .listen, .requestArchive, .archived, .archiveFailed, .credit]

/-- Code of a command (11.3). -/
def CommandName.code : CommandName → Nat
  | .run => 1 | .halt => 2 | .sessionReset => 3 | .setCursor => 4 | .writeEntry => 5 | .readEntry => 6 | .setResponseMode => 7
  | .readAlerts => 8 | .readCounters => 9 | .clearCounters => 10 | .openRoom => 11 | .closeRoom => 12 | .cutTake => 13
  | .readTake => 14 | .readQueue => 15 | .moveTake => 16 | .readMarker => 17 | .releaseTake => 18 | .clearStore => 19
  | .setClock => 20 | .readClock => 21 | .hello => 22 | .readPosition => 23 | .stop => 24 | .requestWork => 25 | .accept => 26
  | .decline => 27 | .keep => 28 | .complete => 29 | .returnTake => 30 | .cue => 31 | .save => 32 | .play => 33 | .pause => 34
  | .setNotice => 35 | .setMix => 36 | .addNote => 37 | .listen => 38 | .requestArchive => 39 | .archived => 40
  | .archiveFailed => 41 | .credit => 42

/-- The command of a code (11.3). -/
def commandOfCode (n : Nat) : Option CommandName := commandList.find? fun c => c.code == n

/-- The classes to which the command table permits a station command (R183). -/
def CommandName.permits : CommandName → StationClass → Bool
  | .hello, _ => true
  | .readClock, _ => true
  | .readPosition, _ => true
  | .stop, _ => true
  | .requestWork, .typist => true
  | .accept, .typist => true
  | .decline, .typist => true
  | .keep, .typist => true
  | .complete, .typist => true
  | .returnTake, .typist => true
  | .cue, .typist => true
  | .cue, .readback => true
  | .save, .typist => true
  | .save, .readback => true
  | .play, .typist => true
  | .play, .readback => true
  | .pause, .typist => true
  | .pause, .readback => true
  | .setNotice, .typist => true
  | .setNotice, .readback => true
  | .setMix, .typist => true
  | .setMix, .readback => true
  | .addNote, .typist => true
  | .addNote, .readback => true
  | .listen, .readback => true
  | .requestArchive, .archive => true
  | .archived, .archive => true
  | .archiveFailed, .archive => true
  | .credit, .archive => true
  | _, _ => false

/-- The commands that restart a HOLDING station's lease (R99). -/
def CommandName.restartsLease : CommandName → Bool
  | .keep => true
  | .cue => true
  | .play => true
  | .pause => true
  | .stop => true
  | .save => true
  | .setNotice => true
  | .setMix => true
  | .addNote => true
  | .readPosition => true
  | _ => false

/-! ## Senders -/

/-- The station-table entry of a node (R84): an entry with node address 0 is not found. -/
def State.findStation (s : State) (node : Byte) : Option StationId :=
  if node = 0 then none else allStations.find? fun e => (s.station e).config.node == node

/-- The entry of the manager list that names a node (R182): an entry with address 0 is unused. -/
def State.findManager (s : State) (node : Byte) : Option (Fin 4) :=
  if node = 0 then none else (List.finRange 4).find? fun m => s.mgmt.managers[m].node == node

/-- The first room whose console is a node (R17). -/
def State.findConsole (s : State) (node : Byte) : Option RoomId :=
  if node = 0 then none else allRooms.find? fun r => (s.room r).config.console == node

/-- The class of a CONTROL frame's source (R182). -/
def State.sender (s : State) (node : Byte) : Sender :=
  if (s.findManager node).isSome then .manager
  else match s.findStation node with
    | some e => .station e
    | none => if (s.findConsole node).isSome then .console else .unknown

/-- A frame is taken from a node: the last port of its manager entry (R184) or station entry (R85) becomes the port of arrival. A
node in the manager list is never reached as a station (R182, log 24). -/
def takenFrom (p : Port) (node : Byte) (s : State) : State :=
  match s.findManager node with
  | some m =>
    { s with mgmt := { s.mgmt with managers := s.mgmt.managers.set m.val { s.mgmt.managers[m] with lastPort := p } m.isLt } }
  | none =>
    match s.findStation node with
    | some e => s.updStation e fun x => { x with lastPort := p }
    | none => s

/-! ## Responses -/

/-- A response joins the port's originate list, or in ON_SYNC its held-response queue while that holds fewer than 16 (R191, R192). -/
def sendResponse (p : Port) (fr : Frame) (s : State) : State :=
  match (s.port p).mode with
  | .immediate => originate p fr s
  | .onSync =>
    if (s.port p).held.length < Config.heldResponses then s.updPort p fun q => { q with held := q.held ++ [fr] }
    else (originate p fr s).countMgmt fun k => { k with heldOverflows := k.heldOverflows + 1 }

/-- A RESPONSE frame (R181, 11.4): a result other than OK carries no fields. -/
def State.responseFrame (s : State) (dst : Byte) (command tag : Nat) (r : Result) (fields : List Byte) : Frame :=
  s.deviceFrame dst kindResponse (bytesOf 2 command ++ bytesOf 2 tag ++ bytesOf 1 r.code ++ if r = .ok then fields else [])

/-- The responses that are sent at once in either response mode: the OK responses of HALT and SESSION_RESET, which follow the held responses
that the command has just sent (R189, R190, R191). Their refusals send none, and are held as others are, so that the responses of a port keep
their order (R181, log 53). -/
def sentAtOnce (cmd : CommandName) (r : Result) : Bool := (cmd == .halt || cmd == .sessionReset) && r == .ok

/-- The response to a command, out of its port of arrival (R181, R191). -/
def respond (c : Ctl) (cmd : CommandName) (r : Result) (fields : List Byte) (s : State) : State :=
  let fr := s.responseFrame c.src cmd.code c.tag.toNat r fields
  if sentAtOnce cmd r then originate c.port fr s else sendResponse c.port fr s

/-- The held responses of a port join its originate list in queue order, and the queue is empty (R192). -/
def releaseHeld (p : Port) (s : State) : State :=
  forEach (s.port p).held (originate p) (s.updPort p fun q => { q with held := [] })

/-! ## The checks before a command's own -/

/-- A command acts only while main power is present: without it the device stops (R154, log 7). -/
def whenOn (s : State) (k : State → State) : State := if s.power = .on then k s else s

/-- R183's source check: an unknown source is refused NOT_PERMITTED and counted; a known one adds to CONTROL_TAKEN. -/
def control (c : Ctl) (cmd : CommandName) (k : Sender → State → State) (s : State) : State :=
  whenOn s fun s =>
    let s := takenFrom c.port c.src s
    match s.sender c.src with
    | .unknown =>
      respond c cmd .notPermitted [] (s.countMgmt fun q => { q with unknownSource := q.unknownSource + 1 })
    | who => k who (s.countMgmt fun q => { q with controlTaken := q.controlTaken + 1 })

/-- An override trailer whose number is 0 (R199). -/
def zeroOverride (c : Ctl) : Bool := c.ovr == some 0

/-- A manager command: any other class is refused NOT_PERMITTED (R183), an override trailer of 0 BAD_PARAMETER (R199, log 14). -/
def managerCommand (c : Ctl) (cmd : CommandName) (k : State → State) (s : State) : State :=
  control c cmd (fun who s =>
    match who with
    | .manager => if zeroOverride c then respond c cmd .badParameter [] s else k s
    | _ => respond c cmd .notPermitted [] s) s

/-- The lease of a HOLDING station restarts, to the lease time in force (R89, R99). -/
def restartLease (e : StationId) (s : State) : State :=
  if (s.station e).state = .holding then
    s.updStation e fun x => { x with timer := some ⟨.lease, ticksOfMin s.timeouts.lease⟩ }
  else s

/-- The lease effect of a command from a station, whatever the command's result (R99). -/
def leaseEffect (cmd : CommandName) (who : Sender) (s : State) : State :=
  match who with
  | .station e => if cmd.restartsLease && s.mgmt.op == .run then restartLease e s else s
  | _ => s

/-- A station command other than HELLO and READ_CLOCK: the checks of R88 in order, then the override trailer of 0 (R199, log 14). -/
def stationCommand (c : Ctl) (cmd : CommandName) (k : StationId → State → State) (s : State) : State :=
  control c cmd (fun who s =>
    let s := leaseEffect cmd who s
    if s.mgmt.op ≠ .run then respond c cmd .wrongState [] s
    else match who with
      | .station e =>
        if !cmd.permits (s.station e).config.cls then respond c cmd .notPermitted [] s
        else if (s.station e).state = .offline then respond c cmd .wrongState [] s
        else if zeroOverride c then respond c cmd .badParameter [] s
        else k e s
      | _ => respond c cmd .notPermitted [] s) s

/-- A station command on which any override field is refused BAD_PARAMETER (R98 to R101, R126, R138 to R143, R147, R149). -/
def plainStationCommand (c : Ctl) (cmd : CommandName) (k : StationId → State → State) (s : State) : State :=
  stationCommand c cmd (fun e s => if c.ovr.isSome then respond c cmd .badParameter [] s else k e s) s

end Sys2Proof.Machine
end

