-- ==== Sys2Proof/Machine/PageStore.lean ====
section
/-! DEFINITION. The Page Store (02): finding and reading cells, storing them, reclaim and the reserve checks. -/

namespace Sys2Proof.Machine

/-! ## Finding and reading cells -/

/-- The page `k` places on from page `n`, through the next fields (R27). -/
def chainPage (st : Store) : Nat → Nat → Option Nat
  | 0, n => some n
  | k + 1, n => ((mapGet n st.pages).bind Page.next).bind (chainPage st k)

/-- Locate: the page that holds a position of a take, with its ordinal, or the end (R26, R123). -/
def State.locate (s : State) (slot p : Nat) : Located :=
  match s.take? slot with
  | none => .atEnd
  | some t =>
    if p = t.cells then .atEnd
    else match t.firstPage.bind (chainPage s.store (p / Config.cellsPerPage)) with
      | some n => .page n (p / Config.cellsPerPage)
      | none => .atEnd

/-- Reading a cell by take slot, page and offset: only the page's owner reads it, and only below its fill (R31). -/
def State.readCell (s : State) (slot n offset : Nat) : Option AudioCell :=
  match s.page? n with
  | some pg => if pg.owner = slot ∧ offset < pg.fill then pg.cells[offset]? else none
  | none => none

/-! ## Reclaim -/

/-- Frees a chain page by page from its first page: each page leaves the chain and joins the tail of the free page queue (R34). -/
def freeChain : Nat → Option Nat → Store → Store
  | 0, _, st => st
  | _ + 1, none, st => st
  | k + 1, some n, st =>
    match mapGet n st.pages with
    | none => st
    | some pg => freeChain k pg.next { st with pages := mapErase n st.pages, freePages := st.freePages ++ [n] }

/-- A ring entry that names a freed slot loses its slot and position (R24). -/
def RingEntry.clear (slot : Nat) (x : RingEntry) : RingEntry :=
  if x.slot = some slot then { x with slot := none, position := none } else x

/-- Every ring entry that names a freed slot is cleared (R24). -/
def clearRings (slot : Nat) (s : State) : State :=
  forEach allRooms (fun r s => s.updRoom r fun x => { x with ring := x.ring.map (RingEntry.clear slot) }) s

/-- A take's slot is set FREE, with its markers freed (R44, R81) and the ring entries that name it cleared (R24). -/
def freeSlot (slot : Nat) (s : State) : State :=
  match s.take? slot with
  | none => s
  | some t =>
    clearRings slot
      { s with
        markerPool := { s.markerPool with free := s.markerPool.free + t.markers.length }
        takeTable := { s.takeTable with takes := mapErase slot s.takeTable.takes } }

/-- A take leaves the store: the pages of its chain return to the free page queue and its slot is set FREE (R34 steps 2 to 4). A take with
0 cells holds no page (R55). -/
def freeTake (slot : Nat) (s : State) : State :=
  match s.take? slot with
  | none => s
  | some t => freeSlot slot { s with store := freeChain s.store.pages.length t.firstPage s.store }

/-- A take may be reclaimed: it is RETAINED with pin count 0 (R34). -/
def Take.reclaimable (t : Take) : Bool := t.lifecycle == .retained && t.pins == 0

/-- Reclaim of a take (R34); a take that may not be reclaimed is left alone. -/
def reclaim (slot : Nat) (s : State) : State :=
  match s.take? slot with
  | none => s
  | some t =>
    if t.reclaimable then
      freeTake slot { s with store := { s.store with retention := s.store.retention.filter (· != slot) } }
    else s

/-- The first take of the retention queue that may be reclaimed (R35). -/
def State.firstReclaimable (s : State) : Option Nat :=
  s.store.retention.find? fun slot => ((s.take? slot).map Take.reclaimable).getD false

/-- Either reserve is unmet (R35). -/
def State.reserveUnmet (s : State) : Bool := s.pagesShort || s.slotsShort

/-- The steps of a pressure pass, at most one for each retained take (R35). -/
def pressureSteps : Nat → State → State
  | 0, s => s
  | k + 1, s =>
    if s.reserveUnmet then
      match s.firstReclaimable with
      | some slot => pressureSteps k ((reclaim slot s).countStore fun q => { q with pressureReclaims := q.pressureReclaims + 1 })
      | none => s
    else s

/-- The reports at the end of a pass that leaves a reserve unmet, STORE_LOW before SLOTS_LOW (R36; their order is log 49). -/
def reportReserves (s : State) : State :=
  let s := if s.pagesShort then reportAlert .storeLow s else s
  if s.slotsShort then reportAlert .slotsLow s else s

/-- A check of the reserves, with the pass it starts when one is unmet (R35, R36). -/
def checkReserves (s : State) : State :=
  if s.reserveUnmet then reportReserves (pressureSteps s.store.retention.length s) else s

/-! ## Storing a cell -/

/-- The page at the head of the free page queue is linked as the last page of a take's chain (R29 step 1). -/
def linkPage (slot n : Nat) (rest : List Nat) (t : Take) (s : State) : State :=
  let pages := match t.lastPage with
    | some old => match s.page? old with
      | some pg => mapSet old { pg with next := some n } s.store.pages
      | none => s.store.pages
    | none => s.store.pages
  let s := { s with
    store := { s.store with
      freePages := rest
      pages := mapSet n { next := none, fill := 0, owner := slot, cells := [] } pages
      counters := { s.store.counters with pagesAllocated := s.store.counters.pagesAllocated + 1 } } }
  s.setTake slot { t with firstPage := some (t.firstPage.getD n), lastPage := some n }

/-- A cell is written at its take's last page's fill, and the take's cell count rises (R29 steps 2 and 3). -/
def writeCell (slot : Nat) (cell : AudioCell) (s : State) : State :=
  match s.take? slot with
  | none => s
  | some t =>
    let s := match t.lastPage with
      | some n => match s.page? n with
        | some pg => { s with store := { s.store with
            pages := mapSet n { pg with fill := pg.fill + 1, cells := pg.cells ++ [cell] } s.store.pages } }
        | none => s
      | none => s
    s.setTake slot { t with cells := t.cells + 1 }

/-- The last page of a take has no room, or there is none (R29 step 1). -/
def State.needsPage (s : State) (t : Take) : Bool :=
  match t.lastPage.bind s.page? with
  | some pg => Config.cellsPerPage ≤ pg.fill
  | none => true

/-- Storing a cell in a take: the new state, and the cell's position or none when no page is free (R29, R30). -/
def storeCell (slot : Nat) (cell : AudioCell) (s : State) : State × Option Nat :=
  match s.take? slot with
  | none => (s, none)
  | some t =>
    if s.needsPage t then
      match s.store.freePages with
      | [] => (s.countStore fun q => { q with noPage := q.noPage + 1 }, none)
      | n :: rest => (checkReserves (writeCell slot cell (linkPage slot n rest t s)), some t.cells)
    else (writeCell slot cell s, some t.cells)

end Sys2Proof.Machine
end

