-- ==== Sys2Proof/Machine/Markers.lean ====
section
/-! DEFINITION. The Marker Pool (04): granting entries (R70), lists and numbers (R68, R69), lost annotations (R71), sealed spans (R120). -/

namespace Sys2Proof.Machine

/-- The annotation group of R67. -/
def MarkerKind.isAnnotation : MarkerKind → Bool
  | .speaker => true
  | .exhibit => true
  | .objection => true
  | .readbackRequest => true
  | .note => true
  | _ => false

/-- Whether the Marker Pool grants an entry to a kind (R70). -/
def State.grants (s : State) (k : MarkerKind) : Bool :=
  if k.isAnnotation then Config.markerReserve < s.markerPool.free else 0 < s.markerPool.free

/-- Insertion before the first marker at a greater position, else at the tail (R68). -/
def insertMarker (m : Marker) : List Marker → List Marker
  | [] => [m]
  | x :: xs => if m.position < x.position then m :: x :: xs else x :: insertMarker m xs

/-- A take with a marker placed: numbered (R69), inserted (R68), and the sealed flag set by a SEAL_BEGIN (R43). -/
def Take.withMarker (t : Take) (m : Marker) : Take :=
  { t with
    markers := insertMarker { m with number := t.nextMarker } t.markers
    nextMarker := t.nextMarker + 1
    sealed := t.sealed || m.kind == .sealBegin }

/-- A placement: the new state and the marker's number, or none when the entry is denied (R70). -/
def placeMarker (slot : Nat) (m : Marker) (s : State) : State × Option Nat :=
  match s.take? slot with
  | none => (s, none)
  | some t =>
    if s.grants m.kind then
      ({ s.setTake slot (t.withMarker m) with markerPool := { s.markerPool with free := s.markerPool.free - 1 } }, some t.nextMarker)
    else (s, none)

/-- A marker with a kind, position, stamp and source, and nothing else; its number is given at the placement. -/
def plainMarker (k : MarkerKind) (position : Nat) (stamp : Stamp) (source : Byte) : Marker :=
  { number := 0, kind := k, position := position, stamp := stamp, source := source, code := 0, label := [], late := false,
    gapCycles := 0, offCycles := 0 }

/-- Places a state or system marker whose entry has been counted beforehand (R70, R77). -/
def placeCounted (slot : Nat) (m : Marker) (s : State) : State := (placeMarker slot m s).1

/-- An annotation is lost: counted in the take in which it would have stood and in ANNOTATIONS_LOST, MARKERS_LOW reported (R71). -/
def loseAnnotation (slot : Nat) (s : State) : State :=
  let s := s.updTake slot fun t => { t with markersLost := satAdd 255 t.markersLost 1 }
  reportAlert .markersLow { s with markerPool := { s.markerPool with annotationsLost := s.markerPool.annotationsLost + 1 } }

/-! ## Sealed spans (R120) -/

/-- A sealed span: from `first`; an absent `stop` is an open span, which includes the live edge. -/
structure Span where
  first : Nat
  stop  : Option Nat
  deriving DecidableEq, Repr

/-- Walks a list from its head, pairing each SEAL_BEGIN with the next SEAL_END; `begun` is the unmatched SEAL_BEGIN's position. -/
def spansFrom (begun : Option Nat) : List Marker → List Span
  | [] => match begun with
    | some b => [⟨b, none⟩]
    | none => []
  | m :: ms =>
    match m.kind, begun with
    | .sealBegin, none => spansFrom (some m.position) ms
    | .sealEnd, some b => ⟨b, some m.position⟩ :: spansFrom none ms
    | _, _ => spansFrom begun ms

/-- The sealed spans of a take (R120). -/
def Take.spans (t : Take) : List Span := spansFrom none t.markers

/-- A position lies in a span (R120). -/
def Span.holds (x : Span) (p : Nat) : Bool :=
  match x.stop with
  | some e => x.first ≤ p && p < e
  | none => x.first ≤ p

/-- The span in which a position lies, if any. -/
def Take.spanAt (t : Take) (p : Nat) : Option Span := t.spans.find? fun x => x.holds p

end Sys2Proof.Machine
end

