-- ==== Sys2Proof/Machine/Contexts.lean ====
section
/-! DEFINITION. Attaching and detaching playback contexts (R130, R131), with the pin counts they keep. -/

namespace Sys2Proof.Machine

/-- A take's pin count rises by 1 (R130). -/
def pin (slot : Nat) (s : State) : State := s.updTake slot fun t => { t with pins := t.pins + 1 }

/-- A take's pin count falls by 1; a RETAINED take that reaches 0 starts a reserve check (R131, R35). -/
def unpin (slot : Nat) (s : State) : State :=
  let s := s.updTake slot fun t => { t with pins := t.pins - 1 }
  if ((s.take? slot).map Take.reclaimable).getD false then checkReserves s else s

/-- A context's position, with the located page found for it (R123). -/
def setPosition (e : StationId) (slot p : Nat) (s : State) : State :=
  let found := s.locate slot p
  s.updContext e fun c => { c with position := some p, located := some found }

/-- A READBACK station whose context is attached is LISTENING (R86). -/
def becomeListening (e : StationId) (s : State) : State :=
  if (s.station e).config.cls = .readback then s.updStation e fun x => { x with state := .listening } else s

/-- A READBACK station whose context is detached goes from LISTENING to IDLE (R86, R131). -/
def endListening (e : StationId) (s : State) : State :=
  if (s.station e).state = .listening then s.updStation e fun x => { x with state := .idle } else s

/-- A context is attached to a take, from STOPPED or from another take: the new take is pinned before the old one is released, and
saved position, notice point, follow and last cue flags are cleared (R114, R131). The state is PAUSED at position 0 until the
attaching rule writes its own. -/
def attach (e : StationId) (slot : Nat) (mix : Mix) (s : State) : State :=
  let old := (s.context e).take
  let s := pin slot s
  let s := s.updContext e fun c =>
    { state := .paused, take := some slot, position := some 0, located := c.located, saved := none, notice := none, mix := mix,
      follow := false, link := none, credits := 0, markersSent := 0, flags := none }
  let s := becomeListening e (setPosition e slot 0 s)
  match old with
  | some o => unpin o s
  | none => s

/-- The mix of a context that a CUE or LISTEN attaches: the default mix from STOPPED, kept when moved (R131). -/
def State.attachMix (s : State) (e : StationId) : Mix :=
  if (s.context e).take.isSome then (s.context e).mix else (s.station e).config.mix

/-- A detachment (R131). -/
def detach (e : StationId) (s : State) : State :=
  match (s.context e).take with
  | none => s
  | some slot => unpin slot (endListening e (s.updContext e fun c => stoppedContext c.mix))

end Sys2Proof.Machine
end

