-- ==== Sys2Proof/Machine/Arbiter.lean ====
section
/-! DEFINITION. The Hand-off Unit (05): eligibility (R92), offers (R95), arrivals in a pool (R94), give-backs (R96, R107), and takes
that become RETAINED (R49). -/

namespace Sys2Proof.Machine

/-- A TYPIST is eligible for a take (R92). -/
def Station.eligible (x : Station) (t : Take) : Bool :=
  x.config.pools.getLsbD t.pool.val && (!t.sealed || x.config.clearance)

/-- An OFFER notice's payload (R95, 11.4); that its hand-off count takes 1 byte is log 12. -/
def offerPayload (t : Take) : List Byte :=
  bytesOf 1 1 ++ bytesOf 2 t.number ++ bytesOf 1 t.room.val ++ bytesOf 1 t.pool.val ++ bytesOf 3 t.cells ++ t.openStamp.bytes ++
    stampBytes t.endStamp ++ flagByte t.sealed ++ bytesOf 1 t.handOffs

/-- An offered take: OFFERED, with its holder, its hand-off count raised and saturating (R95). -/
def Take.offeredTo (t : Take) (node : Byte) : Take :=
  { t with transcription := some .offered, holder := some node, handOffs := satAdd 255 t.handOffs 1 }

/-- An offer of a take to a station (R95). -/
def offer (slot : Nat) (e : StationId) (s : State) : State :=
  match s.take? slot with
  | none => s
  | some t =>
    let t' := t.offeredTo (s.station e).config.node
    let s := (s.updPool t.pool fun q => q.filter (· != slot)).setTake slot t'
    let s := s.updStation e fun x =>
      { x with state := .offered, take := some slot, timer := some ⟨.offer, ticksOfS s.timeouts.accept⟩ }
    let s := s.countHandOff fun k => { k with offersMade := k.offersMade + 1 }
    stationNotice e (offerPayload t') s

/-- The first station of the wait list that is eligible for a take (R94). -/
def State.firstWaiting (s : State) (t : Take) : Option StationId :=
  s.handOff.wait.find? fun e => (s.station e).eligible t

/-- The arbiter for a take that has arrived in a pool (R94). -/
def arrive (slot : Nat) (s : State) : State :=
  match s.take? slot with
  | none => s
  | some t =>
    match s.firstWaiting t with
    | some e => offer slot e (s.updWait fun q => q.filter (· != e))
    | none => s

/-- The station is IDLE with no take and no timer (R96, R100, R105, R107). -/
def makeIdle (e : StationId) (s : State) : State :=
  s.updStation e fun x => { x with state := .idle, take := none, timer := none }

/-- A give-back to a pool: steps 1 to 4 of R96. -/
def returnToPool (e : StationId) (slot : Nat) (s : State) : State :=
  let s := detach e (s.updStation e fun x => { x with timer := none })
  let s := match s.take? slot with
    | some t => (s.setTake slot { t with transcription := some .pending, holder := none }).updPool t.pool fun q => slot :: q
    | none => s
  makeIdle e s

/-- A give-back of an offer or hold with what its cause adds, and then the arbiter (R96, R97, R102). -/
def giveBack (e : StationId) (additions : Nat → State → State) (s : State) : State :=
  match (s.station e).take with
  | none => s
  | some slot => arrive slot (additions (s.numberOf slot) (returnToPool e slot s))

/-- A give-back of an archive transfer: steps 1 to 4 of R107. -/
def giveBackTransfer (e : StationId) (s : State) : State :=
  match (s.station e).take with
  | none => s
  | some slot =>
    let s := detach e (s.updStation e fun x => { x with timer := none })
    let s := (s.updTake slot fun t => { t with archive := some .unarchived, archiver := none }).updArchive fun q => slot :: q
    makeIdle e s

/-- The station's miss count rises, saturating (R85). -/
def addMiss (e : StationId) (s : State) : State := s.updStation e fun x => { x with misses := satAdd 255 x.misses 1 }

/-- A take that is TYPED and ARCHIVED becomes RETAINED, joins the retention queue, and the reserves are checked (R49, R33). -/
def retainIfDone (slot : Nat) (s : State) : State :=
  match s.take? slot with
  | none => s
  | some t =>
    if t.transcription = some .typed ∧ t.archive = some .archived then
      let s := s.setTake slot { t with lifecycle := .retained }
      checkReserves { s with store := { s.store with retention := s.store.retention ++ [slot] } }
    else s

end Sys2Proof.Machine
end

