-- ==== Sys2Proof/Machine/Cuts.lean ====
section
/-! DEFINITION. The Take Table (03): opening takes (R44 to R46), cuts of every cause (R50 to R58), discards of empty takes (R55, R146). -/

namespace Sys2Proof.Machine

/-! ## Opening a take -/

/-- The take number after another: 65535 is followed by 1 (R45). -/
def nextNumber (n : Nat) : Nat := if n = 65535 then 1 else n + 1

/-- The first number, of the next `fuel` from `n` on, that no live take holds (R45). -/
def issueFrom (s : State) : Nat → Nat → Nat
  | 0, n => n
  | k + 1, n => if (s.findTake n).isSome then issueFrom s k (nextNumber n) else n

/-- The number the next take receives (R45): at most 1025 tries. -/
def State.nextTakeNumber (s : State) : Nat := issueFrom s 1024 s.takeTable.issue

/-- A take record at its open (R43). -/
def openedTake (number : Nat) (r : RoomId) (config : RoomConfig) (period : CyclePeriod) (stamp : Stamp) : Take :=
  { lifecycle := .open, number := number, room := r, tracks := config.tracks, period := period, openStamp := stamp, endStamp := none,
    cause := none, cells := 0, firstPage := none, lastPage := none, markers := [], nextMarker := 1, pool := config.pool,
    transcription := none, holder := none, handOffs := 0, archive := none, archiver := none, sealed := false, markersLost := 0,
    pins := 0 }

/-- The lowest-numbered FREE slot (R44). -/
def State.lowestFreeSlot (s : State) : Option Nat := firstUnlisted s.takeTable.takes Config.takeSlots 0

/-- Opens a take for a room in a FREE slot, and checks the reserves (R44, R45, R46). -/
def openTakeIn (slot : Nat) (r : RoomId) (s : State) : State :=
  let number := s.nextTakeNumber
  let s := s.setTake slot (openedTake number r (s.room r).config s.link.period s.now)
  checkReserves { s with takeTable := { s.takeTable with issue := nextNumber number } }

/-! ## Closing a take -/

/-- Steps 1 and 2 of R52 for a take with at least 1 cell: its end marker at its cell count, then end stamp, cause and CLOSED, with
its sub-states PENDING and UNARCHIVED (R47). A take with 0 cells is left for its discard. -/
def closeTake (slot : Nat) (rm : Room) (cause : CutCause) (source : Byte) (s : State) : State :=
  if s.cellsOf slot = 0 then s
  else
    let here := s.cellsOf slot
    let s :=
      if rm.sealed then placeCounted slot (plainMarker .sealEnd here s.now source) s
      else if rm.state = .offRecord then
        placeCounted slot { plainMarker .offRecordEnd here s.now source with offCycles := rm.offCycles } s
      else s
    s.updTake slot fun t =>
      { t with lifecycle := .closed, endStamp := some s.now, cause := some cause, transcription := some .pending,
               archive := some .unarchived }

/-- A closed take enters its pool queue and the archive queue at their tails, and the arbiter runs for it (R56). -/
def enterQueues (slot : Nat) (s : State) : State :=
  match s.take? slot with
  | none => s
  | some t =>
    let s := (s.updPool t.pool fun q => q ++ [slot]).updArchive fun q => q ++ [slot]
    arrive slot (s.countTakes fun k => { k with takesClosed := k.takesClosed + 1 })

/-! ## Contexts at a cut -/

/-- The follow links of the contexts that follow the closing take (R145). -/
def linkFollowers (slot number : Nat) (s : State) : State :=
  forEach allStations (fun e s =>
    if (s.context e).take = some slot ∧ (s.context e).follow then s.updContext e fun c => { c with link := some number } else s) s

/-- A follow move to a take at position 0: the mix and follow are kept, the link becomes absent (R145, log 22). -/
def followMove (e : StationId) (slot : Nat) (s : State) : State :=
  (attach e slot (s.context e).mix s).updContext e fun c => { c with follow := true }

/-- The state of a context moved from a discarded take to its successor (R146). -/
def movedState (before : ContextState) (clearance : Bool) (successor : Option Take) : ContextState :=
  if before = .paused then .paused
  else if !clearance && ((successor.bind fun t => t.markers.head?).map (·.kind == .sealBegin)).getD false then .heldSealed
  else .heldLive

/-- What becomes of one context when a take is discarded (R146); DISCARDED is sent after the detachment's reserve check (log 28). -/
def discardContext (slot : Nat) (successor : Option Nat) (e : StationId) (s : State) : State :=
  if (s.context e).take = some slot then
    match successor, (s.context e).follow with
    | some slot', true =>
      let state := movedState (s.context e).state (s.station e).config.clearance (s.take? slot')
      (followMove e slot' s).updContext e fun c => { c with state := state }
    | _, _ => endOfTakeNotice e (s.numberOf slot) 0 .discarded (detach e s)
  else s

/-- The discard of a take cut with 0 cells (R55); it holds no page, so freeing it returns none (log 34). -/
def discardTake (slot : Nat) (successor : Option Nat) (s : State) : State :=
  (freeTake slot (forEach allStations (discardContext slot successor) s)).countTakes
    fun k => { k with emptyTakes := k.emptyTakes + 1 }

/-! ## Cuts -/

/-- Why a cut is deferred (R51). -/
inductive DeferReason where
  | noSlot
  | noMarkers
  deriving DecidableEq, Repr

/-- What came of a cut request (R16, R51, R52). -/
inductive CutOutcome where
  | ignored
  | absorbed
  | made (closed : Nat) (discarded : Bool) (successor : Nat)
  | deferred (reason : DeferReason)
  deriving DecidableEq, Repr

/-- The marker entries a cut with a successor needs (R50). -/
def Room.cutNeeds (rm : Room) (cause : CutCause) : Nat :=
  (if rm.sealed ∨ rm.state = .offRecord then 2 else 0) + (if cause = .length ∨ cause = .deferred then 1 else 0)

/-- The markers carried to position 0 of a successor (R52 step 4, R53). -/
def placeCarried (slot' : Nat) (rm : Room) (cause : CutCause) (source : Byte) (closing : Nat) (s : State) : State :=
  let s :=
    if rm.sealed then placeCounted slot' (plainMarker .sealBegin 0 s.now source) s
    else if rm.state = .offRecord then placeCounted slot' (plainMarker .offRecordBegin 0 s.now source) s
    else s
  if cause = .length ∨ cause = .deferred then
    placeCounted slot' { plainMarker .continued 0 s.now source with code := BitVec.ofNat 16 closing } s
  else s

/-- A cut with a successor, its needs met (R52): `slot` closes, `slot'` opens. -/
def makeCut (r : RoomId) (slot slot' : Nat) (cause : CutCause) (source : Byte) (s : State) : State :=
  let rm := s.room r
  let closing := s.numberOf slot
  let empty := s.cellsOf slot = 0
  let s := openTakeIn slot' r (closeTake slot rm cause source s)
  let s := linkFollowers slot (s.numberOf slot') (placeCarried slot' rm cause source closing s)
  let s := if empty then discardTake slot (some slot') s else enterQueues slot s
  s.updRoom r fun x => { x with openTake := some slot', offCycles := if x.state = .offRecord then 0 else x.offCycles }

/-- A cut asked of the Take Table: made when its needs are met, else left undone with the reason (R50, R51). The slot of an open take is not
FREE, so the two slots differ. -/
def tryCut (r : RoomId) (cause : CutCause) (source : Byte) (s : State) : State × CutOutcome :=
  match (s.room r).openTake, s.lowestFreeSlot with
  | some slot, some slot' =>
    if s.markerPool.free < (s.room r).cutNeeds cause then (s, .deferred .noMarkers)
    else if slot = slot' then (s, .ignored)
    else
      let s' := makeCut r slot slot' cause source s
      (s', .made (s.numberOf slot) (s.cellsOf slot == 0) (s'.numberOf slot'))
  | some _, none => (s, .deferred .noSlot)
  | none, _ => (s, .ignored)

/-- A cut request at a room (R16): nothing when CLOSED, absorbed by a deferred cut, else made or deferred. -/
def requestCut (r : RoomId) (cause : CutCause) (source : Byte) (s : State) : State × CutOutcome :=
  if (s.room r).state = .closed then (s, .ignored)
  else if (s.room r).deferred.isSome then (s, .absorbed)
  else match tryCut r cause source s with
    | (s', .deferred why) =>
      let s' := s'.countTakes fun k => { k with deferredCuts := k.deferredCuts + 1 }
      (reportAlert .cutDeferred (s'.updRoom r fun x => { x with deferred := some cause }), .deferred why)
    | other => other

/-- A deferred cut tried again at a cell close, with cause DEFERRED (R58). -/
def retryDeferred (r : RoomId) (s : State) : State :=
  if (s.room r).deferred.isSome then
    match tryCut r .deferred s.link.node s with
    | (s', .made _ _ _) => s'.updRoom r fun x => { x with deferred := none }
    | (s', _) => s'
  else s

/-! ## Closing a room -/

/-- The marker entries that closing a room needs (R4). -/
def Room.closeNeeds (rm : Room) : Nat := if rm.sealed ∨ rm.state = .offRecord then 1 else 0

/-- A CLOSED room: what R4 leaves of its record. -/
def Room.afterClose (rm : Room) : Room :=
  { rm with state := .closed, openTake := none, sealed := false, overrun := none, deferred := none, offCycles := 0, gap := 0,
            assembly := emptyAssembly rm.config.tracks }

/-- A room closes: its open take is cut without a successor (R57), and the room becomes CLOSED (R4). -/
def closeRoomWith (r : RoomId) (cause : CutCause) (source : Byte) (s : State) : State :=
  match (s.room r).openTake with
  | none => s.updRoom r Room.afterClose
  | some slot =>
    let empty := s.cellsOf slot = 0
    let s := closeTake slot (s.room r) cause source s
    let s := if empty then discardTake slot none s else enterQueues slot s
    s.updRoom r Room.afterClose

/-- A take in the response of the command that cut it without a successor: its number, and whether it was discarded (R4, R55, log 13). -/
def closedTakeFields (number : Nat) (discarded : Bool) : List Byte := bytesOf 2 number ++ flagByte discarded

end Sys2Proof.Machine
end

