-- ==== Sys2Proof/Machine/RecordPath.lean ====
section
/-! DEFINITION. The record path (01): granules into cells (R6, R7), the close of a cell (R10 to R15), the history ring (R23). -/

namespace Sys2Proof.Machine

/-! ## The ingest map -/

/-- An ingest map entry matches a source and a channel (R6). -/
def IngestEntry.matches (x : IngestEntry) (src channel : Byte) : Bool :=
  x.action != .unused && (x.source == 0 || x.source == src) && (x.channel == none || x.channel == some channel)

/-- The first matching entry, from 0 upward (R6). -/
def State.ingestMatch (s : State) (src channel : Byte) : Option IngestEntry :=
  s.ingestMap.toList.find? fun x => x.matches src channel

/-- The Ingest Mapper's counters changed (R8). -/
def State.countIngest (s : State) (f : IngestCounters → IngestCounters) : State := { s with ingestCounters := f s.ingestCounters }

/-- A granule for a room's track: INACTIVE, DUPLICATE, or placed in the cell under assembly (R7 steps 3 to 5). -/
def placeGranule (r : RoomId) (track : Nat) (g : Granule) (s : State) : State :=
  let rm := s.room r
  if rm.state = .closed ∨ rm.config.tracks < track then s.countIngest fun k => { k with inactive := k.inactive + 1 }
  else match rm.assembly[track - 1]?.join with
    | some _ => s.countIngest fun k => { k with duplicate := k.duplicate + 1 }
    | none => s.updRoom r fun x => { x with assembly := x.assembly.set (track - 1) (some g) }

/-- One channel object of an AUDIO frame in the current cycle (R7). -/
def takeObject (src : Byte) (o : AudioObject) (s : State) : State :=
  match o with
  | .cutShort => s.countIngest fun k => { k with wrongSize := k.wrongSize + 1 }
  | .whole channel samples =>
    if samples.length ≠ s.link.period.samples then s.countIngest fun k => { k with wrongSize := k.wrongSize + 1 }
    else match s.ingestMatch src channel with
      | some x =>
        if x.action = .map then placeGranule x.room x.track samples s
        else s.countIngest fun k => { k with unmapped := k.unmapped + 1 }
      | none => s.countIngest fun k => { k with unmapped := k.unmapped + 1 }

/-- An AUDIO frame's cycle is the one under assembly: never while the sync source is LOCAL (R7, R9). -/
def State.inCycle (s : State) (cycle : Word) : Bool := s.link.source == .repeating && s.currentCycle == some cycle

/-- The objects of an AUDIO frame (R7, R8). -/
def takeAudio (src : Byte) (cycle : Word) (objects : List AudioObject) (s : State) : State :=
  if s.inCycle cycle then forEach objects (takeObject src) s
  else s.countIngest fun k => { k with outOfCycle := k.outOfCycle + BitVec.ofNat 32 objects.length }

/-! ## Closing a cell -/

/-- The cell under assembly with every empty granule slot filled silent (R10 step 1). -/
def Room.cellNow (rm : Room) (p : CyclePeriod) : AudioCell := rm.assembly.map fun g => g.getD (silentGranule p)

/-- The number of empty granule slots (R10 step 1). -/
def Room.missingNow (rm : Room) : Nat := (rm.assembly.filter Option.isNone).length

/-- A dropped cell (R12). -/
def dropCell (r : RoomId) (cause : DropCause) (s : State) : State :=
  let before := (s.room r).overrun
  let s := s.updRoom r fun x =>
    { x with
      gap := satAdd 65535 x.gap 1
      counters := { x.counters with cellsDropped := x.counters.cellsDropped + 1 }
      overrun := some ⟨cause, satAdd 65535 (match before with | some o => o.dropped | none => 0) 1⟩ }
  match before with
  | some _ => s
  | none => reportAlert .overrun s

/-- A cell of an ON_RECORD room is offered for storage (R10 step 3, R11): its position, or none when it is dropped. -/
def offerCell (r : RoomId) (slot : Nat) (cell : AudioCell) (missing : Nat) (s : State) : State × Option Nat :=
  if (s.room r).config.lengthLimit ≤ s.cellsOf slot then (dropCell r .length s, none)
  else match storeCell slot cell s with
    | (s', some p) =>
      (s'.countRoom r fun k =>
        { k with cellsStored := k.cellsStored + 1, missing := k.missing + BitVec.ofNat 32 missing }, some p)
    | (s', none) => (dropCell r .store s', none)

/-- A room's history ring with an entry at its newest end, the oldest removed when it held 64 (R23). -/
def ringAdd (ring : List RingEntry) (x : RingEntry) : List RingEntry :=
  (if ring.length < Config.ringEntries then ring else ring.drop 1) ++ [x]

/-- A waiting GAP is placed at a stored cell's position; a denied one stays in the room's gap count (R13, R77, R82). -/
def placeGap (r : RoomId) (slot position : Nat) (s : State) : State :=
  if (s.room r).gap = 0 then s
  else
    let m := { plainMarker .gap position s.now s.link.node with gapCycles := (s.room r).gap }
    match placeMarker slot m s with
    | (s', some _) => s'.updRoom r fun x => { x with gap := 0 }
    | (s', none) => reportAlert .markersLow s'

/-- Step 5 of R10 for a stored cell: GAP, end of overrun, length check (R13, R12, R11). -/
def afterStore (r : RoomId) (slot position : Nat) (s : State) : State :=
  let s := (placeGap r slot position s).updRoom r fun x => { x with overrun := none }
  if s.cellsOf slot = (s.room r).config.lengthLimit then (requestCut r .length s.link.node s).1 else s

/-- Skipped or lost cycles at a room that is not CLOSED, by its state (R14, R15); `n` cycles. -/
def loseCycles (r : RoomId) (n : Nat) (s : State) : State :=
  match (s.room r).state with
  | .closed => s
  | .onRecord => s.updRoom r fun x =>
      { x with gap := satAdd 65535 x.gap n, counters := { x.counters with cyclesLost := x.counters.cyclesLost + BitVec.ofNat 32 n } }
  | .offRecord => s.updRoom r fun x => { x with offCycles := satAdd 65535 x.offCycles n }

/-- Step 3 of R10: an ON_RECORD room's cell is offered for storage, an OFF_RECORD room counts an off cycle. -/
def recordCell (r : RoomId) (slot : Nat) (cell : AudioCell) (missing : Nat) (s : State) : State × Option Nat :=
  match (s.room r).state with
  | .onRecord => offerCell r slot cell missing s
  | _ => (s.updRoom r fun x => { x with offCycles := satAdd 65535 x.offCycles 1 }, none)

/-- The close of a room's cell for cycle `n`, with the skipped count of the sync (R10). -/
def closeCell (n : Word) (skipped : Nat) (r : RoomId) (s : State) : State :=
  if (s.room r).state = .closed then s
  else
    let cell := (s.room r).cellNow s.link.period
    let missing := (s.room r).missingNow
    let s := retryDeferred r s
    match (s.room r).openTake with
    | none => s
    | some slot =>
      let (s, position) := recordCell r slot cell missing s
      let s := s.updRoom r fun x => { x with ring := ringAdd x.ring ⟨n, some slot, position, s.now⟩ }
      let s := match position with
        | some p => afterStore r slot p s
        | none => s
      (loseCycles r skipped s).updRoom r fun x => { x with assembly := emptyAssembly x.config.tracks }

/-- A room that is not CLOSED begins an empty cell (R9, R15). -/
def beginCell (r : RoomId) (s : State) : State :=
  if (s.room r).state = .closed then s else s.updRoom r fun x => { x with assembly := emptyAssembly x.config.tracks }

/-- A capture sync at the Room Recorder in REPEATING: the first starts assembly, a later one closes each room's cell (R9, R10). -/
def roomsTakeSync (m : Word) (skipped : Nat) (s : State) : State :=
  let s := match s.currentCycle with
    | some n => forEach allRooms (closeCell n skipped) s
    | none => forEach allRooms beginCell s
  { s with currentCycle := some m }

/-- The capture sync that returns the source to REPEATING, at the Room Recorder (R15, R176). -/
def roomsRestart (m : Word) (s : State) : State := { forEach allRooms beginCell s with currentCycle := some m }

/-- The Room Recorder at a local sync (R15). -/
def roomsLocalSync (s : State) : State := forEach allRooms (fun r => loseCycles r 1) s

end Sys2Proof.Machine
end

