-- ==== Sys2Proof/Machine/Placement.lean ====
section
/-! DEFINITION. Where a console's annotation mark belongs (R72 to R74), and what a state mark needs (R17). -/

namespace Sys2Proof.Machine

/-- The distance of a ring entry's cycle from the current capture cycle (R72). -/
def RingEntry.distance (c : Word) (x : RingEntry) : Nat := cycleDistance c x.cycle

/-- The cases of R72; the governing entry of Recorded and Between comes with the ring from it on, oldest first. -/
inductive MarkCase where
  | live
  | recorded (governing : RingEntry) (newer : List RingEntry)
  | between (governing : RingEntry) (newer : List RingEntry)
  | behind
  deriving DecidableEq, Repr

/-- The ring from the newest entry that satisfies a test on, oldest first. -/
def fromNewest (test : RingEntry → Bool) : List RingEntry → Option (RingEntry × List RingEntry)
  | [] => none
  | x :: xs =>
    match fromNewest test xs with
    | some found => some found
    | none => if test x then some (x, xs) else none

/-- The ring from the oldest entry that satisfies a test on, oldest first. -/
def fromOldest (test : RingEntry → Bool) : List RingEntry → Option (RingEntry × List RingEntry)
  | [] => none
  | x :: xs => if test x then some (x, xs) else fromOldest test xs

/-- The classification of a mark's cycle against the current capture cycle and the room's ring (R72). -/
def classify (current : Option Word) (ring : List RingEntry) (m : Word) : MarkCase :=
  match current with
  | none => .live
  | some c =>
    let d := cycleDistance c m
    if d = 0 ∨ 32768 ≤ d then .live
    else match fromNewest (fun x => x.cycle == m) ring with
      | some (x, xs) => .recorded x xs
      | none =>
        if ring.any (fun x => d < x.distance c) then
          match fromOldest (fun x => x.distance c < d) ring with
          | some (x, xs) => .between x xs
          | none => .live
        else .behind

/-- The position a governing entry gives in its take: its own, else the next recorded one of the same take, else the take's cell
count (R73). -/
def governedPosition (x : RingEntry) (newer : List RingEntry) (slot cells : Nat) : Nat :=
  match x.position with
  | some p => p
  | none =>
    ((newer.find? fun y => y.slot == some slot && y.position.isSome).bind RingEntry.position).getD cells

/-- Where a mark goes: slot, position, stamp and late flag. -/
structure Placing where
  slot     : Nat
  position : Nat
  stamp    : Stamp
  late     : Bool
  deriving DecidableEq, Repr

/-- The placing by a governing entry, or none when its take is gone (R73); `stamp` is the mark's. -/
def governedPlacing (s : State) (x : RingEntry) (newer : List RingEntry) (stamp : Stamp) : Option Placing :=
  match x.slot with
  | none => none
  | some slot =>
    match s.take? slot with
    | none => none
    | some t => some ⟨slot, governedPosition x newer slot t.cells, stamp, false⟩

/-- The placing of an annotation mark in a room whose open take is `slot` (R72 to R74). -/
def annotationPlacing (s : State) (r : RoomId) (slot : Nat) (m : Word) : Placing :=
  let liveAt (late : Bool) : Placing := ⟨slot, s.cellsOf slot, s.now, late⟩
  match classify s.currentCycle (s.room r).ring m with
  | .live => liveAt false
  | .behind => liveAt true
  | .recorded x newer => (governedPlacing s x newer x.stamp).getD (liveAt true)
  | .between x newer => (governedPlacing s x newer s.now).getD (liveAt true)

/-- An annotation mark placed, late or not, or lost (R70, R71, R74). -/
def placeAnnotation (r : RoomId) (slot : Nat) (kind : AnnotationKind) (m : Mark) (s : State) : State :=
  let at_ := annotationPlacing s r slot m.cycle
  let marker :=
    { plainMarker (annotationMarkerKind kind) at_.position at_.stamp m.src with
      code := m.code, label := m.label.take 12, late := at_.late }
  match placeMarker at_.slot marker s with
  | (s', some _) =>
    if at_.late then { s' with markerPool := { s'.markerPool with lateMarks := s'.markerPool.lateMarks + 1 } } else s'
  | (s', none) => loseAnnotation at_.slot s'

/-! ## Marks at a room -/

/-- A refused mark, counted in the room's MARKS_REFUSED (R17, R25). -/
def refuseMark (r : RoomId) (s : State) : State :=
  s.countRoom r fun k => { k with marksRefused := k.marksRefused + 1 }

/-- A MARK frame at the room its source is the console of; a CLOSED room refuses it (R17). -/
def takeMark (m : Mark) (k : RoomId → State → State) (s : State) : State :=
  whenOn s fun s =>
    let s := takenFrom m.port m.src s
    match s.findConsole m.src with
    | none => { s with notConsole := s.notConsole + 1 }
    | some r => if (s.room r).state = .closed then refuseMark r s else k r s

/-- A MARK frame whose kind is neither an annotation kind nor a state mark kind (R17, R83). -/
def takeBadMark (p : Port) (src : Byte) (s : State) : State :=
  let s := takenFrom p src s
  match s.findConsole src with
  | none => { s with notConsole := s.notConsole + 1 }
  | some _ => { s with markerPool := { s.markerPool with badMarkKind := s.markerPool.badMarkKind + 1 } }

/-- A state mark carried out only if the Marker Pool has the entries it needs; else it is refused and MARK_REFUSED is reported (R17). -/
def withEntries (r : RoomId) (needs : Nat) (k : State → State) (s : State) : State :=
  if s.markerPool.free < needs then reportAlert .markRefused (refuseMark r s) else k s

/-- A state marker at a room's live position (R17, R77). -/
def placeStateMarker (r : RoomId) (kind : MarkerKind) (source : Byte) (offCycles : Nat) (s : State) : State :=
  match (s.room r).openTake with
  | none => s
  | some slot => placeCounted slot { plainMarker kind (s.cellsOf slot) s.now source with offCycles := offCycles } s

end Sys2Proof.Machine
end

