-- ==== Sys2Proof/Machine/CueResolver.lean ====
section
/-! DEFINITION. The Cue Resolver (06): base, direction, marker skip, displacement, clamp, sealed avoidance (R115 to R122). -/

namespace Sys2Proof.Machine

/-- The direction of a resolution (R116). -/
inductive Direction where
  | forward
  | backward
  deriving DecidableEq, Repr

/-- A position in resolution, with the flags raised so far and whether step 7 ended at an open span's b. -/
structure Resolution where
  position : Nat
  flags    : CueFlags
  hold     : Bool
  deriving DecidableEq, Repr

/-- No flag raised (R124). -/
def noFlags : CueFlags := { short := false, clamped := false, sealedSkip := false }

/-- Step 3 (R116). -/
def cueDirection (skip ms : Int) : Direction :=
  if skip ≠ 0 then (if skip < 0 then .backward else .forward)
  else if ms < 0 then .backward
  else .forward

/-- A marker matches a kind filter; none is ANY (R117). -/
def filterMatches (filter : Option MarkerKind) (m : Marker) : Bool :=
  match filter with
  | none => true
  | some k => m.kind == k

/-- The markers that step 4 counts, in the order of its walk (R117). -/
def skipWalk (t : Take) (p : Nat) (d : Direction) (filter : Option MarkerKind) : List Marker :=
  match d with
  | .forward => t.markers.filter fun m => p < m.position && filterMatches filter m
  | .backward => (t.markers.reverse).filter fun m => m.position < p && filterMatches filter m

/-- Step 4 (R117): the position reached, and whether SHORT is set. -/
def markerSkip (t : Take) (p : Nat) (skip : Int) (filter : Option MarkerKind) : Nat × Bool :=
  if skip = 0 then (p, false)
  else
    let walk := (skipWalk t p (cueDirection skip 0) filter).take skip.natAbs
    match walk.getLast? with
    | none => (p, true)
    | some m => (m.position, walk.length < skip.natAbs)

/-- Steps 5 and 6 (R119): the sum limited to 0 to the cell count, and whether CLAMPED is set. -/
def clampTo (cells : Nat) (sum : Int) : Nat × Bool :=
  if sum < 0 then (0, true)
  else if (cells : Int) < sum then (cells, true)
  else (sum.toNat, false)

/-- Forward sealed avoidance (R121): the position, whether any span was met, whether it ended at an open span's b. -/
def avoidForward (t : Take) : Nat → Nat → Nat × Bool × Bool
  | 0, p => (p, false, false)
  | k + 1, p =>
    match t.spanAt p with
    | none => (p, false, false)
    | some x =>
      match x.stop with
      | none => (x.first, true, true)
      | some e => let (p', _, hold) := avoidForward t k e; (p', true, hold)

/-- Backward sealed avoidance (R122). -/
def avoidBackward (t : Take) (p : Nat) : Nat × Bool × Bool :=
  match t.spanAt p with
  | none => (p, false, false)
  | some x => (x.first, true, x.stop.isNone)

/-- Step 7 (R121, R122): nothing for a station with clearance. -/
def avoidSealed (t : Take) (clearance : Bool) (d : Direction) (p : Nat) : Nat × Bool × Bool :=
  if clearance then (p, false, false)
  else match d with
    | .forward => avoidForward t (t.spans.length + 1) p
    | .backward => avoidBackward t p

/-- Steps 5 to 7 from an intermediate position (R118 to R122), shared by CUE, PLAY and LISTEN (R127, R128). -/
def resolveFrom (t : Take) (clearance : Bool) (d : Direction) (period : CyclePeriod) (p : Nat) (ms : Int) (short : Bool) : Resolution :=
  let (p6, clamped) := clampTo t.cells ((p : Int) + cyclesOfMs period.us ms)
  let (p7, skipped, hold) := avoidSealed t clearance d p6
  { position := p7
    flags := { short := short, clamped := clamped || (skipped && (p7 == 0 || p7 == t.cells)), sealedSkip := skipped }
    hold := hold }

/-- The bases of CUE (R112). -/
inductive CueBase where
  | takeStart
  | takeEnd
  | current
  | saved
  | marker
  deriving DecidableEq, Repr

/-- The base of a code (R112, 11.2). -/
def cueBaseOfCode (b : Byte) : Option CueBase :=
  match b.toNat with
  | 0 => some .takeStart
  | 1 => some .takeEnd
  | 2 => some .current
  | 3 => some .saved
  | 4 => some .marker
  | _ => none

/-- A CUE's fields once they have passed the second check of R112. -/
structure CueRequest where
  base   : CueBase
  marker : Nat
  skip   : Int
  filter : Option MarkerKind
  ms     : Int
  deriving DecidableEq, Repr

/-- The kind filter of a code: 0 is ANY (11.3). -/
def filterOfCode (b : Byte) : Option (Option MarkerKind) :=
  if b = 0 then some none else (markerKindOfCode b).map some

/-- The second check of R112: base, filter, skip, override, and the marker number of base MARKER. -/
def cueRequest (f : CueFields) (ovr : Option Word) : Option CueRequest :=
  match cueBaseOfCode f.base, filterOfCode f.filter with
  | some base, some filter =>
    if f.skip.toInt < -15 ∨ 15 < f.skip.toInt ∨ ovr = some 0 ∨ (base = .marker ∧ f.marker = 0) then none
    else some ⟨base, f.marker.toNat, f.skip.toInt, filter, f.displacement.toInt⟩
  | _, _ => none

/-- Step 2 (R115): the intermediate position, or none where the base cannot be found; `here` is whether the context is attached to
the selected take. -/
def cueBase (t : Take) (c : Context) (here : Bool) (q : CueRequest) : Option Nat :=
  match q.base with
  | .takeStart => some 0
  | .takeEnd => some t.cells
  | .current => if here then c.position else none
  | .saved => if here then c.saved else none
  | .marker => (t.markers.find? fun m => m.number == q.marker).map Marker.position

/-- Steps 3 to 7 of a CUE from its base (R116 to R122). -/
def resolveCue (t : Take) (clearance : Bool) (period : CyclePeriod) (base : Nat) (q : CueRequest) : Resolution :=
  let (p4, short) := markerSkip t base q.skip q.filter
  resolveFrom t clearance (cueDirection q.skip q.ms) period p4 q.ms short

/-- The state in which a context plays on from a resolved position (R124, R139, R147). -/
def playState (t : Take) (z : Resolution) : ContextState :=
  if z.hold then .heldSealed
  else if t.lifecycle = .open ∧ z.position = t.cells then .heldLive
  else .playing

/-- The resolved position, its located page and the last cue flags are written into the context (R124). -/
def writeResolution (e : StationId) (slot : Nat) (z : Resolution) (s : State) : State :=
  (setPosition e slot z.position s).updContext e fun c => { c with flags := some z.flags }

end Sys2Proof.Machine
end

