-- ==== Sys2Proof/Machine/Delivery.lean ====
section
/-! DEFINITION. The Playback Unit at an office-side sync (07): delivery (R132), sealed passing (R133), mixing (R136, R137), the end of a
take (R144, R145), bulk delivery (R148). -/

namespace Sys2Proof.Machine

/-! ## PLAYBACK frames (R135, 11.4) -/

/-- One granule of a PLAYBACK frame: track number, then its samples. -/
def granuleBytes (track : Nat) (g : Granule) : List Byte := bytesOf 1 track ++ g.flatMap fun x => bytesOf 2 x.toNat

/-- The granules a mix carries of a cell: the masked tracks unmixed (R136), or one MONO granule (R137). -/
def mixGranules (m : Mix) (t : Take) (cell : AudioCell) : List (Nat × Granule) :=
  match m.mode with
  | .separate => (mixTracks m t.tracks).map fun k => (k, cell[k - 1]?.getD [])
  | .mono => [(0, monoGranule m t.tracks t.period.samples cell)]

/-- A cell's PLAYBACK payload. -/
def cellPayload (t : Take) (p : Nat) (sealed : Bool) (mono : Bool) (gs : List (Nat × Granule)) : List Byte :=
  bytesOf 2 t.number ++ bytesOf 3 p ++ bytesOf 1 ((if sealed then 1 else 0) + (if mono then 2 else 0)) ++ bytesOf 1 gs.length ++
    gs.flatMap fun g => granuleBytes g.1 g.2

/-- A marker item's PLAYBACK payload (R148). -/
def markerPayload (t : Take) (m : Marker) : List Byte :=
  bytesOf 2 t.number ++ bytesOf 3 16777215 ++ [4, 0] ++ m.bytes

/-- A PLAYBACK frame to a station, out of the Office Port (R135). -/
def sendPlayback (e : StationId) (payload : List Byte) (s : State) : State :=
  originate .office (s.deviceFrame (s.station e).config.node kindPlayback payload) s

/-! ## Notice points (R143) -/

/-- The notice point is reached: a NOTICE_POINT notice is sent, and the notice point becomes absent (R143). -/
def reachNotice (e : StationId) (t : Take) (s : State) : State :=
  match (s.context e).notice with
  | none => s
  | some n =>
    (stationNotice e (bytesOf 1 3 ++ bytesOf 2 t.number ++ bytesOf 3 n ++ positionBytes (s.context e).position) s).updContext e
      fun c => { c with notice := none }

/-- The notice point is reached if it satisfies a test. -/
def reachNoticeIf (e : StationId) (t : Take) (test : Nat → Bool) (s : State) : State :=
  if ((s.context e).notice.map test).getD false then reachNotice e t s else s

/-! ## Sealed passing (R133) -/

/-- The move of sealed passing, span by span (R133); the flag says whether the context is left HELD_SEALED. -/
def passSpans : Nat → StationId → Nat → Take → State → State × Bool
  | 0, _, _, _, s => (s, false)
  | k + 1, e, slot, t, s =>
    let p := (s.context e).position.getD 0
    match t.spanAt p with
    | none => (s, false)
    | some x =>
      match x.stop with
      | none => ((setPosition e slot x.first s).updContext e fun c => { c with state := .heldSealed }, true)
      | some stop =>
        passSpans k e slot t ((setPosition e slot stop s).countPlayback
          fun q => { q with cellsWithheld := q.cellsWithheld + BitVec.ofNat 32 (stop - p) })

/-- Sealed passing for a station without clearance, with the notice point it moves beyond, over however many touching spans; the notice
carries the position at which passing ends (R133, R143; logs 20, 47). -/
def passSealed (fuel : Nat) (e : StationId) (slot : Nat) (t : Take) (s : State) : State × Bool :=
  let before := (s.context e).position.getD 0
  let (s, held) := passSpans fuel e slot t s
  let after := (s.context e).position.getD 0
  (reachNoticeIf e t (fun n => before < n && n < after) s, held)

/-! ## Delivery (R132) -/

/-- The cell at a position, read through the context's located page, found anew if that is END (R132 step 3, R31). -/
def State.cellAt (s : State) (e : StationId) (slot p : Nat) (t : Take) : Option AudioCell :=
  if p = t.cells then none
  else
    let found := match (s.context e).located with
      | some (.page n k) => Located.page n k
      | _ => s.locate slot p
    match found with
    | .page n _ => s.readCell slot n (p % Config.cellsPerPage)
    | .atEnd => none

/-- A cell is sent to a TYPIST or READBACK station, and the context moves on by one (R132 step 3, R135, R143). -/
def sendCell (e : StationId) (slot p : Nat) (t : Take) (cell : AudioCell) (s : State) : State :=
  let mix := (s.context e).mix
  let isSealed := (s.station e).config.clearance && (t.spanAt p).isSome
  let s := sendPlayback e (cellPayload t p isSealed (mix.mode == .mono) (mixGranules mix t cell)) s
  let s := (setPosition e slot (p + 1) s).updContext e fun c => { c with state := .playing }
  let s := s.countPlayback fun q => { q with cellsPlayed := q.cellsPlayed + 1 }
  reachNoticeIf e t (fun n => n == p) s

/-- The take to which a follow context goes on at the end of its take (R144). -/
def State.followTarget (s : State) (e : StationId) (t : Take) : Option Nat :=
  match (s.context e).link.bind s.findTake with
  | some (slot', t') => if t'.room = t.room then some slot' else none
  | none => none

/-- Delivery of one context (R132), with the end of a CLOSED or RETAINED take (R144) and the follow move that goes on in the same
sync (R145). A follow move leaves no link, so one context moves at most once in a sync. FOLLOW_ENDED is sent after the reserve check that
the detachment starts (log 28). -/
def deliver : Nat → StationId → State → State
  | 0, _, s => s
  | k + 1, e, s =>
    match (s.context e).take with
    | none => s
    | some slot =>
      match s.take? slot with
      | none => s
      | some t =>
        let (s, held) :=
          if (s.station e).config.clearance then (s, false) else passSealed (t.spans.length + 1) e slot t s
        if held then s
        else
          let p := (s.context e).position.getD 0
          match s.cellAt e slot p t with
          | some cell => sendCell e slot p t cell s
          | none =>
            if t.lifecycle = .open then s.updContext e fun c => { c with state := .heldLive }
            else
              let s := reachNoticeIf e t (fun n => n == p) s
              if (s.context e).follow then
                match s.followTarget e t with
                | some slot' => deliver k e ((followMove e slot' s).updContext e fun c => { c with state := .playing })
                | none => endOfTakeNotice e t.number p .followEnded (detach e s)
              else
                endOfTakeNotice e t.number p .ended (s.updContext e fun c => { c with state := .paused })

/-! ## Bulk delivery (R148) -/

/-- A BULK context uses one credit (R148). -/
def useCredit (e : StationId) (s : State) : State := s.updContext e fun c => { c with credits := c.credits - 1 }

/-- A marker item is sent (R148 step 1). -/
def sendMarkerItem (e : StationId) (t : Take) (m : Marker) (s : State) : State :=
  let s := (useCredit e (sendPlayback e (markerPayload t m) s)).updContext e fun c => { c with markersSent := c.markersSent + 1 }
  s.countPlayback fun q => { q with markersSent := q.markersSent + 1 }

/-- A cell item is sent with every track, and END_OF_TAKE after the last cell (R148 step 2). -/
def sendBulkCell (e : StationId) (slot p : Nat) (t : Take) (cell : AudioCell) (s : State) : State :=
  let gs := (List.range' 1 t.tracks).map fun k => (k, cell[k - 1]?.getD [])
  let s := useCredit e (sendPlayback e (cellPayload t p (t.spanAt p).isSome false gs) s)
  let s := (setPosition e slot (p + 1) s).countPlayback fun q => { q with cellsSentBulk := q.cellsSentBulk + 1 }
  if p + 1 = t.cells then endOfTakeNotice e t.number (p + 1) .ended s else s

/-- The items of one BULK context at one sync (R148). -/
def deliverBulk : Nat → StationId → State → State
  | 0, _, s => s
  | k + 1, e, s =>
    match (s.context e).take with
    | none => s
    | some slot =>
      match s.take? slot with
      | none => s
      | some t =>
        let c := s.context e
        let p := c.position.getD 0
        if c.credits = 0 ∨ t.cells ≤ p then s
        else if c.markersSent < t.markers.length then
          match t.markers.find? fun m => m.number == c.markersSent + 1 with
          | some m => deliverBulk k e (sendMarkerItem e t m s)
          | none => s
        else
          match s.cellAt e slot p t with
          | some cell => deliverBulk k e (sendBulkCell e slot p t cell s)
          | none => s

/-- One context in its turn at an office-side sync (R130, R132). -/
def deliverContext (e : StationId) (s : State) : State :=
  match (s.context e).state with
  | .stopped => s
  | .paused => s
  | .playing => deliver 3 e s
  | .heldLive => deliver 3 e s
  | .heldSealed => deliver 3 e s
  | .bulk => deliverBulk Config.bulkItems e s

end Sys2Proof.Machine
end

