-- ==== Sys2Proof/Machine/StatusStream.lean ====
section
/-! DEFINITION. The status stream (R195, R196): the values of its items, the STATUS frame (11.4), its running count. -/

namespace Sys2Proof.Machine

/-- One of the four per-port counters (R179). -/
def State.linkCounter (s : State) (p : Port) : LinkCounterName → Counter
  | .framesReceived => (s.port p).counters.framesReceived
  | .framesSent => (s.port p).counters.framesSent
  | .crcErrors => (s.port p).counters.crcErrors
  | .forwardDrops => (s.port p).counters.forwardDrops

/-- ROOM_STATE: state, seal, overrun cause and dropped cycles, deferred cut (R2, 11.4). -/
def roomStateBytes (rm : Room) : List Byte :=
  bytesOf 1 rm.state.code ++ bytesOf 1 (sealCode rm.sealed) ++ bytesOf 1 (overrunCode rm.overrun) ++
    bytesOf 2 ((rm.overrun.map Overrun.dropped).getD 0) ++ bytesOf 1 ((rm.deferred.map fun c => c.code + 1).getD 0)

/-- The value of a status item now (R195, 11.4). -/
def State.statusValue (s : State) : StatusItem → List Byte
  | .none => []
  | .roomState r => roomStateBytes (s.room r)
  | .openCells r => bytesOf 3 (((s.room r).openTake.map s.cellsOf).getD 0)
  | .poolDepth p => bytesOf 2 (s.pool p).length
  | .archiveDepth => bytesOf 2 s.handOff.archive.length
  | .freePages => bytesOf 2 s.store.freePages.length
  | .freeMarkers => bytesOf 2 s.markerPool.free
  | .freeSlots => bytesOf 2 s.freeSlots
  | .stationState e => bytesOf 1 (s.station e).state.code
  | .stationPosition e => takeNumberBytes ((s.context e).take.map s.numberOf) ++ positionBytes (s.context e).position
  | .alertsPending => flagByte (s.mgmt.latches != 0)
  | .syncSource =>
    bytesOf 1 s.link.source.code ++ flagByte s.link.officeCycle.isSome ++ bytesOf 2 (s.link.officeCycle.getD 0).toNat
  | .linkCounter p k => bytesOf 4 (s.linkCounter p k).toNat

/-- One entry of a STATUS frame: item code, argument, and the value right-aligned in six bytes (11.4). -/
def State.statusEntry (s : State) (item : StatusItem) : List Byte :=
  let v := s.statusValue item
  item.bytes ++ List.replicate (6 - v.length) 0 ++ v

/-- The STATUS_ITEMS entries that are not NONE, in entry order (R196). -/
def State.statusList (s : State) : List StatusItem := s.mgmt.statusItems.toList.filter (· != .none)

/-- A STATUS frame's payload (R196, 11.4); an absent office-side cycle number is written 0 (log 38), the entry count in 1 byte (log 12). -/
def State.statusPayload (s : State) : List Byte :=
  s.now.bytes ++ bytesOf 1 (s.link.source.code + if s.link.officeCycle.isSome then 2 else 0) ++
    bytesOf 2 (s.link.officeCycle.getD 0).toNat ++ bytesOf 1 s.statusList.length ++ s.statusList.flatMap s.statusEntry

/-- A STATUS frame is built and sent; with destination 0 it is not sent (R196). -/
def sendStatus (s : State) : State :=
  if s.timeouts.statusDest = 0 then s
  else (originate s.timeouts.statusPort (s.deviceFrame s.timeouts.statusDest kindStatus s.statusPayload) s).countMgmt
    fun k => { k with statusFrames := k.statusFrames + 1 }

/-- The running count started anew for the mode in force; none for OFF (R196). -/
def Timeouts.freshCount (t : Timeouts) : Option StatusCount :=
  match t.statusMode with
  | .off => none
  | .time => some (.ticks (ticksOfMs t.statusPeriod))
  | .cycles => some (.cycles 0)

/-- A STATUS frame, after which the count starts again (R196). -/
def statusNow (s : State) : State :=
  let s := sendStatus s
  { s with mgmt := { s.mgmt with statusCount := s.timeouts.freshCount } }

/-- An office-side sync at the status stream in CYCLES mode (R196). -/
def countStatusCycle (s : State) : State :=
  match s.mgmt.statusCount with
  | some (.cycles n) =>
    if s.timeouts.statusPeriod ≤ n + 1 then statusNow s
    else { s with mgmt := { s.mgmt with statusCount := some (.cycles (n + 1)) } }
  | _ => s

end Sys2Proof.Machine
end

