-- ==== Sys2Proof/Machine/Timing.lean ====
section
/-! DEFINITION. Cycle timing (09): office-side syncs (R178), skipped counts (R173), capture syncs (R172, R176), sync loss and local syncs
(R174, R175), and what a port's transmitter sends next (R171). -/

namespace Sys2Proof.Machine

/-- An office-side sync at the Playback Unit and the Management Unit: contexts deliver in station-table order, the CYCLES count
advances, the Office Port's held responses are released (R178, R132, R192, R196; log 26). -/
def officeSideSync (s : State) : State := releaseHeld .office (countStatusCycle (forEach allStations deliverContext s))

/-- A sync is produced for the Office Port's transmitter, and its number becomes the office-side cycle number (R172, R175, R176). -/
def produceSync (fr : Frame) (number : Word) (s : State) : State :=
  { s with link := { s.link with syncs := s.link.syncs ++ [fr], officeCycle := some number } }

/-- The sync-loss timer starts or restarts, from the sync-loss time in force (R174). -/
def restartLossTimer (s : State) : State :=
  { s with link := { s.link with lossTimer := some (ticksOfMs s.timeouts.syncLoss) } }

/-- The skipped count of a capture sync (R173). -/
def skippedCount (previous : Option Word) (m : Word) : Nat :=
  match previous with
  | none => 0
  | some n => if 2 ≤ cycleDistance m n ∧ cycleDistance m n ≤ 32768 then cycleDistance m n - 1 else 0

/-- The sync repeats the previous number or steps back (R173). -/
def renumbered (previous : Option Word) (m : Word) : Bool :=
  match previous with
  | none => false
  | some n => cycleDistance m n == 0 || 32768 < cycleDistance m n

/-- CYCLES_SKIPPED and SYNC_RENUMBERED at a capture sync (R173). -/
def countSkipped (m : Word) (s : State) : State :=
  let skipped := skippedCount s.link.previousSync m
  let again := renumbered s.link.previousSync m
  s.countLink fun k =>
    { k with cyclesSkipped := k.cyclesSkipped + BitVec.ofNat 32 skipped
             syncRenumbered := if again then k.syncRenumbered + 1 else k.syncRenumbered }

/-- A capture sync taken in REPEATING (R172); `order` is the order of its steps 5 and 6 (log 8). The Capture Port's held responses are
released last (R178, R192; log 26). -/
def captureInRepeating (f : SyncFrame) (order : SyncOrder) (s : State) : State :=
  let skipped := skippedCount s.link.previousSync f.cycle
  let s := countSkipped f.cycle s
  let s := restartLossTimer { s with link := { s.link with previousSync := some f.cycle } }
  let s := produceSync (syncFrameBytes f) f.cycle s
  let s := match order with
    | .roomsFirst => officeSideSync (roomsTakeSync f.cycle skipped s)
    | .playbackFirst => roomsTakeSync f.cycle skipped (officeSideSync s)
  releaseHeld .capture s

/-- A capture sync taken in LOCAL returns the source to REPEATING (R176). The Capture Port's held responses are released last (R192; log 26). -/
def captureInLocal (f : SyncFrame) (order : SyncOrder) (s : State) : State :=
  let s := restartLossTimer
    { s with link := { s.link with source := .repeating, interval := none, previousSync := some f.cycle } }
  let s := produceSync (syncFrameBytes f) f.cycle s
  let s := match order with
    | .roomsFirst => officeSideSync (roomsRestart f.cycle s)
    | .playbackFirst => roomsRestart f.cycle (officeSideSync s)
  releaseHeld .capture s

/-- A capture sync as taken on the Capture Port, by the sync source (R172, R176). -/
def takeCaptureSync (f : SyncFrame) (order : SyncOrder) (s : State) : State :=
  let s := takenFrom .capture f.src s
  match s.link.source with
  | .repeating => captureInRepeating f order s
  | .localSource => captureInLocal f order s

/-- The number of the next local sync (R175); 0 where no office-side cycle number exists (R180). -/
def State.nextLocalNumber (s : State) : Word := (s.link.officeCycle.map (· + 1)).getD 0

/-- A local sync's frame (R175, 11.3). -/
def State.localSyncFrame (s : State) : Frame :=
  s.deviceFrame 255 kindSync (bytesOf 2 s.nextLocalNumber.toNat ++ bytesOf 1 1 ++ bytesOf 1 s.link.period.code)

/-- A local sync is produced, and the next interval begins with the cycle period in force (R175). -/
def makeLocalSync (s : State) : State :=
  let s := produceSync s.localSyncFrame s.nextLocalNumber s
  let s := s.countLink fun k => { k with localSyncs := k.localSyncs + 1 }
  let s := { s with link := { s.link with interval := some s.link.period } }
  officeSideSync (roomsLocalSync s)

/-- The expiry of the sync-loss timer (R174). -/
def loseSync (s : State) : State :=
  let s := { s with link := { s.link with source := .localSource, lossTimer := none } }
  let s := makeLocalSync (forEach allRooms beginCell s)
  reportAlert .syncLost (s.countLink fun k => { k with syncLosses := k.syncLosses + 1 })

/-! ## The transmitters (R171) -/

/-- A port's transmitter sends a frame (R171, R179; log 9). -/
def sendOut (p : Port) (fr : Frame) (s : State) : State :=
  s.updPort p fun q => { q with lastSent := some fr, counters := { q.counters with framesSent := q.counters.framesSent + 1 } }

/-- The head of a port's originate list is sent. -/
def sendOriginated (p : Port) (fr : Frame) (s : State) : State :=
  sendOut p fr (s.updPort p fun q => { q with originate := q.originate.drop 1 })

/-- The head of the forward queue toward a port is sent. -/
def sendForwarded (p : Port) (fr : Frame) (s : State) : State :=
  sendOut p fr (s.updPort p fun q => { q with forward := q.forward.drop 1 })

/-- With no sync waiting, whichever head of the originate list or forward queue entered first is sent (R171). -/
def transmitQueued (p : Port) (s : State) : State :=
  match (s.port p).originate, (s.port p).forward with
  | x :: _, y :: _ => if x.serial < y.serial then sendOriginated p x.frame s else sendForwarded p y.frame s
  | x :: _, [] => sendOriginated p x.frame s
  | [], y :: _ => sendForwarded p y.frame s
  | [], [] => s

/-- The next frame of a port's transmitter: a waiting sync first, on the Office Port alone (R171). -/
def transmitNext (p : Port) (s : State) : State :=
  match p, s.link.syncs with
  | .office, fr :: rest => sendOut .office fr { s with link := { s.link with syncs := rest } }
  | _, _ => transmitQueued p s

end Sys2Proof.Machine
end

