-- ==== Sys2Proof/Machine/Clock.lean ====
section
/-! DEFINITION. The Proceedings Clock (08): tick arrivals and second updates (R153, R159), the cut schedule (R161, R162), power and reset
(R154, R180), SET_CLOCK and READ_CLOCK (R156, R157). -/

namespace Sys2Proof.Machine

/-! ## Tick arrivals -/

/-- A running timer counts a tick arrival; at 0 it waits for its expiry to be taken (R159, log 5). -/
def Timer.tick (t : Timer) : Timer := { t with ticks := t.ticks - 1 }

/-- A TIME count counts a tick arrival (R159, R196). -/
def StatusCount.tick : StatusCount → StatusCount
  | .ticks n => .ticks (n - 1)
  | .cycles n => .cycles n

/-- Every station timer counts a tick arrival (R159). -/
def tickStations (s : State) : State :=
  forEach allStations (fun e s => s.updStation e fun x => { x with timer := x.timer.map Timer.tick }) s

/-- The sync-loss timer and the status interval count a tick arrival (R159, R174, R196). -/
def tickLinkAndStatus (s : State) : State :=
  { s with
    link := { s.link with lossTimer := s.link.lossTimer.map (· - 1) }
    mgmt := { s.mgmt with statusCount := s.mgmt.statusCount.map StatusCount.tick } }

/-! ## The cut schedule -/

/-- An entry of CUT_SCHEDULE matches a time (R161). -/
def ScheduleEntry.matches (x : ScheduleEntry) (c : Calendar) : Bool :=
  x.mask != 0 && (x.hour == none || x.hour == some c.hour) && (x.minute == none || x.minute == some c.minute) && x.second == c.second

/-- The union of the masks of the matching entries (R161). -/
def State.matchedRooms (s : State) : BitVec 16 :=
  (s.schedule.toList.filter fun x => x.matches s.clock).foldl (fun m x => m ||| x.mask) 0

/-- The clock's counters changed (R165). -/
def State.countClock (s : State) (f : ClockCounters → ClockCounters) : State := { s with clockCounters := f s.clockCounters }

/-- The decision for one room of the matching set (R162). -/
def scheduleRoom (r : RoomId) (s : State) : State :=
  match (s.room r).state with
  | .closed => s
  | .offRecord => s.countClock fun k => { k with scheduleOffRecord := k.scheduleOffRecord + 1 }
  | .onRecord =>
    if (((s.room r).openTake.map s.cellsOf).getD 0) < (s.room r).config.minCells then
      s.countClock fun k => { k with scheduleShort := k.scheduleShort + 1 }
    else (requestCut r .schedule s.link.node (s.countClock fun k => { k with scheduleCuts := k.scheduleCuts + 1 })).1

/-- The cut schedule at a second update, against the new time (R161). -/
def evaluateSchedule (s : State) : State :=
  forEach (allRooms.filter fun r => s.matchedRooms.getLsbD r.val) scheduleRoom s

/-- CLOCK_UNSET is reported while validity is UNSET (R154, R155). -/
def reportIfUnset (s : State) : State := if s.clock.validity = .unset then reportAlert .clockUnset s else s

/-- What follows the advance of the calendar at a second update (R155, R161, R163). -/
def secondUpdate (s : State) : State := if s.clock.validity = .unset then reportIfUnset s else evaluateSchedule s

/-- A tick arrival: every tick timer counts it, the calendar advances, and a second update is taken when the tick wraps (R153). Without
main power only a backed-up calendar counts (R154). Expiries due at this tick are commands that follow, so the second update comes before
them (R159; log 48). -/
def takeTick (s : State) : State :=
  match s.power with
  | .on =>
    let wraps := s.clock.atLastTick
    let s := tickLinkAndStatus (tickStations { s with clock := s.clock.addTick })
    if wraps then secondUpdate s else s
  | .backup => { s with clock := s.clock.addTick }
  | .dead => s

/-- TICK_ARRIVAL (R153). -/
def execTickArrival (s : State) : Host.Outcome State Fault Refusal := .next (takeTick s)

/-! ## Power and reset -/

/-- The clock at power-on: as counted with outage HELD, or the backup-lost values (R154). A count that stopped is lost (log 7). -/
def State.powerOnClock (s : State) (backupHeld : Bool) : Calendar :=
  if s.power ≠ .dead ∧ backupHeld then { s.clock with outage := .held } else lostCalendar

/-- POWER_ON_RESET (R154, R41, R65, R110, R150, R180, R198). The queue of waiting commands is the model's and stays. -/
def execPowerOnReset (straps : Straps) (backupHeld : Bool) (s : State) : Host.Outcome State Fault Refusal :=
  .next (reportIfUnset (State.afterReset straps (s.powerOnClock backupHeld) s.pending))

/-- HARD_RESET (R180, R154): as power-on, with the clock left counting. Without main power it has no effect (log 44). -/
def execHardReset (straps : Straps) (s : State) : Host.Outcome State Fault Refusal :=
  .next (whenOn s fun s => reportIfUnset (State.afterReset straps s.clock s.pending))

/-- MAIN_POWER_LOSS (R154): the device stops; the clock counts on while VBAK holds. A count once lost stays lost. -/
def execMainPowerLoss (vbakHolds : Bool) (s : State) : Host.Outcome State Fault Refusal :=
  .next { s with power := if vbakHolds ∧ s.power ≠ .dead then .backup else .dead }

/-! ## Setting and reading -/

/-- The checks of SET_CLOCK (R156); the year is sent as years past 2000. -/
def clockFieldsValid (f : ClockFields) : Bool :=
  f.year.toNat ≤ 99 && 1 ≤ f.month.toNat && f.month.toNat ≤ 12 &&
    1 ≤ f.day.toNat && f.day.toNat ≤ monthLength (2000 + f.year.toNat) f.month.toNat &&
    f.hour.toNat ≤ 23 && f.minute.toNat ≤ 59 && f.second.toNat ≤ 59 && 1 ≤ f.dow.toNat && f.dow.toNat ≤ 7

/-- The calendar that an accepted SET_CLOCK writes (R156). -/
def clockFieldsCalendar (f : ClockFields) : Calendar :=
  { year := 2000 + f.year.toNat, month := f.month.toNat, day := f.day.toNat, hour := f.hour.toNat, minute := f.minute.toNat,
    second := f.second.toNat, tick := 0, dow := f.dow.toNat, validity := .set, outage := .none }

/-- SET_CLOCK (R156). -/
def execSetClock (c : Ctl) (f : ClockFields) (s : State) : Host.Outcome State Fault Refusal :=
  .next (managerCommand c .setClock (fun s =>
    if clockFieldsValid f then
      let s := { s with clock := clockFieldsCalendar f }
      respond c .setClock .ok (s.now.bytes ++ bytesOf 1 s.clock.dow) s
    else respond c .setClock .badParameter [] s) s)

/-- READ_CLOCK (R157), from any known node; a zero override trailer is refused (R199, log 14). -/
def execReadClock (c : Ctl) (s : State) : Host.Outcome State Fault Refusal :=
  .next (control c .readClock (fun _ s =>
    if zeroOverride c then respond c .readClock .badParameter [] s
    else respond c .readClock .ok
      (s.now.bytes ++ bytesOf 1 s.clock.dow ++ bytesOf 1 s.clock.validity.code ++ bytesOf 1 s.clock.outage.code) s) s)

end Sys2Proof.Machine
end

