-- ==== Sys2Proof/Machine/Tables.lean ====
section
/-! DEFINITION. The nine configuration tables behind the cursors (R185 to R187, 11.3, 11.5): their sizes, entry layouts, checks of a write,
effects of a write, and the bytes of an entry. -/

namespace Sys2Proof.Machine

/-- Entries of a table (R187). -/
def TableName.size : TableName → Nat
  | .ingestMap => 64
  | .roomConfig => 16
  | .stationTable => 32
  | .cutSchedule => 8
  | .statusItems => 16
  | .managerList => 4
  | .linkProfile => 1
  | .storeSettings => 1
  | .timeouts => 1

/-- Bytes of an entry in WRITE_ENTRY (11.3, 11.5). -/
def TableName.entryLength : TableName → Nat
  | .ingestMap => 5
  | .roomConfig => 8
  | .stationTable => 16
  | .cutSchedule => 5
  | .statusItems => 2
  | .managerList => 1
  | .linkProfile => 2
  | .storeSettings => 6
  | .timeouts => 13

/-! ## Fields of an entry as sent -/

/-- The byte at a place, 0 past the end. -/
def byteAt (bs : List Byte) (i : Nat) : Byte := bs[i]?.getD 0

/-- The number that `n` bytes from a place on spell. -/
def fieldAt (bs : List Byte) (i n : Nat) : Nat := natOf ((bs.drop i).take n)

/-- A byte whose value 255 is ANY (11.3). -/
def anyOr (b : Byte) : Option Nat := if b = 255 then none else some b.toNat

/-- A number kept between two bounds (R187). -/
def clampBetween (low high n : Nat) : Nat := max low (min high n)

/-- An ingest map entry (R6); none where a field is out of range. -/
def ingestOfBytes (bs : List Byte) : Option IngestEntry :=
  match ingestActionOfCode (byteAt bs 0), roomOfByte (byteAt bs 3) with
  | some action, some room =>
    let channel := byteAt bs 2
    let track := (byteAt bs 4).toNat
    if byteAt bs 1 = 255 ∨ track < 1 ∨ 6 < track then none
    else some ⟨action, byteAt bs 1, if channel = 255 then none else some channel, room, track⟩
  | _, _ => none

/-- A room configuration (R1). -/
def roomConfigOfBytes (bs : List Byte) : Option RoomConfig :=
  match poolOfByte (byteAt bs 2) with
  | some pool =>
    let tracks := (byteAt bs 1).toNat
    if byteAt bs 0 = 255 ∨ tracks < 1 ∨ 6 < tracks then none
    else some ⟨byteAt bs 0, tracks, pool, fieldAt bs 3 2, clampBetween 256 maxCells (fieldAt bs 5 3)⟩
  | none => none

/-- The pool set of a station entry: a non-empty set of pools 0 to 3 for a TYPIST; for other classes what is written is ignored and
the set kept (R84, R187, log 18). -/
def poolSetOf (cls : StationClass) (b : Byte) (old : BitVec 4) : Option (BitVec 4) :=
  match cls with
  | .typist => if b = 0 ∨ 16 ≤ b.toNat then none else some (b.setWidth 4)
  | .readback => some old
  | .archive => some old

/-- The default mix of a station entry (R84); a track mask bit past track 6 is refused (R187, log 18). -/
def defaultMixOfBytes (bs : List Byte) : Option Mix :=
  match mixModeOfCode (byteAt bs 4) with
  | some mode =>
    if 64 ≤ (byteAt bs 5).toNat then none
    else some ⟨mode, (byteAt bs 5).setWidth 6, Vector.ofFn fun k => min 16 (byteAt bs (6 + k.val)).toNat⟩
  | none => none

/-- The configuration part of a station entry (R84), but for the check of its node against the other entries. -/
def stationConfigOfBytes (bs : List Byte) (old : StationConfig) : Option StationConfig :=
  match stationClassOfCode (byteAt bs 1), boolOfCode (byteAt bs 3), defaultMixOfBytes bs with
  | some cls, some clearance, some mix =>
    match poolSetOf cls (byteAt bs 2) old.pools with
    | some pools =>
      if byteAt bs 0 = 255 ∨ (cls = .archive ∧ !clearance) then none
      else some ⟨byteAt bs 0, cls, pools, clearance, mix, min 5000 (fieldAt bs 12 2), min 30000 (fieldAt bs 14 2)⟩
    | none => none
  | _, _, _ => none

/-- A CUT_SCHEDULE entry (R160). -/
def scheduleOfBytes (bs : List Byte) : Option ScheduleEntry :=
  let hour := anyOr (byteAt bs 0)
  let minute := anyOr (byteAt bs 1)
  let second := (byteAt bs 2).toNat
  if 23 < hour.getD 0 ∨ 59 < minute.getD 0 ∨ 59 < second then none
  else some ⟨hour, minute, second, BitVec.ofNat 16 (fieldAt bs 3 2)⟩

/-- The TIMEOUTS entry (R89, R174, R195). -/
def timeoutsOfBytes (bs : List Byte) : Option Timeouts :=
  match statusModeOfCode (byteAt bs 8), portOfCode (byteAt bs 10) with
  | some mode, some port =>
    some ⟨clampBetween 1 255 (fieldAt bs 0 2), clampBetween 1 255 (fieldAt bs 2 2), clampBetween 1 255 (fieldAt bs 4 2),
      clampBetween 8 250 (fieldAt bs 6 2), mode, byteAt bs 9, port, max 1 (fieldAt bs 11 2)⟩
  | _, _ => none

/-! ## Writes -/

/-- What a write of an entry comes to: a refusal, or the state with the entry stored and the write in effect. -/
abbrev Written := Except Result State

/-- A write with its fields accepted, or refused BAD_PARAMETER. -/
def accepted {α : Type} (x : Option α) (k : α → State) : Written :=
  match x with
  | some v => .ok (k v)
  | none => .error .badParameter

/-- Another used station entry has this node (R84). -/
def State.stationNodeTaken (s : State) (e : StationId) (node : Byte) : Bool :=
  node != 0 && allStations.any fun o => o != e && (s.station o).config.node == node

/-- A ROOM_CONFIG write (R1): only while the room is CLOSED; the cell under assembly then has one empty slot a track (R2, log 39). -/
def writeRoomConfig (r : RoomId) (bs : List Byte) (s : State) : Written :=
  if (s.room r).state ≠ .closed then .error .wrongState
  else accepted (roomConfigOfBytes bs) fun x =>
    s.updRoom r fun rm => { rm with config := x, assembly := emptyAssembly x.tracks }

/-- A STATION_TABLE write (R84, R85): only while the station is OFFLINE; its STOPPED context takes the default mix (R129). -/
def writeStation (e : StationId) (bs : List Byte) (s : State) : Written :=
  if (s.station e).state ≠ .offline then .error .wrongState
  else if s.stationNodeTaken e (byteAt bs 0) then .error .badParameter
  else accepted (stationConfigOfBytes bs (s.station e).config) fun x =>
    (s.updStation e fun _ => freshStation x).updContext e fun c => { c with mix := x.mix }

/-- The three refusals of a MANAGER_LIST write (R184). -/
def State.managerRefused (s : State) (i : Nat) (node : Byte) : Bool :=
  let others := (List.finRange 4).filter fun m => m.val != i
  node == 255 || (node != 0 && others.any fun m => s.mgmt.managers[m].node == node) ||
    (node == 0 && others.all fun m => s.mgmt.managers[m].node == 0)

/-- A MANAGER_LIST write (R184). -/
def writeManager (i : Nat) (bs : List Byte) (s : State) : Written :=
  if s.managerRefused i (byteAt bs 0) then .error .badParameter
  else .ok { s with mgmt := { s.mgmt with managers := s.mgmt.managers.setIfInBounds i ⟨byteAt bs 0, .office⟩ } }

/-- A LINK_PROFILE write (R166): only in CONFIG; the node address written is ignored. -/
def writeLinkProfile (bs : List Byte) (s : State) : Written :=
  if s.mgmt.op ≠ .config then .error .wrongState
  else accepted (periodOfCode (byteAt bs 0)) fun p => { s with link := { s.link with period := p } }

/-- A TIMEOUTS write (R196): the running status count starts anew. -/
def writeTimeouts (bs : List Byte) (s : State) : Written :=
  accepted (timeoutsOfBytes bs) fun x => { s with timeouts := x, mgmt := { s.mgmt with statusCount := x.freshCount } }

/-- A write of entry `i` of a table (R187). -/
def writeTable (t : TableName) (i : Nat) (bs : List Byte) (s : State) : Written :=
  match t with
  | .ingestMap => accepted (ingestOfBytes bs) fun x => { s with ingestMap := s.ingestMap.setIfInBounds i x }
  | .roomConfig => if h : i < 16 then writeRoomConfig ⟨i, h⟩ bs s else .error .cursorEnd
  | .stationTable => if h : i < 32 then writeStation ⟨i, h⟩ bs s else .error .cursorEnd
  | .cutSchedule => accepted (scheduleOfBytes bs) fun x => { s with schedule := s.schedule.setIfInBounds i x }
  | .statusItems => accepted (statusItemOf (byteAt bs 0) (byteAt bs 1)) fun x =>
    { s with mgmt := { s.mgmt with statusItems := s.mgmt.statusItems.setIfInBounds i x } }
  | .managerList => writeManager i bs s
  | .linkProfile => writeLinkProfile bs s
  | .storeSettings =>
    .ok (checkReserves { s with store := { s.store with pageReserve := min 4095 (fieldAt bs 0 2) } })
  | .timeouts => writeTimeouts bs s

/-! ## Entries as sent -/

def IngestEntry.bytes (x : IngestEntry) : List Byte :=
  bytesOf 1 x.action.code ++ [x.source, x.channel.getD 255] ++ bytesOf 1 x.room.val ++ bytesOf 1 x.track

def RoomConfig.bytes (x : RoomConfig) : List Byte :=
  [x.console] ++ bytesOf 1 x.tracks ++ bytesOf 1 x.pool.val ++ bytesOf 2 x.minCells ++ bytesOf 3 x.lengthLimit

def StationConfig.bytes (x : StationConfig) : List Byte :=
  [x.node] ++ bytesOf 1 x.cls.code ++ [x.pools.setWidth 8] ++ flagByte x.clearance ++ x.mix.bytes ++ bytesOf 2 x.backstep ++
    bytesOf 2 x.listenDelay

def ScheduleEntry.bytes (x : ScheduleEntry) : List Byte :=
  bytesOf 1 (x.hour.getD 255) ++ bytesOf 1 (x.minute.getD 255) ++ bytesOf 1 x.second ++ bytesOf 2 x.mask.toNat

def Timeouts.bytes (x : Timeouts) : List Byte :=
  bytesOf 2 x.accept ++ bytesOf 2 x.lease ++ bytesOf 2 x.stall ++ bytesOf 2 x.syncLoss ++ bytesOf 1 x.statusMode.code ++
    [x.statusDest] ++ bytesOf 1 (portCode x.statusPort) ++ bytesOf 2 x.statusPeriod

/-- The dynamic part of a station entry (R85, 11.5); its ticks remaining are written 0 while no timer runs (log 54). -/
def State.stationDynamic (s : State) (x : Station) : List Byte :=
  bytesOf 1 x.state.code ++ takeNumberBytes (x.take.map s.numberOf) ++ bytesOf 1 x.misses ++ bytesOf 1 (portCode x.lastPort) ++
    bytesOf 1 (timerCode x.timer) ++ bytesOf 4 ((x.timer.map Timer.ticks).getD 0)

/-- An entry as stored, in the layout in which it is written (R186, 11.3). -/
def State.entryBytes (s : State) (t : TableName) (i : Nat) : List Byte :=
  match t with
  | .ingestMap => ((s.ingestMap[i]?.map IngestEntry.bytes).getD [])
  | .roomConfig => ((s.rooms[i]?.map fun r => r.config.bytes).getD [])
  | .stationTable => ((s.handOff.stations[i]?.map fun x => x.config.bytes).getD [])
  | .cutSchedule => ((s.schedule[i]?.map ScheduleEntry.bytes).getD [])
  | .statusItems => ((s.mgmt.statusItems[i]?.map StatusItem.bytes).getD [])
  | .managerList => ((s.mgmt.managers[i]?.map fun m => [m.node]).getD [])
  | .linkProfile => bytesOf 1 s.link.period.code ++ [s.link.node]
  | .storeSettings => bytesOf 2 s.store.pageReserve ++ bytesOf 2 s.store.pageCount ++ bytesOf 2 Config.slotReserve
  | .timeouts => s.timeouts.bytes

/-- What READ_ENTRY adds: a station's dynamic part, a manager's last port (R186). -/
def State.entryExtra (s : State) (t : TableName) (i : Nat) : List Byte :=
  match t with
  | .stationTable => ((s.handOff.stations[i]?.map s.stationDynamic).getD [])
  | .managerList => ((s.mgmt.managers[i]?.map fun m => bytesOf 1 (portCode m.lastPort)).getD [])
  | .ingestMap => []
  | .roomConfig => []
  | .cutSchedule => []
  | .statusItems => []
  | .linkProfile => []
  | .storeSettings => []
  | .timeouts => []

/-! ## The cursor commands -/

/-- A port's cursor replaced (R185). -/
def setCursor (p : Port) (x : Cursor) (s : State) : State := s.updPort p fun q => { q with cursor := some x }

/-- SET_CURSOR (R185). -/
def execSetCursor (c : Ctl) (table : Byte) (index : Word) (s : State) : Host.Outcome State Fault Refusal :=
  .next (managerCommand c .setCursor (fun s =>
    match tableOfCode table with
    | some t =>
      if index.toNat < t.size then
        respond c .setCursor .ok (bytesOf 1 t.code ++ bytesOf 2 index.toNat) (setCursor c.port ⟨t, index.toNat⟩ s)
      else respond c .setCursor .badParameter [] s
    | none => respond c .setCursor .badParameter [] s) s)

/-- The override trailer at the place after a command's fields (R199). -/
def trailerOf : List Byte → Option Word
  | b :: x :: y :: _ => if b = 1 then some (BitVec.ofNat 16 (natOf [x, y])) else none
  | _ => none

/-- Where a WRITE_ENTRY's fields end: a station entry may be sent with its dynamic part, which is ignored (R199, log 15). -/
def entryEnd (t : TableName) (sent : Nat) : Nat :=
  match t with
  | .stationTable => if sent < 26 then 16 else 26
  | _ => t.entryLength

/-- A WRITE_ENTRY too short for an entry of its port's cursor table (R183, log 15). -/
def State.entryShort (s : State) (p : Port) (body : List Byte) : Bool :=
  match (s.port p).cursor with
  | some x => body.length < x.table.entryLength
  | none => false

/-- WRITE_ENTRY carries an override trailer of 0, after the header's fields or after the entry (R199). -/
def State.entryZeroOverride (s : State) (c : Ctl) (body : List Byte) : Bool :=
  zeroOverride c || match (s.port c.port).cursor with
    | some x => trailerOf (body.drop (entryEnd x.table body.length)) == some 0
    | none => false

/-- The checks and the write of R186, for a manager. -/
def writeAtCursor (c : Ctl) (body : List Byte) (s : State) : State :=
  match (s.port c.port).cursor with
  | none => respond c .writeEntry .wrongState [] s
  | some x =>
    if x.table.size ≤ x.index then respond c .writeEntry .cursorEnd [] s
    else match writeTable x.table x.index (body.take x.table.entryLength) s with
      | .error r => respond c .writeEntry r [] s
      | .ok s' =>
        respond c .writeEntry .ok (s'.entryBytes x.table x.index ++ bytesOf 2 (x.index + 1))
          (setCursor c.port ⟨x.table, x.index + 1⟩ s')

/-- WRITE_ENTRY (R186, R187); a body too short is refused before the sender's class is checked (R183). -/
def execWriteEntry (c : Ctl) (body : List Byte) (s : State) : Host.Outcome State Fault Refusal :=
  .next (control c .writeEntry (fun who s =>
    if s.entryShort c.port body then respond c .writeEntry .badParameter [] s
    else match who with
      | .manager => if s.entryZeroOverride c body then respond c .writeEntry .badParameter [] s else writeAtCursor c body s
      | _ => respond c .writeEntry .notPermitted [] s) s)

/-- READ_ENTRY (R186). -/
def execReadEntry (c : Ctl) (s : State) : Host.Outcome State Fault Refusal :=
  .next (managerCommand c .readEntry (fun s =>
    match (s.port c.port).cursor with
    | none => respond c .readEntry .wrongState [] s
    | some x =>
      if x.table.size ≤ x.index then respond c .readEntry .cursorEnd [] s
      else respond c .readEntry .ok (s.entryBytes x.table x.index ++ s.entryExtra x.table x.index ++ bytesOf 2 (x.index + 1))
        (setCursor c.port ⟨x.table, x.index + 1⟩ s)) s)

end Sys2Proof.Machine
end

