-- ==== Sys2Proof/Machine/Management.lean ====
section
/-! DEFINITION. In-band Management (10): operating states (R188 to R190) with the Hand-off and Playback parts of HALT and SESSION_RESET
(R110, R150), response modes (R191), alerts (R194), counters (R197), and CONTROL frames that name no command or lack fields (R183, R199). -/

namespace Sys2Proof.Machine

/-! ## RUN, HALT, SESSION_RESET -/

/-- RUN (R188). -/
def execRun (c : Ctl) (s : State) : Host.Outcome State Fault Refusal :=
  .next (managerCommand c .run (fun s =>
    match s.mgmt.op with
    | .config => respond c .run .ok [] { s with mgmt := { s.mgmt with op := .run } }
    | .run => respond c .run .wrongState [] s) s)

/-- Step 1 of R110: the wait list is emptied, its stations IDLE. -/
def emptyWaitList (s : State) : State :=
  (forEach s.handOff.wait (fun e s => s.updStation e fun x => { x with state := .idle }) s).updWait fun _ => []

/-- Step 2 of R110 for one station. -/
def resetStation (why : Withdrawal) (e : StationId) (s : State) : State :=
  let x := s.station e
  let slot := x.take.getD 0
  match x.state with
  | .offered | .holding =>
    let s := match s.take? slot with
      | some t => (s.setTake slot { t with transcription := some .pending, holder := none }).updPool t.pool fun q => slot :: q
      | none => s
    withdrawnNotice e (s.numberOf slot) why (makeIdle e s)
  | .archiving =>
    let s := (s.updTake slot fun t => { t with archive := some .unarchived, archiver := none }).updArchive fun q => slot :: q
    withdrawnNotice e (s.numberOf slot) why (makeIdle e s)
  | .listening => makeIdle e s
  | .offline => s
  | .idle => s
  | .waiting => s

/-- A station whose take R110 gives back, and which therefore is sent WITHDRAWN. -/
def Station.withdrawn (x : Station) : Bool := x.state == .offered || x.state == .holding || x.state == .archiving

/-- Step 3 of R110 for one context (R150): detached, and END_OF_TAKE sent to a station that was not sent WITHDRAWN (log 28). -/
def resetContext (why : EndReason) (withdrawn : List StationId) (e : StationId) (s : State) : State :=
  match (s.context e).take with
  | none => s
  | some slot =>
    let number := s.numberOf slot
    let position := (s.context e).position.getD 0
    let s := detach e s
    if withdrawn.contains e then s else endOfTakeNotice e number position why s

/-- Every STOPPED context's mix is the default mix of its entry after HALT and SESSION_RESET (R129). -/
def defaultMixes (s : State) : State :=
  forEach allStations (fun e s => s.updContext e fun c => { c with mix := (s.station e).config.mix }) s

/-- The Hand-off Unit's part of HALT and SESSION_RESET (R110, R150). -/
def handOffReset (why : Withdrawal) (reason : EndReason) (s : State) : State :=
  let withdrawn := allStations.filter fun e => (s.station e).withdrawn
  defaultMixes (forEach allStations (resetContext reason withdrawn) (forEach allStations (resetStation why) (emptyWaitList s)))

/-- The held responses of both ports are sent, Capture Port first (R189, R190). -/
def releaseBoth (s : State) : State := releaseHeld .office (releaseHeld .capture s)

/-- The rooms that are not CLOSED, ascending. -/
def State.openRooms (s : State) : List RoomId := allRooms.filter fun r => (s.room r).state != .closed

/-- An accepted HALT (R189). -/
def haltNow (s : State) : State :=
  let s := releaseBoth (handOffReset .halt .halt s)
  { s with mgmt := { s.mgmt with op := .config } }

/-- HALT (R189). -/
def execHalt (c : Ctl) (s : State) : Host.Outcome State Fault Refusal :=
  .next (managerCommand c .halt (fun s =>
    if s.mgmt.op = .run ∧ s.openRooms = [] then respond c .halt .ok [] (haltNow s)
    else respond c .halt .wrongState [] s) s)

/-- The marker entries that closing every open room needs (R5). -/
def State.closeAllNeeds (s : State) : Nat := (s.openRooms.map fun r => (s.room r).closeNeeds).sum

/-- An accepted SESSION_RESET (R190); `source` is the manager that sent it. -/
def sessionResetNow (source : Byte) (s : State) : State :=
  releaseBoth (forEach s.openRooms (fun r => closeRoomWith r .sessionReset source) (handOffReset .sessionReset .sessionReset s))

/-- The numbers of the open takes that hold no cell, by room, ascending: those that SESSION_RESET discards (R55). -/
def State.emptyOpenTakes (s : State) : List Nat :=
  s.openRooms.filterMap fun r => ((s.room r).openTake.bind s.take?).bind fun t => if t.cells = 0 then some t.number else none

/-- What SESSION_RESET answers: the rooms closed (R190) in one byte (log 12), and after it each take that was discarded, shown as such
(R55); that those follow the count in this form is log 56. -/
def sessionResetFields (s : State) : List Byte :=
  bytesOf 1 s.openRooms.length ++ s.emptyOpenTakes.flatMap fun n => closedTakeFields n true

/-- SESSION_RESET (R190). -/
def execSessionReset (c : Ctl) (s : State) : Host.Outcome State Fault Refusal :=
  .next (managerCommand c .sessionReset (fun s =>
    if s.mgmt.op ≠ .run then respond c .sessionReset .wrongState [] s
    else if s.markerPool.free < s.closeAllNeeds then respond c .sessionReset .tableFull [] s
    else respond c .sessionReset .ok (sessionResetFields s) (sessionResetNow c.src s)) s)

/-! ## Response modes, alerts, counters -/

/-- A port's response mode set; responses held are released when it becomes IMMEDIATE (R191). -/
def setMode (p : Port) (m : ResponseMode) (s : State) : State :=
  let s := s.updPort p fun q => { q with mode := m }
  match m with
  | .immediate => releaseHeld p s
  | .onSync => s

/-- SET_RESPONSE_MODE (R191). -/
def execSetResponseMode (c : Ctl) (port mode : Byte) (s : State) : Host.Outcome State Fault Refusal :=
  .next (managerCommand c .setResponseMode (fun s =>
    match portOfCode port, responseModeOfCode mode with
    | some p, some m => respond c .setResponseMode .ok [] (setMode p m s)
    | _, _ => respond c .setResponseMode .badParameter [] s) s)

/-- READ_ALERTS (R194): the latched and the live set, and every latch cleared. -/
def execReadAlerts (c : Ctl) (s : State) : Host.Outcome State Fault Refusal :=
  .next (managerCommand c .readAlerts (fun s =>
    respond c .readAlerts .ok (bytesOf 2 s.mgmt.latches.toNat ++ bytesOf 2 s.liveSet.toNat)
      { s with mgmt := { s.mgmt with latches := 0 } }) s)

/-- A room's counters in R25's order. -/
def RoomCounters.list (k : RoomCounters) : List Counter := [k.cellsStored, k.cellsDropped, k.cyclesLost, k.missing, k.marksRefused]

/-- One of the four first counters of R179, and ORIGINATE_DROPS, of both ports: Capture Port first. -/
def State.bothPorts (s : State) (f : PortCounters → Counter) : List Counter :=
  [f s.link.capturePort.counters, f s.link.officePort.counters]

/-- The four per-port counters of R179 that a port keeps side by side. -/
def PortCounters.list (k : PortCounters) : List Counter := [k.framesReceived, k.framesSent, k.crcErrors, k.forwardDrops]

/-- Every counter of every block, in the order of R197 and of each block's own rule (log 25). -/
def State.allCounters (s : State) : List Counter :=
  let i := s.ingestCounters
  let p := s.store.counters
  let t := s.takeTable.counters
  let m := s.markerPool
  let h := s.handOff.counters
  let b := s.playback.counters
  let k := s.clockCounters
  let l := s.link.counters
  let g := s.mgmt.counters
  [i.wrongSize, i.unmapped, i.outOfCycle, i.inactive, i.duplicate] ++
  s.rooms.toList.flatMap (fun r => r.counters.list) ++ [s.notConsole] ++
  [p.pagesAllocated, p.noPage, p.pressureReclaims, p.commandReclaims] ++
  [t.takesClosed, t.emptyTakes, t.deferredCuts] ++
  [m.annotationsLost, m.lateMarks, m.badMarkKind] ++
  [h.offersMade, h.offersDeclined, h.offersExpired, h.takesTyped, h.takesReturned, h.leasesExpired, h.archiveAssigned,
    h.takesArchived, h.archiveFailures, h.archiveStalls] ++
  [b.cellsPlayed, b.cellsWithheld, b.cellsSentBulk, b.markersSent, b.endOfTakeNotices] ++
  [k.scheduleCuts, k.scheduleShort, k.scheduleOffRecord] ++
  s.link.capturePort.counters.list ++ s.link.officePort.counters.list ++
  [l.badAddress, l.looped, l.untakenKind, l.officeSyncDiscards, l.cyclesSkipped, l.syncRenumbered, l.syncLosses, l.localSyncs] ++
  s.bothPorts PortCounters.originateDrops ++ [l.shortPayload] ++
  [g.controlTaken, g.unknownSource, g.heldOverflows, g.alertNotices, g.statusFrames]

/-- READ_COUNTERS (R197). -/
def execReadCounters (c : Ctl) (s : State) : Host.Outcome State Fault Refusal :=
  .next (managerCommand c .readCounters (fun s =>
    respond c .readCounters .ok (s.allCounters.flatMap fun k => bytesOf 4 k.toNat) s) s)

/-- Every room's counters at 0 (R25). -/
def clearRoomCounters (s : State) : State := forEach allRooms (fun r s => s.countRoom r fun _ => {}) s

/-- Every counter of every block at 0 (R197, R199). -/
def clearCounters (s : State) : State :=
  let s := clearRoomCounters s
  { s with
    ingestCounters := {}, notConsole := 0, clockCounters := {},
    store := { s.store with counters := {} }, takeTable := { s.takeTable with counters := {} },
    markerPool := { free := s.markerPool.free }, handOff := { s.handOff with counters := {} },
    playback := { s.playback with counters := {} },
    link := { s.link with
      counters := {}, capturePort := { s.link.capturePort with counters := {} },
      officePort := { s.link.officePort with counters := {} } },
    mgmt := { s.mgmt with counters := {} } }

/-- CLEAR_COUNTERS (R197). -/
def execClearCounters (c : Ctl) (s : State) : Host.Outcome State Fault Refusal :=
  .next (managerCommand c .clearCounters (fun s => respond c .clearCounters .ok [] (clearCounters s)) s)

/-! ## CONTROL frames that are no whole command -/

/-- The bytes of the fields that a command's layout requires (R183, 11.3); those of WRITE_ENTRY depend on the cursor (log 15). -/
def CommandName.fieldBytes : CommandName → Nat
  | .setCursor => 3
  | .setResponseMode => 2
  | .openRoom => 1
  | .closeRoom => 1
  | .cutTake => 1
  | .readTake => 2
  | .readQueue => 3
  | .moveTake => 3
  | .readMarker => 5
  | .releaseTake => 2
  | .setClock => 7
  | .hello => 1
  | .cue => 7
  | .setNotice => 3
  | .setMix => 8
  | .addNote => 18
  | .listen => 1
  | .credit => 2
  | _ => 0

/-- The command code and tag that a RESPONSE repeats: 65535 and 0 where the payload is too short to hold them (R199). -/
def controlHeader (payload : List Byte) : Nat × Nat :=
  if payload.length < 2 then (65535, 0)
  else if payload.length < 4 then (natOf (payload.take 2), 0)
  else (natOf (payload.take 2), natOf ((payload.drop 2).take 2))

/-- What is wrong with a CONTROL payload: no such command, or a field missing; none where it holds a whole command (R183, R199). -/
def controlFault (payload : List Byte) : Option Result :=
  if payload.length < 2 then some .unknownCommand
  else match commandOfCode (controlHeader payload).1 with
    | none => some .unknownCommand
    | some cmd => if payload.length < 4 + cmd.fieldBytes then some .badParameter else none

/-- The lease effect of a CONTROL frame that names a command but lacks a field (R99). -/
def shortLeaseEffect (payload : List Byte) (who : Sender) (s : State) : State :=
  match commandOfCode (controlHeader payload).1 with
  | some cmd => if payload.length < 2 then s else leaseEffect cmd who s
  | none => s

/-- The answer to a CONTROL frame that fails R183's checks before the class check: its source unknown, its command unknown, or a field
missing. A payload that holds a whole command is that command, not this one (log 31). -/
def answerFaulty (p : Port) (src : Byte) (payload : List Byte) (s : State) : State :=
  match controlFault payload with
  | none => s
  | some r =>
    let s := takenFrom p src s
    let header := controlHeader payload
    match s.sender src with
    | .unknown =>
      sendResponse p (s.responseFrame src header.1 header.2 .notPermitted [])
        (s.countMgmt fun q => { q with unknownSource := q.unknownSource + 1 })
    | who =>
      let s := shortLeaseEffect payload who (s.countMgmt fun q => { q with controlTaken := q.controlTaken + 1 })
      sendResponse p (s.responseFrame src header.1 header.2 r []) s

/-- UNKNOWN_COMMAND (R183, R199). -/
def execUnknownCommand (port : Port) (src : Byte) (payload : List Byte) (s : State) : Host.Outcome State Fault Refusal :=
  .next (whenOn s (answerFaulty port src payload))

end Sys2Proof.Machine
end

