-- ==== Sys2Proof/Machine/ManagerTakes.lean ====
section
/-! DEFINITION. The manager commands that act on rooms, takes, markers and the store (R3, R4, R38, R39, R60 to R63, R80). -/

namespace Sys2Proof.Machine

/-! ## Rooms -/

/-- A room set up at its opening (R3). -/
def Room.opened (rm : Room) (slot : Nat) : Room :=
  { rm with state := .onRecord, openTake := some slot, sealed := false, overrun := none, deferred := none, offCycles := 0, gap := 0,
            ring := [], assembly := emptyAssembly rm.config.tracks }

/-- A CLOSED room opens with a take in a FREE slot (R3, R46). -/
def openRoomIn (slot : Nat) (r : RoomId) (s : State) : State := (openTakeIn slot r s).updRoom r fun x => x.opened slot

/-- OPEN_ROOM (R3); a room number that names no room is refused first (log 16). -/
def execOpenRoom (c : Ctl) (room : Byte) (s : State) : Host.Outcome State Fault Refusal :=
  .next (managerCommand c .openRoom (fun s =>
    match roomOfByte room with
    | none => respond c .openRoom .badParameter [] s
    | some r =>
      if s.mgmt.op ≠ .run ∨ (s.room r).state ≠ .closed then respond c .openRoom .wrongState [] s
      else match s.lowestFreeSlot with
        | none => respond c .openRoom .tableFull [] s
        | some slot => respond c .openRoom .ok (bytesOf 2 s.nextTakeNumber) (openRoomIn slot r s)) s)

/-- The number and cell count of a room's open take. -/
def State.openTakeInfo (s : State) (r : RoomId) : Nat × Nat :=
  match (s.room r).openTake with
  | some slot => (s.numberOf slot, s.cellsOf slot)
  | none => (0, 0)

/-- CLOSE_ROOM (R4, R55, R57); its response shows a discarded take as such (log 13). -/
def execCloseRoom (c : Ctl) (room : Byte) (s : State) : Host.Outcome State Fault Refusal :=
  .next (managerCommand c .closeRoom (fun s =>
    match roomOfByte room with
    | none => respond c .closeRoom .badParameter [] s
    | some r =>
      if (s.room r).state = .closed then respond c .closeRoom .wrongState [] s
      else if s.markerPool.free < (s.room r).closeNeeds then respond c .closeRoom .tableFull [] s
      else
        let info := s.openTakeInfo r
        respond c .closeRoom .ok (closedTakeFields info.1 (info.2 == 0)) (closeRoomWith r .roomClose c.src s)) s)

/-- Code of a deferral's reason: NO_SLOT, NO_MARKERS (R51). -/
def DeferReason.code : DeferReason → Nat
  | .noSlot => 0
  | .noMarkers => 1

/-- The fields of a DEFERRED outcome: the take that stays open, the cause kept, and the reason, absent when absorbed (R60). -/
def deferredFields (s : State) (r : RoomId) (reason : Option DeferReason) : List Byte :=
  bytesOf 1 1 ++ bytesOf 2 (s.openTakeInfo r).1 ++ enumBytes ((s.room r).deferred.map CutCause.code) ++
    enumBytes (reason.map DeferReason.code)

/-- The fields of a CUT_TAKE response, MADE 0 or DEFERRED 1 (R60). -/
def cutFields (s : State) (r : RoomId) : CutOutcome → List Byte
  | .made closed discarded successor => bytesOf 1 0 ++ bytesOf 2 closed ++ flagByte discarded ++ bytesOf 2 successor
  | .deferred reason => deferredFields s r (some reason)
  | .absorbed => deferredFields s r none
  | .ignored => deferredFields s r none

/-- CUT_TAKE (R60). -/
def execCutTake (c : Ctl) (room : Byte) (s : State) : Host.Outcome State Fault Refusal :=
  .next (managerCommand c .cutTake (fun s =>
    match roomOfByte room with
    | none => respond c .cutTake .badParameter [] s
    | some r =>
      if s.mgmt.op ≠ .run ∨ (s.room r).state = .closed then respond c .cutTake .wrongState [] s
      else
        let cut := requestCut r .manager c.src s
        respond c .cutTake .ok (cutFields cut.1 r cut.2) cut.1) s)

/-! ## Takes and queues -/

/-- The live take a number names, with the refusals of R62: 0 is BAD_PARAMETER, a number of no live take NO_SUCH_TAKE. -/
def State.namedTake (s : State) (number : Word) : Except Result (Nat × Take) :=
  if number = 0 then .error .badParameter
  else match s.findTake number.toNat with
    | some x => .ok x
    | none => .error .noSuchTake

/-- A take record (11.5). -/
def takeRecord (slot : Nat) (t : Take) : List Byte :=
  bytesOf 2 slot ++ bytesOf 2 t.number ++ bytesOf 1 t.room.val ++ bytesOf 1 t.lifecycle.code ++ t.openStamp.bytes ++
    stampBytes t.endStamp ++ enumBytes (t.cause.map CutCause.code) ++ bytesOf 3 t.cells ++ pageBytes t.firstPage ++
    pageBytes t.lastPage ++ bytesOf 2 t.markers.length ++ bytesOf 2 t.nextMarker ++ bytesOf 1 t.pool.val ++
    enumBytes (t.transcription.map Transcription.code) ++ nodeBytes t.holder ++ bytesOf 1 t.handOffs ++
    enumBytes (t.archive.map ArchiveState.code) ++ nodeBytes t.archiver ++ flagByte t.sealed ++ bytesOf 1 t.markersLost ++
    bytesOf 1 t.pins ++ bytesOf 1 t.tracks ++ bytesOf 1 t.period.code

/-- READ_TAKE (R62). -/
def execReadTake (c : Ctl) (number : Word) (s : State) : Host.Outcome State Fault Refusal :=
  .next (managerCommand c .readTake (fun s =>
    match s.namedTake number with
    | .error r => respond c .readTake r [] s
    | .ok (slot, t) => respond c .readTake .ok (takeRecord slot t) s) s)

/-- The entries of a queue, head first, as READ_QUEUE sends them; none for a name outside the table of R63. -/
def State.queueEntries (s : State) (queue : Byte) : Option (List (List Byte)) :=
  let numbers (q : List Nat) : List (List Byte) := q.map fun slot => bytesOf 2 (s.numberOf slot)
  match queue.toNat with
  | 0 => some (numbers (s.pool 0))
  | 1 => some (numbers (s.pool 1))
  | 2 => some (numbers (s.pool 2))
  | 3 => some (numbers (s.pool 3))
  | 4 => some (numbers s.handOff.archive)
  | 5 => some (numbers s.store.retention)
  | 6 => some (s.handOff.wait.map fun e => [(s.station e).config.node])
  | _ => none

/-- READ_QUEUE (R63). -/
def execReadQueue (c : Ctl) (queue : Byte) (start : Word) (s : State) : Host.Outcome State Fault Refusal :=
  .next (managerCommand c .readQueue (fun s =>
    match s.queueEntries queue with
    | none => respond c .readQueue .badParameter [] s
    | some entries =>
      if 1023 < start.toNat then respond c .readQueue .badParameter [] s
      else respond c .readQueue .ok (bytesOf 2 entries.length ++ ((entries.drop start.toNat).take 64).flatten) s) s)

/-- A PENDING take leaves its pool queue and joins the tail of a pool (R61). -/
def moveTo (p : PoolId) (slot : Nat) (t : Take) (s : State) : State :=
  ((s.updPool t.pool fun q => q.filter (· != slot)).updTake slot fun t => { t with pool := p }).updPool p fun q => q ++ [slot]

/-- MOVE_TAKE (R61): the response is produced before the arbiter runs for the arrival (log 32). -/
def execMoveTake (c : Ctl) (number : Word) (pool : Byte) (s : State) : Host.Outcome State Fault Refusal :=
  .next (managerCommand c .moveTake (fun s =>
    match poolOfByte pool with
    | none => respond c .moveTake .badParameter [] s
    | some p =>
      match s.namedTake number with
      | .error r => respond c .moveTake r [] s
      | .ok (slot, t) =>
        if t.transcription = some .pending then arrive slot (respond c .moveTake .ok [] (moveTo p slot t s))
        else respond c .moveTake .wrongState [] s) s)

/-- The marker that a selector picks, with its index in list order: BY_NUMBER 0, BY_INDEX 1 (R80). -/
def selectMarker (ms : List Marker) (byIndex : Bool) (value : Nat) : Option (Nat × Marker) :=
  if byIndex then ms[value]?.map fun m => (value, m)
  else (ms.zipIdx.find? fun x => x.1.number == value).map fun x => (x.2, x.1)

/-- READ_MARKER (R80). -/
def execReadMarker (c : Ctl) (number : Word) (selector : Byte) (value : Word) (s : State) : Host.Outcome State Fault Refusal :=
  .next (managerCommand c .readMarker (fun s =>
    match boolOfCode selector with
    | none => respond c .readMarker .badParameter [] s
    | some byIndex =>
      match s.namedTake number with
      | .error r => respond c .readMarker r [] s
      | .ok (_, t) =>
        match selectMarker t.markers byIndex value.toNat with
        | none => respond c .readMarker .badParameter [] s
        | some (i, m) => respond c .readMarker .ok (bytesOf 2 t.markers.length ++ bytesOf 2 i ++ m.bytes) s) s)

/-! ## The store -/

/-- A take reclaimed by a command (R38, R39). -/
def reclaimByCommand (slot : Nat) (s : State) : State :=
  (reclaim slot s).countStore fun k => { k with commandReclaims := k.commandReclaims + 1 }

/-- RELEASE_TAKE (R38). -/
def execReleaseTake (c : Ctl) (number : Word) (s : State) : Host.Outcome State Fault Refusal :=
  .next (managerCommand c .releaseTake (fun s =>
    match s.namedTake number with
    | .error r => respond c .releaseTake r [] s
    | .ok (slot, t) =>
      if t.lifecycle ≠ .retained then respond c .releaseTake .wrongState [] s
      else if t.pins ≠ 0 then respond c .releaseTake .pinned [] s
      else
        let s' := reclaimByCommand slot s
        respond c .releaseTake .ok (bytesOf 2 (s'.store.freePages.length - s.store.freePages.length)) s') s)

/-- Some live take is not ARCHIVED (R39). -/
def State.someUnarchived (s : State) : Bool := s.takeTable.takes.any fun x => x.2.archive != some .archived

/-- The retained takes that CLEAR_STORE reclaims, in queue order: in CONFIG all of them, since none is pinned (R39, log 34). -/
def State.clearable (s : State) : List Nat :=
  s.store.retention.filter fun slot => ((s.take? slot).map Take.reclaimable).getD false

/-- CLEAR_STORE (R39). -/
def execClearStore (c : Ctl) (s : State) : Host.Outcome State Fault Refusal :=
  .next (managerCommand c .clearStore (fun s =>
    if s.mgmt.op ≠ .config then respond c .clearStore .wrongState [] s
    else if s.someUnarchived then respond c .clearStore .unarchived [] s
    else
      let s' := forEach s.clearable reclaimByCommand s
      respond c .clearStore .ok
        (bytesOf 2 s.clearable.length ++ bytesOf 2 (s'.store.freePages.length - s.store.freePages.length)) s') s)

end Sys2Proof.Machine
end

