-- ==== Sys2Proof/Machine/StationWork.lean ====
section
/-! DEFINITION. The commands of typists' work and of archive transfers, HELLO, and the expiries of the station timers (R87, R93 to R108,
R147, R149). -/

namespace Sys2Proof.Machine

/-! ## Typists' work -/

/-- The first PENDING take for which a station is eligible: its pools in priority order, each from the head (R93). -/
def State.searchWork (s : State) (x : Station) : Option Nat :=
  ((allPools.filter fun p => x.config.pools.getLsbD p.val).flatMap s.pool).find? fun slot => ((s.take? slot).map x.eligible).getD false

/-- REQUEST_WORK (R93): outcome OFFERED 0 or WAITING 1. -/
def execRequestWork (c : Ctl) (s : State) : Host.Outcome State Fault Refusal :=
  .next (stationCommand c .requestWork (fun e s =>
    if (s.station e).state ≠ .idle then respond c .requestWork .wrongState [] s
    else match s.searchWork (s.station e) with
      | some slot => respond c .requestWork .ok (bytesOf 1 0 ++ bytesOf 2 (s.numberOf slot)) (offer slot e s)
      | none =>
        respond c .requestWork .ok (bytesOf 1 1 ++ bytesOf 2 s.handOff.wait.length)
          ((s.updStation e fun x => { x with state := .waiting }).updWait fun q => q ++ [e])) s)

/-- The context of an accepting station at position 0, PAUSED, with the default mix: attached, moved, or set back (R98). -/
def attachAccepted (e : StationId) (slot : Nat) (s : State) : State :=
  let mix := (s.station e).config.mix
  if (s.context e).take = some slot then
    (setPosition e slot 0 s).updContext e fun x =>
      { x with state := .paused, mix := mix, saved := none, notice := none, flags := none }
  else attach e slot mix s

/-- An offer is accepted (R98). -/
def acceptOffer (e : StationId) (slot : Nat) (s : State) : State :=
  let s := s.updTake slot fun t => { t with transcription := some .assigned }
  let s := s.updStation e fun x => { x with state := .holding, timer := some ⟨.lease, ticksOfMin s.timeouts.lease⟩ }
  attachAccepted e slot s

/-- The slot of the live take that a station's entry names (R85). -/
def State.stationTake (s : State) (e : StationId) : Option Nat := (s.station e).take.filter fun slot => (s.take? slot).isSome

/-- A station command that acts on the take that the station's state names; in any other state it is refused NOT_HOLDER. -/
def withStationTake (c : Ctl) (cmd : CommandName) (state : StationState) (e : StationId) (k : Nat → State → State) (s : State) : State :=
  match s.stationTake e with
  | some slot => if (s.station e).state = state then k slot s else respond c cmd .notHolder [] s
  | none => respond c cmd .notHolder [] s

/-- ACCEPT (R98); that the cell count takes 3 bytes in its response is log 12. -/
def execAccept (c : Ctl) (s : State) : Host.Outcome State Fault Refusal :=
  .next (plainStationCommand c .accept (fun e s =>
    withStationTake c .accept .offered e (fun slot s =>
      respond c .accept .ok (bytesOf 2 (s.numberOf slot) ++ bytesOf 3 (s.cellsOf slot)) (acceptOffer e slot s)) s) s)

/-- What a DECLINE, or a HELLO from an OFFERED station, adds to a give-back (R96). -/
def countDeclined (_ : Nat) (s : State) : State := s.countHandOff fun k => { k with offersDeclined := k.offersDeclined + 1 }

/-- What a RETURN, or a HELLO from a HOLDING station, adds to a give-back (R96). -/
def countReturned (_ : Nat) (s : State) : State := s.countHandOff fun k => { k with takesReturned := k.takesReturned + 1 }

/-- DECLINE (R96). -/
def execDecline (c : Ctl) (s : State) : Host.Outcome State Fault Refusal :=
  .next (stationCommand c .decline (fun e s =>
    withStationTake c .decline .offered e (fun _ s => respond c .decline .ok [] (giveBack e countDeclined s)) s) s)

/-- KEEP (R99): the lease has been restarted before the checks. -/
def execKeep (c : Ctl) (s : State) : Host.Outcome State Fault Refusal :=
  .next (plainStationCommand c .keep (fun e s =>
    withStationTake c .keep .holding e (fun _ s =>
      respond c .keep .ok (bytesOf 4 (((s.station e).timer.map Timer.ticks).getD 0)) s) s) s)

/-- A hold is completed (R100, R49). -/
def completeHold (e : StationId) (slot : Nat) (s : State) : State :=
  let s := detach e (s.updStation e fun x => { x with timer := none })
  let s := makeIdle e (s.updTake slot fun t => { t with holder := none, transcription := some .typed })
  retainIfDone slot (s.countHandOff fun k => { k with takesTyped := k.takesTyped + 1 })

/-- COMPLETE (R100). -/
def execComplete (c : Ctl) (s : State) : Host.Outcome State Fault Refusal :=
  .next (plainStationCommand c .complete (fun e s =>
    withStationTake c .complete .holding e (fun slot s =>
      respond c .complete .ok (bytesOf 2 (s.numberOf slot)) (completeHold e slot s)) s) s)

/-- RETURN (R101). -/
def execReturnTake (c : Ctl) (s : State) : Host.Outcome State Fault Refusal :=
  .next (plainStationCommand c .returnTake (fun e s =>
    withStationTake c .returnTake .holding e (fun _ s => respond c .returnTake .ok [] (giveBack e countReturned s)) s) s)

/-! ## Archive transfers -/

/-- The head of the archive queue is assigned to a station (R104): its context attached in BULK at position 0 (R147). -/
def assignArchive (e : StationId) (slot : Nat) (s : State) : State :=
  let node := (s.station e).config.node
  let s := s.updArchive fun q => q.filter (· != slot)
  let s := s.updTake slot fun t => { t with archive := some .archiving, archiver := some node }
  let s := s.updStation e fun x => { x with state := .archiving, take := some slot, timer := some ⟨.stall, ticksOfS s.timeouts.stall⟩ }
  let s := (attach e slot (s.station e).config.mix s).updContext e fun x => { x with state := .bulk }
  s.countHandOff fun k => { k with archiveAssigned := k.archiveAssigned + 1 }

/-- What REQUEST_ARCHIVE answers of a take (R104); the widths of its cell count and marker count are log 12. -/
def archiveFields (t : Take) : List Byte :=
  bytesOf 2 t.number ++ bytesOf 1 t.room.val ++ bytesOf 3 t.cells ++ t.openStamp.bytes ++ stampBytes t.endStamp ++
    enumBytes (t.cause.map CutCause.code) ++ bytesOf 2 t.markers.length ++ flagByte t.sealed

/-- REQUEST_ARCHIVE (R104). -/
def execRequestArchive (c : Ctl) (s : State) : Host.Outcome State Fault Refusal :=
  .next (stationCommand c .requestArchive (fun e s =>
    if (s.station e).state ≠ .idle then respond c .requestArchive .wrongState [] s
    else match s.handOff.archive.head?.bind fun slot => (s.take? slot).map fun t => (slot, t) with
      | none => respond c .requestArchive .wrongState [] s
      | some (slot, t) => respond c .requestArchive .ok (archiveFields t) (assignArchive e slot s)) s)

/-- A transfer is confirmed (R105, R49). -/
def confirmArchive (e : StationId) (slot : Nat) (s : State) : State :=
  let s := detach e (s.updStation e fun x => { x with timer := none })
  let s := makeIdle e (s.updTake slot fun t => { t with archiver := none, archive := some .archived })
  retainIfDone slot (s.countHandOff fun k => { k with takesArchived := k.takesArchived + 1 })

/-- ARCHIVED (R105): WRONG_STATE until the transfer has delivered the take's last cell. -/
def execArchived (c : Ctl) (s : State) : Host.Outcome State Fault Refusal :=
  .next (stationCommand c .archived (fun e s =>
    withStationTake c .archived .archiving e (fun slot s =>
      if (s.context e).position.getD 0 < s.cellsOf slot then respond c .archived .wrongState [] s
      else respond c .archived .ok (bytesOf 2 (s.numberOf slot)) (confirmArchive e slot s)) s) s)

/-- A transfer that its station gives up (R107). -/
def failArchive (e : StationId) (s : State) : State :=
  (giveBackTransfer e s).countHandOff fun k => { k with archiveFailures := k.archiveFailures + 1 }

/-- ARCHIVE_FAILED (R107). -/
def execArchiveFailed (c : Ctl) (s : State) : Host.Outcome State Fault Refusal :=
  .next (stationCommand c .archiveFailed (fun e s =>
    withStationTake c .archiveFailed .archiving e (fun _ s => respond c .archiveFailed .ok [] (failArchive e s)) s) s)

/-- Credits added to a BULK context, and the stall timer restarted (R149, R106). -/
def addCredits (e : StationId) (n : Nat) (s : State) : State :=
  let s := s.updContext e fun x => { x with credits := satAdd Config.maxCredits x.credits n }
  s.updStation e fun x => { x with timer := some ⟨.stall, ticksOfS s.timeouts.stall⟩ }

/-- What CREDIT answers (R149); the widths of credits, cell count, markers sent and marker count are log 12. -/
def creditFields (s : State) (e : StationId) (slot : Nat) : List Byte :=
  bytesOf 2 (s.context e).credits ++ positionBytes (s.context e).position ++ bytesOf 3 (s.cellsOf slot) ++
    bytesOf 2 (s.context e).markersSent ++ bytesOf 2 (((s.take? slot).map fun t => t.markers.length).getD 0)

/-- CREDIT (R149). -/
def execCredit (c : Ctl) (count : Word) (s : State) : Host.Outcome State Fault Refusal :=
  .next (plainStationCommand c .credit (fun e s =>
    withStationTake c .credit .archiving e (fun slot s =>
      let s := addCredits e count.toNat s
      respond c .credit .ok (creditFields s e slot) s) s) s)

/-! ## HELLO -/

/-- What HELLO ends, by the station's state (R87). -/
def endUnderWay (e : StationId) (s : State) : State :=
  match (s.station e).state with
  | .offline => s
  | .idle => s
  | .waiting => s.updWait fun q => q.filter (· != e)
  | .offered => giveBack e countDeclined s
  | .holding => giveBack e countReturned s
  | .listening => s
  | .archiving => failArchive e s

/-- The station's state after HELLO; PRESENT is 0, LEAVING is 1 (R87). -/
def presenceState (leaving : Bool) : StationState := if leaving then .offline else .idle

/-- An accepted HELLO (R87). -/
def sayHello (e : StationId) (leaving : Bool) (s : State) : State :=
  (detach e (endUnderWay e s)).updStation e fun x => { x with state := presenceState leaving }

/-- What HELLO answers: class, clearance, pool set, and the state before (R87). -/
def helloFields (x : Station) : List Byte :=
  bytesOf 1 x.config.cls.code ++ flagByte x.config.clearance ++ [x.config.pools.setWidth 8] ++ bytesOf 1 x.state.code

/-- HELLO (R87), in CONFIG and in RUN; from a sender of another class NOT_PERMITTED (R183). -/
def execHello (c : Ctl) (presence : Byte) (s : State) : Host.Outcome State Fault Refusal :=
  .next (control c .hello (fun who s =>
    match who with
    | .station e =>
      match boolOfCode presence, zeroOverride c with
      | some leaving, false => respond c .hello .ok (helloFields (s.station e)) (sayHello e leaving s)
      | _, _ => respond c .hello .badParameter [] s
    | _ => respond c .hello .notPermitted [] s) s)

/-! ## Expiries -/

/-- A station's timer of a kind has counted its last tick (R159, log 5). -/
def Station.due (x : Station) (k : TimerKind) : Bool := x.timer == some ⟨k, 0⟩

/-- What an offer expiry adds to a give-back (R97). -/
def offerLapses (e : StationId) (number : Nat) (s : State) : State :=
  (reportAlert .offerExpired (withdrawnNotice e number .offerExpired (addMiss e s))).countHandOff
    fun k => { k with offersExpired := k.offersExpired + 1 }

/-- What a lease expiry adds to a give-back (R102). -/
def leaseLapses (e : StationId) (number : Nat) (s : State) : State :=
  (reportAlert .leaseExpired (withdrawnNotice e number .leaseExpired (addMiss e s))).countHandOff
    fun k => { k with leasesExpired := k.leasesExpired + 1 }

/-- OFFER_EXPIRY (R97), with no effect while the offer timer is not due (log 5). -/
def execOfferExpiry (entry : StationId) (s : State) : Host.Outcome State Fault Refusal :=
  .next (whenOn s fun s =>
    if (s.station entry).state = .offered ∧ (s.station entry).due .offer then giveBack entry (offerLapses entry) s else s)

/-- LEASE_EXPIRY (R102), with no effect while the lease timer is not due (log 5). -/
def execLeaseExpiry (entry : StationId) (s : State) : Host.Outcome State Fault Refusal :=
  .next (whenOn s fun s =>
    if (s.station entry).state = .holding ∧ (s.station entry).due .lease then giveBack entry (leaseLapses entry) s else s)

/-- A stall (R108). -/
def stallTransfer (e : StationId) (s : State) : State :=
  let number := s.numberOf ((s.station e).take.getD 0)
  (reportAlert .archiveStall (withdrawnNotice e number .stall (addMiss e (giveBackTransfer e s)))).countHandOff
    fun k => { k with archiveStalls := k.archiveStalls + 1 }

/-- STALL_EXPIRY (R108), with no effect while the stall timer is not due (log 5). -/
def execStallExpiry (entry : StationId) (s : State) : Host.Outcome State Fault Refusal :=
  .next (whenOn s fun s =>
    if (s.station entry).state = .archiving ∧ (s.station entry).due .stall then stallTransfer entry s else s)

end Sys2Proof.Machine
end

