-- ==== Sys2Proof/Machine/StationPlay.lean ====
section
/-! DEFINITION. The station commands on playback contexts and takes: CUE, SAVE, PLAY, PAUSE, STOP, READ_POSITION, SET_NOTICE, SET_MIX, LISTEN
and ADD_NOTE (R78, R79, R112 to R128, R138 to R147). -/

namespace Sys2Proof.Machine

/-! ## CUE and SAVE -/

/-- A station's default take (R113): a TYPIST's held take, a READBACK's attached take. -/
def State.defaultTake (s : State) (e : StationId) : Option Nat :=
  match (s.station e).config.cls with
  | .typist => if (s.station e).state = .holding then (s.station e).take else none
  | .readback => (s.context e).take
  | .archive => none

/-- The take a CUE selects: its override's, else the station's default take (R113). -/
def State.selectTake (s : State) (e : StationId) (ovr : Option Word) : Except Result (Nat × Take) :=
  match ovr with
  | some n =>
    match s.findTake n.toNat with
    | some x => .ok x
    | none => .error .noSuchTake
  | none =>
    match s.defaultTake e with
    | some slot =>
      match s.take? slot with
      | some t => .ok (slot, t)
      | none => .error .noTake
    | none => .error .noTake

/-- The state after a CUE, by the state before (R124). -/
def stateAfterCue (before : ContextState) (t : Take) (z : Resolution) : ContextState :=
  match before with
  | .playing => playState t z
  | .heldLive => playState t z
  | .heldSealed => playState t z
  | .paused => .paused
  | .stopped => .paused
  | .bulk => .paused

/-- An accepted CUE: the attachment, if the take is another, then the result (R114, R124). -/
def carryOutCue (e : StationId) (slot : Nat) (t : Take) (z : Resolution) (s : State) : State :=
  if (s.context e).take = some slot then
    let after := stateAfterCue (s.context e).state t z
    (writeResolution e slot z s).updContext e fun x => { x with state := after }
  else writeResolution e slot z (attach e slot (s.attachMix e) s)

/-- What CUE, PLAY and LISTEN answer: take number, position, cell count, last cue flags, state (R124, R139, R147); that the cell count takes
3 bytes is log 12. -/
def playFields (s : State) (e : StationId) (t : Take) : List Byte :=
  let x := s.context e
  bytesOf 2 t.number ++ positionBytes x.position ++ bytesOf 3 t.cells ++ cueFlagsByte x.flags ++ bytesOf 1 x.state.code

/-- CUE (R112 to R124). -/
def execCue (c : Ctl) (f : CueFields) (s : State) : Host.Outcome State Fault Refusal :=
  .next (stationCommand c .cue (fun e s =>
    match cueRequest f c.ovr with
    | none => respond c .cue .badParameter [] s
    | some q =>
      match s.selectTake e c.ovr with
      | .error r => respond c .cue r [] s
      | .ok (slot, t) =>
        match cueBase t (s.context e) ((s.context e).take == some slot) q with
        | none => respond c .cue .badParameter [] s
        | some base =>
          let z := resolveCue t (s.station e).config.clearance s.link.period base q
          let s := carryOutCue e slot t z s
          respond c .cue .ok (playFields s e t) s) s)

/-- A command on the take to which the station's context is attached; a STOPPED context is refused NO_TAKE. -/
def withAttachedTake (c : Ctl) (cmd : CommandName) (e : StationId) (k : Nat → Take → State → State) (s : State) : State :=
  match (s.context e).take with
  | some slot =>
    match s.take? slot with
    | some t => k slot t s
    | none => respond c cmd .noTake [] s
  | none => respond c cmd .noTake [] s

/-- SAVE (R126). -/
def execSave (c : Ctl) (s : State) : Host.Outcome State Fault Refusal :=
  .next (plainStationCommand c .save (fun e s =>
    withAttachedTake c .save e (fun _ t s =>
      let s := s.updContext e fun x => { x with saved := x.position }
      respond c .save .ok (bytesOf 2 t.number ++ positionBytes (s.context e).saved) s) s) s)

/-! ## PLAY, PAUSE, STOP, READ_POSITION -/

/-- The step back of PLAY from PAUSED (R127). -/
def stepBack (s : State) (e : StationId) (t : Take) : Resolution :=
  resolveFrom t (s.station e).config.clearance .backward s.link.period ((s.context e).position.getD 0)
    (-((s.station e).config.backstep : Int)) false

/-- PLAY by the context's state: from PAUSED the step back is taken, from the playing states nothing changes (R139). -/
def startPlaying (e : StationId) (slot : Nat) (t : Take) (s : State) : State :=
  if (s.context e).state = .paused then
    let z := stepBack s e t
    (writeResolution e slot z s).updContext e fun x => { x with state := playState t z }
  else s

/-- PLAY (R139). -/
def execPlay (c : Ctl) (s : State) : Host.Outcome State Fault Refusal :=
  .next (plainStationCommand c .play (fun e s =>
    withAttachedTake c .play e (fun slot t s =>
      let s := startPlaying e slot t s
      respond c .play .ok (playFields s e t) s) s) s)

/-- PAUSE (R140). -/
def execPause (c : Ctl) (s : State) : Host.Outcome State Fault Refusal :=
  .next (plainStationCommand c .pause (fun e s =>
    withAttachedTake c .pause e (fun _ t s =>
      let s := s.updContext e fun x => { x with state := .paused }
      respond c .pause .ok (bytesOf 2 t.number ++ positionBytes (s.context e).position ++ bytesOf 1 (s.context e).state.code) s) s) s)

/-- STOP (R141): an ARCHIVE station in a transfer is refused WRONG_STATE. -/
def execStop (c : Ctl) (s : State) : Host.Outcome State Fault Refusal :=
  .next (plainStationCommand c .stop (fun e s =>
    if (s.context e).state = .bulk then respond c .stop .wrongState [] s
    else respond c .stop .ok [] (detach e s)) s)

/-- A context as READ_POSITION sends it (R142, 11.5); while STOPPED the take's items are absent (log 45). -/
def contextRecord (s : State) (e : StationId) : List Byte :=
  let x := s.context e
  let t := x.take.bind s.take?
  bytesOf 1 x.state.code ++ takeNumberBytes (t.map Take.number) ++ positionBytes (t.map Take.cells) ++
    enumBytes (t.map fun t => t.lifecycle.code) ++ positionBytes x.position ++ positionBytes x.saved ++ positionBytes x.notice ++
    cueFlagsByte x.flags ++ x.mix.bytes ++ flagByte x.follow ++ takeNumberBytes x.link ++ bytesOf 2 x.credits ++
    bytesOf 2 x.markersSent

/-- READ_POSITION (R142). -/
def execReadPosition (c : Ctl) (s : State) : Host.Outcome State Fault Refusal :=
  .next (stationCommand c .readPosition (fun e s => respond c .readPosition .ok (contextRecord s e) s) s)

/-! ## SET_NOTICE and SET_MIX -/

/-- The notice point that SET_NOTICE stores: CLEAR is the absent position's code (R143, 11.3). -/
def noticeOf (point : BitVec 24) : Option Nat := if point.toNat = 16777215 then none else some (min maxCells point.toNat)

/-- SET_NOTICE (R143). -/
def execSetNotice (c : Ctl) (point : BitVec 24) (s : State) : Host.Outcome State Fault Refusal :=
  .next (plainStationCommand c .setNotice (fun e s =>
    withAttachedTake c .setNotice e (fun _ _ s =>
      respond c .setNotice .ok (positionBytes (noticeOf point)) (s.updContext e fun x => { x with notice := noticeOf point })) s) s)

/-- The mix that SET_MIX stores: gains clamped to 16, mask bits past track 6 dropped (R138, log 17). -/
def mixOfFields (mode : MixMode) (f : MixFields) : Mix :=
  { mode := mode, mask := f.mask.setWidth 6, gains := Vector.ofFn fun k => min 16 f.gains[k].toNat }

/-- SET_MIX (R138). -/
def execSetMix (c : Ctl) (f : MixFields) (s : State) : Host.Outcome State Fault Refusal :=
  .next (plainStationCommand c .setMix (fun e s =>
    match mixModeOfCode f.mode with
    | none => respond c .setMix .badParameter [] s
    | some mode =>
      withAttachedTake c .setMix e (fun _ _ s =>
        respond c .setMix .ok (mixOfFields mode f).bytes (s.updContext e fun x => { x with mix := mixOfFields mode f })) s) s)

/-! ## LISTEN -/

/-- The start position of LISTEN in a room's open take (R128). -/
def listenFrom (s : State) (e : StationId) (t : Take) : Resolution :=
  resolveFrom t (s.station e).config.clearance .backward s.link.period t.cells (-((s.station e).config.listenDelay : Int)) false

/-- The context at a room's open take: attached, or with its saved position and notice point cleared (R147). -/
def attachListener (e : StationId) (slot : Nat) (s : State) : State :=
  if (s.context e).take = some slot then s.updContext e fun x => { x with saved := none, notice := none }
  else attach e slot (s.attachMix e) s

/-- An accepted LISTEN (R147). -/
def startListening (e : StationId) (slot : Nat) (t : Take) (s : State) : State :=
  let z := listenFrom s e t
  let s := (writeResolution e slot z (attachListener e slot s)).updContext e fun x =>
    { x with state := playState t z, follow := true, link := none }
  s.updStation e fun x => { x with state := .listening }

/-- LISTEN (R147). -/
def execListen (c : Ctl) (room : Byte) (s : State) : Host.Outcome State Fault Refusal :=
  .next (plainStationCommand c .listen (fun e s =>
    match roomOfByte room with
    | none => respond c .listen .badParameter [] s
    | some r =>
      match (s.room r).openTake.bind fun slot => (s.take? slot).map fun t => (slot, t) with
      | none => respond c .listen .wrongState [] s
      | some (slot, t) =>
        let s := startListening e slot t s
        respond c .listen .ok (playFields s e t) s) s)

/-! ## ADD_NOTE -/

/-- Where a NOTE goes: the given position, or the context's where none is given; none where neither serves (R78). -/
def notePosition (s : State) (e : StationId) (slot : Nat) (t : Take) (given : BitVec 24) : Option Nat :=
  if given.toNat = 16777215 then (if (s.context e).take = some slot then (s.context e).position else none)
  else if given.toNat ≤ t.cells then some given.toNat
  else none

/-- The NOTE marker of an ADD_NOTE (R79). -/
def noteMarker (s : State) (source : Byte) (code : Word) (label : List Byte) (position : Nat) : Marker :=
  { plainMarker .note position s.now source with code := code, label := label.take 12 }

/-- A NOTE placed, or lost with the answer TABLE_FULL (R79, R70, R71). -/
def addNote (c : Ctl) (code : Word) (label : List Byte) (slot position : Nat) (s : State) : State :=
  match placeMarker slot (noteMarker s c.src code label position) s with
  | (s', some n) => respond c .addNote .ok (bytesOf 2 n ++ bytesOf 3 position) s'
  | (s', none) => respond c .addNote .tableFull [] (loseAnnotation slot s')

/-- ADD_NOTE (R78, R79). -/
def execAddNote (c : Ctl) (code : Word) (label : List Byte) (position : BitVec 24) (s : State) :
    Host.Outcome State Fault Refusal :=
  .next (plainStationCommand c .addNote (fun e s =>
    match (s.defaultTake e).bind fun slot => (s.take? slot).map fun t => (slot, t) with
    | none => respond c .addNote .noTake [] s
    | some (slot, t) =>
      match notePosition s e slot t position with
      | none => respond c .addNote .badParameter [] s
      | some p => addNote c code label slot p s) s)

end Sys2Proof.Machine
end

