-- ==== Sys2Proof/Machine/Marks.lean ====
section
/-! DEFINITION. The console marks (R17 to R21, R72). -/

namespace Sys2Proof.Machine

/-- ANNOTATION_MARK (R17, R72 to R74). -/
def execAnnotationMark (kind : AnnotationKind) (m : Mark) (s : State) : Host.Outcome State Fault Refusal :=
  .next (takeMark m (fun r s =>
    match (s.room r).openTake with
    | none => s
    | some slot => placeAnnotation r slot kind m s) s)

/-- An ON_RECORD room goes off the record, its entries granted (R18). -/
def goOff (r : RoomId) (source : Byte) (s : State) : State :=
  let s := if (s.room r).sealed then placeStateMarker r .sealEnd source 0 s else s
  (placeStateMarker r .offRecordBegin source 0 s).updRoom r fun x => { x with state := .offRecord, sealed := false, offCycles := 0 }

/-- GO_OFF_RECORD (R18). -/
def execGoOffRecord (m : Mark) (s : State) : Host.Outcome State Fault Refusal :=
  .next (takeMark m (fun r s =>
    if (s.room r).state = .onRecord then withEntries r (if (s.room r).sealed then 2 else 1) (goOff r m.src) s
    else refuseMark r s) s)

/-- An OFF_RECORD room goes back on the record, its entry granted (R19). -/
def goOn (r : RoomId) (source : Byte) (s : State) : State :=
  (placeStateMarker r .offRecordEnd source (s.room r).offCycles s).updRoom r fun x => { x with state := .onRecord, offCycles := 0 }

/-- GO_ON_RECORD (R19). -/
def execGoOnRecord (m : Mark) (s : State) : Host.Outcome State Fault Refusal :=
  .next (takeMark m (fun r s =>
    if (s.room r).state = .offRecord then withEntries r 1 (goOn r m.src) s else refuseMark r s) s)

/-- A room's seal is opened or closed, its entry granted (R20). -/
def setSeal (r : RoomId) (kind : MarkerKind) (sealed : Bool) (source : Byte) (s : State) : State :=
  (placeStateMarker r kind source 0 s).updRoom r fun x => { x with sealed := sealed }

/-- SEAL (R20). -/
def execSealRecord (m : Mark) (s : State) : Host.Outcome State Fault Refusal :=
  .next (takeMark m (fun r s =>
    if (s.room r).state = .onRecord ∧ !(s.room r).sealed then withEntries r 1 (setSeal r .sealBegin true m.src) s
    else refuseMark r s) s)

/-- UNSEAL (R20). -/
def execUnsealRecord (m : Mark) (s : State) : Host.Outcome State Fault Refusal :=
  .next (takeMark m (fun r s =>
    if (s.room r).state = .onRecord ∧ (s.room r).sealed then withEntries r 1 (setSeal r .sealEnd false m.src) s
    else refuseMark r s) s)

/-- CUT_NOW (R21, R16). -/
def execCutNow (m : Mark) (s : State) : Host.Outcome State Fault Refusal :=
  .next (takeMark m (fun r s => (requestCut r .console m.src s).1) s)

end Sys2Proof.Machine
end

