-- ==== Sys2Proof/Machine/LinkEvents.lean ====
section
/-! DEFINITION. Events at the link ports (09, R199): a frame arriving, with the reading of its payload; AUDIO frames and capture syncs as taken;
the transmitters; the expiries of the sync-loss timer, of a local sync interval and of the status interval. -/

namespace Sys2Proof.Machine

/-! ## Events with an effect of their own -/

/-- TRANSMIT_FRAME (R171). -/
def execTransmitFrame (port : Port) (s : State) : Host.Outcome State Fault Refusal := .next (whenOn s (transmitNext port))

/-- AUDIO_FRAME (R7). -/
def execAudioFrame (port : Port) (src : Byte) (cycle : Word) (objects : List AudioObject) (s : State) :
    Host.Outcome State Fault Refusal :=
  .next (whenOn s fun s => takeAudio src cycle objects (takenFrom port src s))

/-- CAPTURE_SYNC (R172, R173); taken in LOCAL it is the return of R176 (log 36). -/
def execCaptureSync (f : SyncFrame) (order : SyncOrder) (s : State) : Host.Outcome State Fault Refusal :=
  .next (whenOn s (takeCaptureSync f order))

/-- SYNC_RETURN (R176); taken in REPEATING it is an ordinary capture sync (log 36). -/
def execSyncReturn (f : SyncFrame) (order : SyncOrder) (s : State) : Host.Outcome State Fault Refusal :=
  .next (whenOn s (takeCaptureSync f order))

/-- SYNC_LOSS_EXPIRY (R174), with no effect while the sync-loss timer is not due (log 5). -/
def execSyncLossExpiry (s : State) : Host.Outcome State Fault Refusal :=
  .next (whenOn s fun s => if s.link.source = .repeating ∧ s.link.lossTimer = some 0 then loseSync s else s)

/-- LOCAL_SYNC (R175), at the end of a local sync interval; with no effect in REPEATING (log 6). -/
def execLocalSync (s : State) : Host.Outcome State Fault Refusal :=
  .next (whenOn s fun s => if s.link.source = .localSource then makeLocalSync s else s)

/-- The status interval has run out: a TIME count with no tick left, or a CYCLES count at its period (R196, logs 5 and 43). -/
def State.statusDue (s : State) : Bool :=
  match s.mgmt.statusCount with
  | some (.ticks n) => n == 0
  | some (.cycles n) => s.timeouts.statusPeriod ≤ n
  | none => false

/-- STATUS_FRAME (R196). -/
def execStatusFrame (s : State) : Host.Outcome State Fault Refusal :=
  .next (whenOn s fun s => if s.statusDue then statusNow s else s)

/-! ## Reading payloads (11.3, R199) -/

/-- 16-bit samples from their bytes. -/
def wordsOf : List Byte → List Word
  | a :: b :: rest => BitVec.ofNat 16 (natOf [a, b]) :: wordsOf rest
  | _ => []

/-- The channel objects of an AUDIO payload, as many as its count byte says (log 30). -/
def audioObjects : Nat → List Byte → List AudioObject
  | 0, _ => []
  | k + 1, channel :: n :: rest =>
    if rest.length < 2 * n.toNat then List.replicate (k + 1) .cutShort
    else .whole channel (wordsOf (rest.take (2 * n.toNat))) :: audioObjects k (rest.drop (2 * n.toNat))
  | k + 1, _ => List.replicate (k + 1) .cutShort

/-- The word at a place of a payload. -/
def wordAt (bs : List Byte) (i : Nat) : Word := BitVec.ofNat 16 (fieldAt bs i 2)

/-- A MARK payload's fields; a label that runs past the payload keeps the characters that arrived (R199). -/
def markOfPayload (port : Port) (src : Byte) (bs : List Byte) : Mark :=
  { port := port, src := src, cycle := wordAt bs 1, code := wordAt bs 3,
    label := (bs.drop 6).take (byteAt bs 5).toNat }

/-- A SYNC payload's fields, with all that its repetition keeps (R172). -/
def syncOfFrame (f : Parsed) : SyncFrame :=
  { dst := f.dst, src := f.src, cycle := wordAt f.payload 0, rest := f.payload.drop 2, crc := f.crc }

/-- SET_CLOCK's fields. -/
def clockFieldsAt (bs : List Byte) : ClockFields :=
  { year := byteAt bs 0, month := byteAt bs 1, day := byteAt bs 2, hour := byteAt bs 3, minute := byteAt bs 4,
    second := byteAt bs 5, dow := byteAt bs 6 }

/-- CUE's fields. -/
def cueFieldsAt (bs : List Byte) : CueFields :=
  { base := byteAt bs 0, marker := wordAt bs 1, skip := byteAt bs 3, filter := byteAt bs 4, displacement := wordAt bs 5 }

/-- SET_MIX's fields. -/
def mixFieldsAt (bs : List Byte) : MixFields :=
  { mode := byteAt bs 0, mask := byteAt bs 1, gains := Vector.ofFn fun k => byteAt bs (2 + k.val) }

/-- A label field's characters (11.2); a length above 12 is cut to 12 (R199). -/
def labelAt (bs : List Byte) (i : Nat) : List Byte := (bs.drop (i + 1)).take (min 12 (byteAt bs i).toNat)

/-- What every CONTROL frame carries: its override trailer stands after the command's fields (11.3, R199). -/
def ctlOf (port : Port) (src : Byte) (cmd : CommandName) (payload : List Byte) : Ctl :=
  let trailer := match cmd with
    | .writeEntry => none
    | _ => trailerOf (payload.drop (4 + cmd.fieldBytes))
  { port := port, src := src, tag := wordAt payload 2, ovr := trailer }

/-- A whole command handed to its owning block (R183); `bs` are its fields. -/
def handCommand (cmd : CommandName) (c : Ctl) (bs : List Byte) (s : State) : Host.Outcome State Fault Refusal :=
  match cmd with
  | .run => execRun c s
  | .halt => execHalt c s
  | .sessionReset => execSessionReset c s
  | .setCursor => execSetCursor c (byteAt bs 0) (wordAt bs 1) s
  | .writeEntry => execWriteEntry c bs s
  | .readEntry => execReadEntry c s
  | .setResponseMode => execSetResponseMode c (byteAt bs 0) (byteAt bs 1) s
  | .readAlerts => execReadAlerts c s
  | .readCounters => execReadCounters c s
  | .clearCounters => execClearCounters c s
  | .openRoom => execOpenRoom c (byteAt bs 0) s
  | .closeRoom => execCloseRoom c (byteAt bs 0) s
  | .cutTake => execCutTake c (byteAt bs 0) s
  | .readTake => execReadTake c (wordAt bs 0) s
  | .readQueue => execReadQueue c (byteAt bs 0) (wordAt bs 1) s
  | .moveTake => execMoveTake c (wordAt bs 0) (byteAt bs 2) s
  | .readMarker => execReadMarker c (wordAt bs 0) (byteAt bs 2) (wordAt bs 3) s
  | .releaseTake => execReleaseTake c (wordAt bs 0) s
  | .clearStore => execClearStore c s
  | .setClock => execSetClock c (clockFieldsAt bs) s
  | .readClock => execReadClock c s
  | .hello => execHello c (byteAt bs 0) s
  | .readPosition => execReadPosition c s
  | .stop => execStop c s
  | .requestWork => execRequestWork c s
  | .accept => execAccept c s
  | .decline => execDecline c s
  | .keep => execKeep c s
  | .complete => execComplete c s
  | .returnTake => execReturnTake c s
  | .cue => execCue c (cueFieldsAt bs) s
  | .save => execSave c s
  | .play => execPlay c s
  | .pause => execPause c s
  | .setNotice => execSetNotice c (BitVec.ofNat 24 (fieldAt bs 0 3)) s
  | .setMix => execSetMix c (mixFieldsAt bs) s
  | .addNote => execAddNote c (wordAt bs 0) (labelAt bs 2) (BitVec.ofNat 24 (fieldAt bs 15 3)) s
  | .listen => execListen c (byteAt bs 0) s
  | .requestArchive => execRequestArchive c s
  | .archived => execArchived c s
  | .archiveFailed => execArchiveFailed c s
  | .credit => execCredit c (wordAt bs 0) s

/-- A CONTROL frame taken (R183, R199): a command with all its fields is handed on, anything else answered at once. -/
def takeControl (port : Port) (src : Byte) (payload : List Byte) (s : State) : Host.Outcome State Fault Refusal :=
  match controlFault payload, commandOfCode (controlHeader payload).1 with
  | none, some cmd => handCommand cmd (ctlOf port src cmd payload) (payload.drop 4) s
  | _, _ => execUnknownCommand port src payload s

/-- A MARK frame taken, by its kind byte (R17, 11.3). -/
def takeMarkFrame (kind : Byte) (m : Mark) (s : State) : Host.Outcome State Fault Refusal :=
  match kind.toNat with
  | 1 => execAnnotationMark .speaker m s
  | 2 => execAnnotationMark .exhibit m s
  | 3 => execAnnotationMark .objection m s
  | 4 => execAnnotationMark .readbackRequest m s
  | 16 => execGoOffRecord m s
  | 17 => execGoOnRecord m s
  | 18 => execSealRecord m s
  | 19 => execUnsealRecord m s
  | 20 => execCutNow m s
  | _ => .next (takeBadMark m.port m.src s)

/-! ## A frame arriving -/

/-- A frame too short for its kind is discarded in place of the taking (R199). -/
def countShort (s : State) : State := s.countLink fun k => { k with shortPayload := k.shortPayload + 1 }

/-- What follows the taking within the same event: a forward copy enters its queue after the frames that the taking originates (log 51). -/
def afterTaking (o : Host.Outcome State Fault Refusal) (k : State → State) : Host.Outcome State Fault Refusal :=
  match o with
  | .next s => .next (k s)
  | .fault r => .fault r
  | .refused r => .refused r

/-- What R169 does with a frame. -/
inductive Handling where
  | take
  | takeAndForward
  | pass
  | untaken
  | officeSync
  deriving DecidableEq, Repr

/-- The table of R169. -/
def handling (node : Byte) (port : Port) (kind dst : Byte) : Handling :=
  if kind = kindSync then (match port with
    | .capture => .take
    | .office => .officeSync)
  else if kind = kindAudio ∨ kind = kindMark then
    (if dst = node then .take else if dst = 255 then .takeAndForward else .pass)
  else if dst = node then (if kind = kindControl then .take else .untaken)
  else .pass

/-- A frame is handed to its block (R169), or discarded as too short for its kind (R199). -/
def takeFrame (port : Port) (f : Parsed) (order : SyncOrder) (s : State) : Host.Outcome State Fault Refusal :=
  if f.kind = kindSync then
    if f.payload.length < 2 then .next (countShort s) else execCaptureSync (syncOfFrame f) order s
  else if f.kind = kindAudio then
    if f.payload.length < 3 then .next (countShort s)
    else execAudioFrame port f.src (wordAt f.payload 0) (audioObjects (byteAt f.payload 2).toNat (f.payload.drop 3)) s
  else if f.kind = kindMark then
    if f.payload.length < 5 then .next (countShort s)
    else takeMarkFrame (byteAt f.payload 0) (markOfPayload port f.src f.payload) s
  else takeControl port f.src f.payload s

/-- A sound frame with good addresses, by R169; `bytes` is the frame as it arrived. -/
def handleFrame (port : Port) (f : Parsed) (bytes : Frame) (order : SyncOrder) (s : State) : Host.Outcome State Fault Refusal :=
  match handling s.link.node port f.kind f.dst with
  | .take => takeFrame port f order s
  | .takeAndForward => afterTaking (takeFrame port f order s) (forward port bytes)
  | .pass => .next (forward port bytes s)
  | .untaken => .next (s.countLink fun k => { k with untakenKind := k.untakenKind + 1 })
  | .officeSync => .next (s.countLink fun k => { k with officeSyncDiscards := k.officeSyncDiscards + 1 })

/-- The address checks of R168, in the order of its table: destination 0 with the device's own source is BAD_ADDRESS alone (log 50). -/
def checkAddresses (port : Port) (f : Parsed) (bytes : Frame) (order : SyncOrder) (s : State) : Host.Outcome State Fault Refusal :=
  if f.dst = 0 ∨ f.src = 0 ∨ f.src = 255 then .next (s.countLink fun k => { k with badAddress := k.badAddress + 1 })
  else if f.src = s.link.node then .next (s.countLink fun k => { k with looped := k.looped + 1 })
  else handleFrame port f bytes order s

/-- FRAME_ARRIVAL (R166 to R169, R199); `order` serves a capture sync (log 8). -/
def execFrameArrival (port : Port) (bytes : List Byte) (order : SyncOrder) (s : State) : Host.Outcome State Fault Refusal :=
  if s.power ≠ .on then .next s
  else match parseFrame bytes with
    | none => .next (s.updPort port fun q => { q with counters := { q.counters with crcErrors := q.counters.crcErrors + 1 } })
    | some f =>
      checkAddresses port f bytes order
        (s.updPort port fun q => { q with counters := { q.counters with framesReceived := q.counters.framesReceived + 1 } })

end Sys2Proof.Machine
end

