-- ==== Sys2Proof/Machine/Dispatch.lean ====
section
/-! DEFINITION. The meaning of each command: one arm per constructor of `Instr`. -/

namespace Sys2Proof.Machine

/-- The effect of a command on everything but the queue. -/
def exec (i : Instr) (s : State) : Host.Outcome State Fault Refusal :=
  match i with
  | .powerOnReset straps backupHeld => Sys2Proof.Machine.execPowerOnReset straps backupHeld s
  | .hardReset straps => Sys2Proof.Machine.execHardReset straps s
  | .tickArrival => Sys2Proof.Machine.execTickArrival s
  | .frameArrival port bytes order => Sys2Proof.Machine.execFrameArrival port bytes order s
  | .transmitFrame port => Sys2Proof.Machine.execTransmitFrame port s
  | .audioFrame port src cycle objects => Sys2Proof.Machine.execAudioFrame port src cycle objects s
  | .captureSync f order => Sys2Proof.Machine.execCaptureSync f order s
  | .syncReturn f order => Sys2Proof.Machine.execSyncReturn f order s
  | .syncLossExpiry => Sys2Proof.Machine.execSyncLossExpiry s
  | .localSync => Sys2Proof.Machine.execLocalSync s
  | .statusFrame => Sys2Proof.Machine.execStatusFrame s
  | .offerExpiry entry => Sys2Proof.Machine.execOfferExpiry entry s
  | .leaseExpiry entry => Sys2Proof.Machine.execLeaseExpiry entry s
  | .stallExpiry entry => Sys2Proof.Machine.execStallExpiry entry s
  | .annotationMark kind m => Sys2Proof.Machine.execAnnotationMark kind m s
  | .goOffRecord m => Sys2Proof.Machine.execGoOffRecord m s
  | .goOnRecord m => Sys2Proof.Machine.execGoOnRecord m s
  | .sealRecord m => Sys2Proof.Machine.execSealRecord m s
  | .unsealRecord m => Sys2Proof.Machine.execUnsealRecord m s
  | .cutNow m => Sys2Proof.Machine.execCutNow m s
  | .unknownCommand port src payload => Sys2Proof.Machine.execUnknownCommand port src payload s
  | .run c => Sys2Proof.Machine.execRun c s
  | .halt c => Sys2Proof.Machine.execHalt c s
  | .sessionReset c => Sys2Proof.Machine.execSessionReset c s
  | .setCursor c table index => Sys2Proof.Machine.execSetCursor c table index s
  | .writeEntry c body => Sys2Proof.Machine.execWriteEntry c body s
  | .readEntry c => Sys2Proof.Machine.execReadEntry c s
  | .setResponseMode c port mode => Sys2Proof.Machine.execSetResponseMode c port mode s
  | .readAlerts c => Sys2Proof.Machine.execReadAlerts c s
  | .readCounters c => Sys2Proof.Machine.execReadCounters c s
  | .clearCounters c => Sys2Proof.Machine.execClearCounters c s
  | .openRoom c room => Sys2Proof.Machine.execOpenRoom c room s
  | .closeRoom c room => Sys2Proof.Machine.execCloseRoom c room s
  | .cutTake c room => Sys2Proof.Machine.execCutTake c room s
  | .readTake c number => Sys2Proof.Machine.execReadTake c number s
  | .readQueue c queue start => Sys2Proof.Machine.execReadQueue c queue start s
  | .moveTake c number pool => Sys2Proof.Machine.execMoveTake c number pool s
  | .readMarker c number selector value => Sys2Proof.Machine.execReadMarker c number selector value s
  | .releaseTake c number => Sys2Proof.Machine.execReleaseTake c number s
  | .clearStore c => Sys2Proof.Machine.execClearStore c s
  | .setClock c f => Sys2Proof.Machine.execSetClock c f s
  | .readClock c => Sys2Proof.Machine.execReadClock c s
  | .hello c presence => Sys2Proof.Machine.execHello c presence s
  | .readPosition c => Sys2Proof.Machine.execReadPosition c s
  | .stop c => Sys2Proof.Machine.execStop c s
  | .requestWork c => Sys2Proof.Machine.execRequestWork c s
  | .accept c => Sys2Proof.Machine.execAccept c s
  | .decline c => Sys2Proof.Machine.execDecline c s
  | .keep c => Sys2Proof.Machine.execKeep c s
  | .complete c => Sys2Proof.Machine.execComplete c s
  | .returnTake c => Sys2Proof.Machine.execReturnTake c s
  | .cue c f => Sys2Proof.Machine.execCue c f s
  | .save c => Sys2Proof.Machine.execSave c s
  | .play c => Sys2Proof.Machine.execPlay c s
  | .pause c => Sys2Proof.Machine.execPause c s
  | .setNotice c point => Sys2Proof.Machine.execSetNotice c point s
  | .setMix c f => Sys2Proof.Machine.execSetMix c f s
  | .addNote c code label position => Sys2Proof.Machine.execAddNote c code label position s
  | .listen c room => Sys2Proof.Machine.execListen c room s
  | .requestArchive c => Sys2Proof.Machine.execRequestArchive c s
  | .archived c => Sys2Proof.Machine.execArchived c s
  | .archiveFailed c => Sys2Proof.Machine.execArchiveFailed c s
  | .credit c count => Sys2Proof.Machine.execCredit c count s
  | .mainPowerLoss vbakHolds => Sys2Proof.Machine.execMainPowerLoss vbakHolds s

end Sys2Proof.Machine
end

