-- ==== Sys2Proof/Safety.lean ====
section
/-! DEFINITION. What claims are stated in: when a command reaches its own effect, the state it then acts on, and the invariants that hold of a
sound state, block by block. -/

namespace Sys2Proof.Machine

/-! ## When a command reaches its own effect -/

/-- A command from a manager, with no override trailer of 0, while main power is present (R182, R183, R199; log 14). -/
abbrev FromManager (c : Ctl) (s : State) : Prop := s.power = .on ∧ s.sender c.src = .manager ∧ c.ovr ≠ some 0

/-- A station command that passes the checks of R88, with no override trailer of 0 (log 14). -/
abbrev FromStation (c : Ctl) (cmd : CommandName) (e : StationId) (s : State) : Prop :=
  s.power = .on ∧ s.sender c.src = .station e ∧ s.mgmt.op = .run ∧ cmd.permits (s.station e).config.cls = true ∧
    (s.station e).state ≠ .offline ∧ c.ovr ≠ some 0

/-- A station command that passes the checks of R88 and carries no override. -/
abbrev FromStationPlain (c : Ctl) (cmd : CommandName) (e : StationId) (s : State) : Prop :=
  FromStation c cmd e s ∧ c.ovr = none

/-- The state on which a command from a known source acts: the last port noted (R85, R184), CONTROL_TAKEN raised (R183), the lease of a HOLDING
station restarted by the commands of R99. -/
def handled (c : Ctl) (cmd : CommandName) (s : State) : State :=
  leaseEffect cmd (s.sender c.src) ((takenFrom c.port c.src s).countMgmt fun q => { q with controlTaken := q.controlTaken + 1 })

/-- The console mark's room: main power is present and `r` is the first room whose console is the mark's source (R17). -/
abbrev FromConsole (m : Mark) (r : RoomId) (s : State) : Prop := s.power = .on ∧ s.findConsole m.src = some r

/-! ## Invariants -/

/-- A calendar reading that R152 allows. -/
abbrev Calendar.legal (c : Calendar) : Prop :=
  2000 ≤ c.year ∧ c.year ≤ 2099 ∧ 1 ≤ c.month ∧ c.month ≤ 12 ∧ 1 ≤ c.day ∧ c.day ≤ monthLength c.year c.month ∧
    c.hour ≤ 23 ∧ c.minute ≤ 59 ∧ c.second ≤ 59 ∧ c.tick ≤ 1023 ∧ 1 ≤ c.dow ∧ c.dow ≤ 7

/-- `l` are the pages from a first page on, by the next fields to END, each owned by `slot` (R27). -/
def chainIs (pages : SMap Page) (slot : Nat) : Option Nat → List Nat → Prop
  | none, [] => True
  | some n, m :: l => m = n ∧ ∃ pg, mapGet n pages = some pg ∧ pg.owner = slot ∧ chainIs pages slot pg.next l
  | none, _ :: _ => False
  | some _, [] => False

/-- The fill of a page of the page table, 0 for a free page (R27). -/
def fillOf (pages : SMap Page) (n : Nat) : Nat := ((mapGet n pages).map Page.fill).getD 0

/-- `l` is the chain of the take `t` in `slot`: it runs from its first page to its last, holds every page the slot owns, and its pages are
full but for the last, together holding the take's cell count (R26, R27, R29). -/
def chainOf (pages : SMap Page) (slot : Nat) (t : Take) (l : List Nat) : Prop :=
  chainIs pages slot t.firstPage l ∧ l.Nodup ∧ t.lastPage = l.getLast? ∧
    (∀ n pg, mapGet n pages = some pg → pg.owner = slot → n ∈ l) ∧ (∀ n ∈ l.dropLast, fillOf pages n = 256) ∧
    (∀ n ∈ l, 1 ≤ fillOf pages n ∧ fillOf pages n ≤ 256) ∧ t.cells = (l.map (fillOf pages)).sum

/-- Every live take has its chain, every listed page is owned by a live take, and holds as many cells as its fill says (R27, R29, R42). -/
def ChainsKept (s : State) : Prop :=
  (∀ k t, s.take? k = some t → ∃ l, chainOf s.store.pages k t l) ∧
    ∀ n pg, s.page? n = some pg → (s.take? pg.owner).isSome = true ∧ pg.cells.length = pg.fill

/-- Every page is in exactly one of two places, the free page queue or the chain of a live take (R27), and the table is canonical. -/
def PagesKept (s : State) : Prop :=
  mapWf s.store.pages ∧ (s.store.freePages ++ mapKeys s.store.pages).Perm (List.range s.store.pageCount) ∧ ChainsKept s

/-- The marker entries placed in the lists of live takes. -/
def State.placedMarkers (s : State) : Nat := (s.takeTable.takes.map fun x => x.2.markers.length).sum

/-- Every marker entry is free or placed in the list of one live take (R66); the Take Table is canonical, its slots below 1024 (R43). -/
def MarkersKept (s : State) : Prop :=
  mapWf s.takeTable.takes ∧ (∀ k ∈ mapKeys s.takeTable.takes, k < Config.takeSlots) ∧
    s.markerPool.free + s.placedMarkers = Config.markerEntries

/-- A marker list in order of position (R68), numbered from 1 without holes (R69). -/
def Take.listed (t : Take) : Prop :=
  t.markers.Pairwise (fun a b => a.position ≤ b.position) ∧
    (t.markers.map Marker.number).Perm (List.range' 1 t.markers.length) ∧ t.nextMarker = t.markers.length + 1

/-- Every live take's marker list is in order and numbered (R68, R69). -/
def ListsOrdered (s : State) : Prop := ∀ x ∈ s.takeTable.takes, x.2.listed

/-- A port's lists within their capacities (R170, R171, R192). -/
abbrev PortState.bounded (q : PortState) : Prop :=
  q.originate.length ≤ 512 ∧ q.forward.length ≤ 32 ∧ q.held.length ≤ 16

/-- Four kinds of list hold no more than their capacities: originate lists 512, forward queues 32, held-response queues 16, history rings 64
(R23, R170, R171, R192). -/
def WithinCapacity (s : State) : Prop :=
  s.link.capturePort.bounded ∧ s.link.officePort.bounded ∧ ∀ r : RoomId, (s.room r).ring.length ≤ 64

/-- What R129 says of one context: STOPPED exactly when attached to no take; the attached take, position and located page present exactly
while it is not STOPPED. -/
abbrev Context.coherent (x : Context) : Prop :=
  (x.state = .stopped ↔ x.take = none) ∧ (x.position = none ↔ x.take = none) ∧ (x.located = none ↔ x.take = none)

/-- Every playback context is coherent (R129). -/
def ContextsCoherent (s : State) : Prop := ∀ e : StationId, (s.context e).coherent

/-- How many playback contexts are attached to the take in a slot (R130). -/
def State.readers (s : State) (k : Nat) : Nat := allStations.countP fun e => (s.context e).take == some k

/-- Every attached context names a live take, and every live take's pin count is the number of contexts attached to it (R130, R131). -/
def PinsKept (s : State) : Prop :=
  (∀ (e : StationId) (k : Nat), (s.context e).take = some k → (s.take? k).isSome = true) ∧
    ∀ (k : Nat) (t : Take), s.take? k = some t → t.pins = s.readers k

/-- A mix within R129's ranges. -/
abbrev Mix.inRange (m : Mix) : Prop := ∀ k : Fin 6, m.gains[k] ≤ 16

/-- A room configuration within R1's ranges. -/
abbrev RoomConfig.inRange (x : RoomConfig) : Prop :=
  x.console ≠ 255 ∧ 1 ≤ x.tracks ∧ x.tracks ≤ 6 ∧ x.minCells ≤ 65535 ∧ 256 ≤ x.lengthLimit ∧ x.lengthLimit ≤ 261888

/-- A station configuration within R84's ranges: an ARCHIVE station holds clearance, a TYPIST has a pool. -/
abbrev StationConfig.inRange (x : StationConfig) : Prop :=
  x.node ≠ 255 ∧ (x.cls = .archive → x.clearance = true) ∧ (x.cls = .typist → x.pools ≠ 0) ∧ x.mix.inRange ∧ x.backstep ≤ 5000 ∧
    x.listenDelay ≤ 30000

/-- An ingest map entry within R6's ranges. -/
abbrev IngestEntry.inRange (x : IngestEntry) : Prop := x.source ≠ 255 ∧ x.channel ≠ some 255 ∧ 1 ≤ x.track ∧ x.track ≤ 6

/-- A CUT_SCHEDULE entry within R160's ranges. -/
abbrev ScheduleEntry.inRange (x : ScheduleEntry) : Prop :=
  x.hour.getD 0 ≤ 23 ∧ x.minute.getD 0 ≤ 59 ∧ x.second ≤ 59

/-- The TIMEOUTS entry within the ranges of R89, R174 and R195. -/
abbrev Timeouts.inRange (x : Timeouts) : Prop :=
  1 ≤ x.accept ∧ x.accept ≤ 255 ∧ 1 ≤ x.lease ∧ x.lease ≤ 255 ∧ 1 ≤ x.stall ∧ x.stall ≤ 255 ∧ 8 ≤ x.syncLoss ∧ x.syncLoss ≤ 250 ∧
    1 ≤ x.statusPeriod ∧ x.statusPeriod ≤ 65535

/-- Every configuration table holds values within its ranges (R1, R6, R32, R84, R89, R160, R174, R184, R195). -/
def TablesInRange (s : State) : Prop :=
  (∀ r : RoomId, (s.room r).config.inRange) ∧ (∀ e : StationId, (s.station e).config.inRange) ∧
    (∀ i : Fin 64, (s.ingestMap[i]).inRange) ∧ (∀ i : Fin 8, (s.schedule[i]).inRange) ∧
    (∀ i : Fin 4, (s.mgmt.managers[i]).node ≠ 255) ∧ s.timeouts.inRange ∧ s.store.pageReserve ≤ 4095

/-- A known source's CONTROL command, with its header: none for the commands that are no whole CONTROL frame. -/
def control? : Instr → Option (Ctl × CommandName)
  | .run c => some (c, .run)
  | .halt c => some (c, .halt)
  | .sessionReset c => some (c, .sessionReset)
  | .setCursor c _ _ => some (c, .setCursor)
  | .writeEntry c _ => some (c, .writeEntry)
  | .readEntry c => some (c, .readEntry)
  | .setResponseMode c _ _ => some (c, .setResponseMode)
  | .readAlerts c => some (c, .readAlerts)
  | .readCounters c => some (c, .readCounters)
  | .clearCounters c => some (c, .clearCounters)
  | .openRoom c _ => some (c, .openRoom)
  | .closeRoom c _ => some (c, .closeRoom)
  | .cutTake c _ => some (c, .cutTake)
  | .readTake c _ => some (c, .readTake)
  | .readQueue c _ _ => some (c, .readQueue)
  | .moveTake c _ _ => some (c, .moveTake)
  | .readMarker c _ _ _ => some (c, .readMarker)
  | .releaseTake c _ => some (c, .releaseTake)
  | .clearStore c => some (c, .clearStore)
  | .setClock c _ => some (c, .setClock)
  | .readClock c => some (c, .readClock)
  | .hello c _ => some (c, .hello)
  | .readPosition c => some (c, .readPosition)
  | .stop c => some (c, .stop)
  | .requestWork c => some (c, .requestWork)
  | .accept c => some (c, .accept)
  | .decline c => some (c, .decline)
  | .keep c => some (c, .keep)
  | .complete c => some (c, .complete)
  | .returnTake c => some (c, .returnTake)
  | .cue c _ => some (c, .cue)
  | .save c => some (c, .save)
  | .play c => some (c, .play)
  | .pause c => some (c, .pause)
  | .setNotice c _ => some (c, .setNotice)
  | .setMix c _ => some (c, .setMix)
  | .addNote c _ _ _ => some (c, .addNote)
  | .listen c _ => some (c, .listen)
  | .requestArchive c => some (c, .requestArchive)
  | .archived c => some (c, .archived)
  | .archiveFailed c => some (c, .archiveFailed)
  | .credit c _ => some (c, .credit)
  | _ => none

/-- The commands of R183's table that only a manager may send. -/
def CommandName.managerOnly : CommandName → Bool
  | .run | .halt | .sessionReset | .setCursor | .writeEntry | .readEntry | .setResponseMode | .readAlerts | .readCounters
  | .clearCounters | .openRoom | .closeRoom | .cutTake | .readTake | .readQueue | .moveTake | .readMarker | .releaseTake | .clearStore
  | .setClock => true
  | _ => false

/-! ## What commands leave -/

/-- The markers in the order of their placing, numbered from 1: the list of a take that has received no other. -/
def numbered (ms : List Marker) : List Marker := ms.zipIdx.map fun x => { x.1 with number := x.2 + 1 }

/-- The end marker of a closing take with at least 1 cell (R52 step 1, R53). -/
def endMarkers (rm : Room) (cells : Nat) (stamp : Stamp) (source : Byte) : List Marker :=
  if rm.sealed then [plainMarker .sealEnd cells stamp source]
  else if rm.state = .offRecord then [{ plainMarker .offRecordEnd cells stamp source with offCycles := rm.offCycles }]
  else []

/-- The markers carried to position 0 of a successor, the state marker first; `closing` is the number CONTINUED carries (R52 step 4, R53). -/
def carriedMarkers (rm : Room) (cause : CutCause) (closing : Nat) (stamp : Stamp) (source : Byte) : List Marker :=
  numbered
    ((if rm.sealed then [plainMarker .sealBegin 0 stamp source]
      else if rm.state = .offRecord then [plainMarker .offRecordBegin 0 stamp source]
      else []) ++
      if cause = .length ∨ cause = .deferred then
        [{ plainMarker .continued 0 stamp source with code := BitVec.ofNat 16 closing }]
      else [])

/-- The contexts after a cut of slot `k` with successor `k'`, numbered `n`. A take that closes gives its followers a follow link. A take that
is discarded moves its followers to the successor at position 0 and detaches the others. No other context changes (R55, R145, R146). -/
def ContextsAfterCut (r : RoomId) (k k' n : Nat) (discarded : Bool) (s u : State) : Prop :=
  ∀ e : StationId,
    ((s.context e).take ≠ some k → u.context e = s.context e) ∧
    ((s.context e).take = some k →
      (discarded = false → (s.context e).follow = true → u.context e = { s.context e with link := some n }) ∧
      (discarded = false → (s.context e).follow = false → u.context e = s.context e) ∧
      (discarded = true → (s.context e).follow = true →
        (u.context e).take = some k' ∧ (u.context e).position = some 0 ∧ (u.context e).follow = true ∧ (u.context e).link = none ∧
          (u.context e).saved = none ∧ (u.context e).notice = none ∧ (u.context e).mix = (s.context e).mix ∧
          (u.context e).state =
            if (s.context e).state = .paused then .paused
            else if (s.room r).sealed = true ∧ (s.station e).config.clearance = false then .heldSealed
            else .heldLive) ∧
      (discarded = true → (s.context e).follow = false → u.context e = stoppedContext (s.context e).mix))

/-- A closed take `t'` of slot `k` has entered the archive queue's tail as UNARCHIVED, and its pool queue's tail as PENDING; with a station waiting
that is eligible for it, it has been offered to the first such station (R56, R94, R95). -/
def EnteredQueues (k : Nat) (t t' : Take) (s u : State) : Prop :=
  t'.archive = some .unarchived ∧ u.handOff.archive = s.handOff.archive ++ [k] ∧
    (s.firstWaiting t = none → t'.transcription = some .pending ∧ u.pool t.pool = s.pool t.pool ++ [k] ∧
      u.handOff.wait = s.handOff.wait) ∧
    (∀ e : StationId, s.firstWaiting t = some e → t'.transcription = some .offered ∧ t'.holder = some (s.station e).config.node ∧
      (u.station e).state = .offered ∧ (u.station e).take = some k ∧ u.pool t.pool = (s.pool t.pool).filter (· != k) ∧
      u.handOff.wait = s.handOff.wait.filter (· != e))

/-- A cut with a successor has been made at room `r` (R16, R52): the take `t` of slot `k` is closed with the cause and its end marker, or discarded
when it held no cell (R55), and a new take is open in slot `k'` with the carried markers. The room keeps its state, seal, overrun and gap count
and restarts its off cycles. -/
def CutMade (r : RoomId) (k k' : Nat) (t : Take) (cause : CutCause) (source : Byte) (s u : State) : Prop :=
  { u.room r with ring := (s.room r).ring } =
      { s.room r with openTake := some k', offCycles := if (s.room r).state = .offRecord then 0 else (s.room r).offCycles } ∧
    (∃ t', u.take? k' = some t' ∧ t'.lifecycle = .open ∧ t'.number = s.nextTakeNumber ∧ t'.room = r ∧ t'.cells = 0 ∧
      t'.openStamp = s.now ∧ t'.pool = (s.room r).config.pool ∧ t'.tracks = (s.room r).config.tracks ∧
      t'.markers = carriedMarkers (s.room r) cause t.number s.now source ∧ t'.sealed = (s.room r).sealed) ∧
    (t.cells = 0 → u.take? k = none) ∧
    (t.cells ≠ 0 → ∃ t', u.take? k = some t' ∧ t'.lifecycle = .closed ∧ t'.endStamp = some s.now ∧ t'.cause = some cause ∧
      t'.cells = t.cells ∧ t'.number = t.number ∧ EnteredQueues k t t' s u ∧
      t'.markers = ((endMarkers (s.room r) t.cells s.now source).foldl Take.withMarker t).markers) ∧
    ContextsAfterCut r k k' s.nextTakeNumber (t.cells == 0) s u

/-- The state after a reset that finds the clock UNSET: every block at its reset values, CLOCK_UNSET latched and its notice on the way to the
bootstrap manager by the Office Port (R154, R184, R193, R198). -/
def resetUnset (straps : Straps) (clock : Calendar) (pending : List Instr) : State :=
  let s := State.afterReset straps clock pending
  { s with
    link := { s.link with
      officePort := { s.link.officePort with
        originate := [⟨0, mkFrame (strapNode straps.mgr) (strapNode straps.node) kindNotice
          (alertPayload .clockUnset (alertBit .clockUnset) clock.stamp)⟩] }
      nextSerial := 1 }
    mgmt := { s.mgmt with latches := alertBit .clockUnset, counters := { s.mgmt.counters with alertNotices := 1 } } }

/-- A take record but for its pin count, which an attachment or a detachment in the same event changes (R130). -/
def Take.unpinned (t : Take) : Take := { t with pins := 0 }

/-- A station at rest with its context detached: IDLE, no take, no timer, STOPPED (R96, R100, R105, R107, R131). -/
def AtRest (e : StationId) (s : State) : Prop :=
  (s.station e).state = .idle ∧ (s.station e).take = none ∧ (s.station e).timer = none ∧ (s.context e).take = none

/-- Every context STOPPED with its entry's default mix, no take offered, held, heard or archived, the wait list and both held-response
queues empty: what HALT and SESSION_RESET leave (R110, R129, R150, R189, R190). -/
def StationsCleared (s : State) : Prop :=
  s.handOff.wait = [] ∧ s.link.capturePort.held = [] ∧ s.link.officePort.held = [] ∧
    ∀ e : StationId, (s.context e).take = none ∧ (s.context e).state = .stopped ∧ (s.context e).mix = (s.station e).config.mix ∧
      (s.station e).state ≠ .offered ∧ (s.station e).state ≠ .holding ∧ (s.station e).state ≠ .listening ∧
      (s.station e).state ≠ .archiving

/-- Days since 2000-01-01 of a date, by the month lengths of R152. -/
def Calendar.days (c : Calendar) : Nat :=
  (c.year - 2000) * 365 + (c.year - 2000 + 3) / 4 + ((List.range' 1 (c.month - 1)).map (monthLength c.year)).sum + (c.day - 1)

/-- Ticks since 2000-01-01 00:00:00 at tick 0 (R153). -/
def Calendar.ticks (c : Calendar) : Nat := (((c.days * 24 + c.hour) * 60 + c.minute) * 60 + c.second) * 1024 + c.tick

/-- A well-formed link ready for the commands that a frame carries: the frame is for the device and passes R168. -/
abbrev ForDevice (f : Parsed) (s : State) : Prop :=
  s.power = .on ∧ f.dst = s.link.node ∧ f.dst ≠ 0 ∧ f.src ≠ 0 ∧ f.src ≠ 255 ∧ f.src ≠ s.link.node

/-- A frame counted as received at its port (R167, R179). -/
def received (p : Port) (s : State) : State :=
  s.updPort p fun q => { q with counters := { q.counters with framesReceived := q.counters.framesReceived + 1 } }

/-- The commands that a device without main power still takes (R154, log 7). -/
def worksUnpowered : Instr → Bool
  | .powerOnReset _ _ | .tickArrival | .mainPowerLoss _ => true
  | _ => false

/-- The command of a CONTROL frame that the device takes, if the frame is one and holds a whole command (R169, R183). -/
def State.carried (s : State) (bytes : Frame) : Option CommandName :=
  match parseFrame bytes with
  | some f =>
    if f.kind = kindControl ∧ f.dst = s.link.node ∧ controlFault f.payload = none then commandOfCode (controlHeader f.payload).1 else none
  | none => none

/-- The commands that can write a configuration table: WRITE_ENTRY, the two resets, and a frame that carries a WRITE_ENTRY. -/
def State.writesTables (s : State) : Instr → Bool
  | .writeEntry _ _ | .powerOnReset _ _ | .hardReset _ => true
  | .frameArrival _ bytes _ => s.carried bytes == some .writeEntry
  | _ => false

/-- The commands that can change the operating state: RUN, HALT, the two resets, and a frame that carries a RUN or a HALT (R188, R189, R198). -/
def State.changesOpState (s : State) : Instr → Bool
  | .run _ | .halt _ | .powerOnReset _ _ | .hardReset _ => true
  | .frameArrival _ bytes _ => s.carried bytes == some .run || s.carried bytes == some .halt
  | _ => false

/-- The configuration tables and the cycle period: what only a WRITE_ENTRY writes between resets (R185, R186). -/
def State.tables (s : State) :
    List RoomConfig × List StationConfig × Vector IngestEntry 64 × Vector ScheduleEntry 8 × Vector StatusItem 16 × List Byte × CyclePeriod ×
      Nat × Timeouts :=
  (s.rooms.toList.map Room.config, s.handOff.stations.toList.map Station.config, s.ingestMap, s.schedule, s.mgmt.statusItems,
    s.mgmt.managers.toList.map Manager.node, s.link.period, s.store.pageReserve, s.timeouts)

/-! ## Frames and the commands they carry -/

/-- The command of a MARK frame, by its kind byte; none for a byte that is no mark kind (R17, 11.3). -/
def markCommand? (kind : Byte) (m : Mark) : Option Instr :=
  match kind.toNat with
  | 1 => some (.annotationMark .speaker m)
  | 2 => some (.annotationMark .exhibit m)
  | 3 => some (.annotationMark .objection m)
  | 4 => some (.annotationMark .readbackRequest m)
  | 16 => some (.goOffRecord m)
  | 17 => some (.goOnRecord m)
  | 18 => some (.sealRecord m)
  | 19 => some (.unsealRecord m)
  | 20 => some (.cutNow m)
  | _ => none

/-- The command of a SYNC, AUDIO or MARK frame that is taken (R7, R17, R172, 11.3). -/
def timedCommand? (p : Port) (f : Parsed) (order : SyncOrder) : Option Instr :=
  if f.kind = kindSync then some (.captureSync (syncOfFrame f) order)
  else if f.kind = kindAudio then
    some (.audioFrame p f.src (wordAt f.payload 0) (audioObjects (byteAt f.payload 2).toNat (f.payload.drop 3)))
  else if f.kind = kindMark then markCommand? (byteAt f.payload 0) (markOfPayload p f.src f.payload)
  else none

/-- The command of a CONTROL frame whose fields are `b`, each operand at its place in the layouts of 11.3; a label is cut to 12 characters, and a
WRITE_ENTRY's entry is read by its table (R185, R199). -/
def controlCommand (cmd : CommandName) (c : Ctl) (b : List Byte) : Instr :=
  match cmd with
  | .run => .run c
  | .halt => .halt c
  | .sessionReset => .sessionReset c
  | .setCursor => .setCursor c (byteAt b 0) (BitVec.ofNat 16 (fieldAt b 1 2))
  | .writeEntry => .writeEntry c b
  | .readEntry => .readEntry c
  | .setResponseMode => .setResponseMode c (byteAt b 0) (byteAt b 1)
  | .readAlerts => .readAlerts c
  | .readCounters => .readCounters c
  | .clearCounters => .clearCounters c
  | .openRoom => .openRoom c (byteAt b 0)
  | .closeRoom => .closeRoom c (byteAt b 0)
  | .cutTake => .cutTake c (byteAt b 0)
  | .readTake => .readTake c (BitVec.ofNat 16 (fieldAt b 0 2))
  | .readQueue => .readQueue c (byteAt b 0) (BitVec.ofNat 16 (fieldAt b 1 2))
  | .moveTake => .moveTake c (BitVec.ofNat 16 (fieldAt b 0 2)) (byteAt b 2)
  | .readMarker => .readMarker c (BitVec.ofNat 16 (fieldAt b 0 2)) (byteAt b 2) (BitVec.ofNat 16 (fieldAt b 3 2))
  | .releaseTake => .releaseTake c (BitVec.ofNat 16 (fieldAt b 0 2))
  | .clearStore => .clearStore c
  | .setClock => .setClock c {
      year := byteAt b 0, month := byteAt b 1, day := byteAt b 2, hour := byteAt b 3, minute := byteAt b 4, second := byteAt b 5,
      dow := byteAt b 6 }
  | .readClock => .readClock c
  | .hello => .hello c (byteAt b 0)
  | .readPosition => .readPosition c
  | .stop => .stop c
  | .requestWork => .requestWork c
  | .accept => .accept c
  | .decline => .decline c
  | .keep => .keep c
  | .complete => .complete c
  | .returnTake => .returnTake c
  | .cue => .cue c {
      base := byteAt b 0, marker := BitVec.ofNat 16 (fieldAt b 1 2), skip := byteAt b 3, filter := byteAt b 4,
      displacement := BitVec.ofNat 16 (fieldAt b 5 2) }
  | .save => .save c
  | .play => .play c
  | .pause => .pause c
  | .setNotice => .setNotice c (BitVec.ofNat 24 (fieldAt b 0 3))
  | .setMix => .setMix c {
      mode := byteAt b 0, mask := byteAt b 1,
      gains := #v[byteAt b 2, byteAt b 3, byteAt b 4, byteAt b 5, byteAt b 6, byteAt b 7] }
  | .addNote =>
    .addNote c (BitVec.ofNat 16 (fieldAt b 0 2)) ((b.drop 3).take (min 12 (byteAt b 2).toNat)) (BitVec.ofNat 24 (fieldAt b 15 3))
  | .listen => .listen c (byteAt b 0)
  | .requestArchive => .requestArchive c
  | .archived => .archived c
  | .archiveFailed => .archiveFailed c
  | .credit => .credit c (BitVec.ofNat 16 (fieldAt b 0 2))

/-- A payload too short for its kind: a SYNC under 2 bytes, a MARK under 5, an AUDIO frame under 3 (R199). -/
def Parsed.short (f : Parsed) : Bool :=
  (f.kind == kindSync && f.payload.length < 2) || (f.kind == kindMark && f.payload.length < 5) ||
    (f.kind == kindAudio && f.payload.length < 3)

/-- What the taking of a SYNC, AUDIO or MARK frame leaves, from the state with the frame counted: SHORT_PAYLOAD raised, or the outcome of the
frame's command, or a MARK of no kind counted as R17 and R83 count it. -/
def takingOf (p : Port) (f : Parsed) (order : SyncOrder) (s : State) : Host.Outcome State Fault Refusal :=
  if f.short then .next (s.countLink fun k => { k with shortPayload := k.shortPayload + 1 })
  else match timedCommand? p f order with
    | some i => exec i s
    | none => .next
      (match s.findConsole f.src with
        | none => { takenFrom p f.src s with notConsole := s.notConsole + 1 }
        | some _ => { takenFrom p f.src s with markerPool := { s.markerPool with badMarkKind := s.markerPool.badMarkKind + 1 } })

/-! ## Held responses and notices -/

/-- The held responses of a port have joined its originate list in queue order, before the frames `later`, and the queue is empty; said where the
list did not fill up on the way (R171, R192). -/
def HeldJoined (p : Port) (later : List Frame) (s u : State) : Prop :=
  (u.port p).held = [] ∧ ((u.port p).originate.length < 512 → ∃ earlier,
    (u.port p).originate.map Queued.frame = (s.port p).originate.map Queued.frame ++ earlier ++ (s.port p).held ++ later)

/-- A WITHDRAWN notice of a take has joined the originate list of a station's last port, among the frames of the event; said where the list
did not fill up (R109, R171). -/
def WithdrawnSent (e : StationId) (t : Take) (why : Withdrawal) (s u : State) : Prop :=
  (u.port (s.station e).lastPort).originate.length < 512 → ∃ earlier later,
    (u.port (s.station e).lastPort).originate.map Queued.frame =
      (s.port (s.station e).lastPort).originate.map Queued.frame ++ earlier ++
        [mkFrame (s.station e).config.node s.link.node kindNotice (bytesOf 1 2 ++ bytesOf 2 t.number ++ bytesOf 1 why.code)] ++ later

/-! ## What playback sends -/

/-- A frame from the device to a station (R109, R135). -/
def State.frameTo (s : State) (e : StationId) (kind : Byte) (payload : List Byte) : Frame :=
  mkFrame (s.station e).config.node s.link.node kind payload

/-- The PLAYBACK frame of a cell sent to a TYPIST or READBACK station; the SEALED flag stands for a station with clearance whose cell lies in a
sealed span, no other being sent one (R133, R135). -/
def State.cellFrame (s : State) (e : StationId) (t : Take) (p : Nat) (cell : AudioCell) : Frame :=
  s.frameTo e kindPlayback (cellPayload t p ((s.station e).config.clearance && (t.spanAt p).isSome) ((s.context e).mix.mode == .mono)
    (mixGranules (s.context e).mix t cell))

/-- The NOTICE_POINT notice for a notice point `n` of a take, with the context at position `p` (R143, 11.4). -/
def State.noticePointFrame (s : State) (e : StationId) (t : Take) (n p : Nat) : Frame :=
  s.frameTo e kindNotice (bytesOf 1 3 ++ bytesOf 2 t.number ++ bytesOf 3 n ++ bytesOf 3 p)

/-- The END_OF_TAKE notice of a take at position `p` (R144, 11.4). -/
def State.endFrame (s : State) (e : StationId) (t : Take) (p : Nat) (why : EndReason) : Frame :=
  s.frameTo e kindNotice (bytesOf 1 4 ++ bytesOf 2 t.number ++ bytesOf 3 p ++ bytesOf 1 why.code)

/-- A port's originate list has gained these frames at its tail (R171). -/
def FramesAdded (q : Port) (frames : List Frame) (s u : State) : Prop :=
  (u.port q).originate.map Queued.frame = (s.port q).originate.map Queued.frame ++ frames

/-- The sum s of R137 at one sample index: each masked track's sample times its gain. -/
def mixTotal (m : Mix) (t : Take) (cell : AudioCell) (j : Nat) : Int :=
  ((List.range' 1 t.tracks).map fun i =>
    if m.mask.getLsbD (i - 1) then (((cell[i - 1]?.getD [])[j]?.getD 0 : Word)).toInt * ((m.gains[i - 1]?.getD 0 : Nat) : Int) else 0).sum

/-! ## Cycles -/

/-- A capture sync at the rooms, each in its turn by `close`, and at the office side: each context in station-table order, the status count, the
Office Port's held responses; in the order given, and then the Capture Port's held responses (R10, R132, R172, R178, R192; logs 8, 26). -/
def syncRuns (f : SyncFrame) (order : SyncOrder) (close : RoomId → State → State) (s : State) : State :=
  let rooms (s : State) : State := { forEach allRooms close s with currentCycle := some f.cycle }
  let officeSide (s : State) : State := releaseHeld .office (countStatusCycle (forEach allStations deliverContext s))
  releaseHeld .capture (match order with
    | .roomsFirst => officeSide (rooms s)
    | .playbackFirst => rooms (officeSide s))

/-- A local sync at the rooms, each losing one cycle, and then at the office side (R15, R132, R175, R178; log 26). -/
def localSyncRuns (s : State) : State :=
  releaseHeld .office (countStatusCycle (forEach allStations deliverContext (forEach allRooms (fun r => loseCycles r 1) s)))

/-- The Link Interface once a local sync numbered `n` is produced, with its frame of 11.3, the counter raised and the next interval begun (R175). -/
def localSyncMade (n : Word) (l : Link) : Link :=
  { l with
    syncs := l.syncs ++ [mkFrame 255 l.node kindSync (bytesOf 2 n.toNat ++ bytesOf 1 1 ++ bytesOf 1 l.period.code)]
    officeCycle := some n, interval := some l.period, counters := { l.counters with localSyncs := l.counters.localSyncs + 1 } }

/-- The state of a powered device once a tick arrival has been counted by the calendar and by every tick timer (R153, R159, R174, R196). -/
def ticked (s : State) : State :=
  { s with
    clock := s.clock.addTick
    handOff := { s.handOff with
      stations := s.handOff.stations.map fun x => { x with timer := x.timer.map fun y => { y with ticks := y.ticks - 1 } } }
    link := { s.link with lossTimer := s.link.lossTimer.map (· - 1) }
    mgmt := { s.mgmt with
      statusCount := s.mgmt.statusCount.map fun c =>
        match c with
        | .ticks n => .ticks (n - 1)
        | .cycles n => .cycles n } }

/-! ## Resolution -/

/-- What a CUE from an intermediate position comes to (R116 to R122): the marker skip, the displacement limited to the take, and for a station
without clearance the avoidance of the sealed span met. -/
def Resolved (t : Take) (clearance : Bool) (period : CyclePeriod) (base : Nat) (q : CueRequest) (z : Resolution) : Prop :=
  let walk : List Marker :=
    if 0 < q.skip then t.markers.filter fun m => base < m.position && filterMatches q.filter m
    else if q.skip < 0 then t.markers.reverse.filter fun m => m.position < base && filterMatches q.filter m
    else []
  let p4 : Nat := (((walk.take q.skip.natAbs).getLast?).map Marker.position).getD base
  let sum : Int := p4 + cyclesOfMs period.us q.ms
  let p6 : Nat := (max 0 (min sum t.cells)).toNat
  z.flags.short = decide (walk.length < q.skip.natAbs) ∧
    match if clearance then none else t.spanAt p6 with
    | none => z.position = p6 ∧ z.flags.clamped = decide (sum < 0 ∨ t.cells < sum) ∧ z.flags.sealedSkip = false ∧ z.hold = false
    | some x =>
      z.flags.sealedSkip = true ∧
        z.flags.clamped = decide ((sum < 0 ∨ t.cells < sum) ∨ z.position = 0 ∨ z.position = t.cells) ∧
        ((q.skip < 0 ∨ (q.skip = 0 ∧ q.ms < 0)) → z.position = x.first ∧ z.hold = x.stop.isNone) ∧
        (¬(q.skip < 0 ∨ (q.skip = 0 ∧ q.ms < 0)) →
          (x.stop = none → z.position = x.first ∧ z.hold = true) ∧
          (∀ stop, x.stop = some stop → t.spanAt stop = none → z.position = stop ∧ z.hold = false) ∧
          (z.hold = false → p6 ≤ z.position ∧ t.spanAt z.position = none) ∧
          (z.hold = true → ∃ y ∈ t.spans, y.stop = none ∧ z.position = y.first))

/-! ## Configuration -/

/-- What WRITE_ENTRY has stored of the entry `b` at a cursor, field by field in the layouts of 11.3 and 11.5, and that it left the table's other
entries alone (R1, R6, R32, R84, R89, R160, R166, R174, R184, R187, R195; logs 15, 18, 19). -/
def EntryStored (x : Cursor) (b : List Byte) (s t : State) : Prop :=
  match x.table with
  | .ingestMap => ∀ i : Fin 64,
    (x.index ≠ i.val → t.ingestMap[i] = s.ingestMap[i]) ∧
    (x.index = i.val → (t.ingestMap[i]).action.code = (byteAt b 0).toNat ∧ (t.ingestMap[i]).source = byteAt b 1 ∧
      (t.ingestMap[i]).channel = (if byteAt b 2 = 255 then none else some (byteAt b 2)) ∧
      (t.ingestMap[i]).room.val = (byteAt b 3).toNat ∧ (t.ingestMap[i]).track = (byteAt b 4).toNat)
  | .roomConfig => ∀ r : RoomId,
    (x.index ≠ r.val → t.room r = s.room r) ∧
    (x.index = r.val → (t.room r).config.console = byteAt b 0 ∧ (t.room r).config.tracks = (byteAt b 1).toNat ∧
      (t.room r).config.pool.val = (byteAt b 2).toNat ∧ (t.room r).config.minCells = fieldAt b 3 2 ∧
      (t.room r).config.lengthLimit = max 256 (min 261888 (fieldAt b 5 3)))
  | .stationTable => ∀ e : StationId,
    (x.index ≠ e.val → t.station e = s.station e) ∧
    (x.index = e.val → t.station e = freshStation (t.station e).config ∧ (t.station e).config.node = byteAt b 0 ∧
      (t.station e).config.cls.code = (byteAt b 1).toNat ∧
      (t.station e).config.pools = (if (t.station e).config.cls = .typist then (byteAt b 2).setWidth 4 else (s.station e).config.pools) ∧
      boolOfCode (byteAt b 3) = some (t.station e).config.clearance ∧ (t.station e).config.mix.mode.code = (byteAt b 4).toNat ∧
      (t.station e).config.mix.mask = (byteAt b 5).setWidth 6 ∧
      (∀ j : Fin 6, (t.station e).config.mix.gains[j] = min 16 (byteAt b (6 + j.val)).toNat) ∧
      (t.station e).config.backstep = min 5000 (fieldAt b 12 2) ∧ (t.station e).config.listenDelay = min 30000 (fieldAt b 14 2) ∧
      (t.context e).mix = (t.station e).config.mix)
  | .cutSchedule => ∀ i : Fin 8,
    (x.index ≠ i.val → t.schedule[i] = s.schedule[i]) ∧
    (x.index = i.val → (t.schedule[i]).hour = (if byteAt b 0 = 255 then none else some (byteAt b 0).toNat) ∧
      (t.schedule[i]).minute = (if byteAt b 1 = 255 then none else some (byteAt b 1).toNat) ∧
      (t.schedule[i]).second = (byteAt b 2).toNat ∧ (t.schedule[i]).mask = BitVec.ofNat 16 (fieldAt b 3 2))
  | .statusItems => ∀ i : Fin 16,
    (x.index ≠ i.val → t.mgmt.statusItems[i] = s.mgmt.statusItems[i]) ∧
    (x.index = i.val → statusItemOf (byteAt b 0) (byteAt b 1) = some t.mgmt.statusItems[i])
  | .managerList => ∀ i : Fin 4,
    (x.index ≠ i.val → t.mgmt.managers[i] = s.mgmt.managers[i]) ∧
    (x.index = i.val → t.mgmt.managers[i] = ⟨byteAt b 0, .office⟩)
  | .linkProfile => t.link.period.code = (byteAt b 0).toNat ∧ t.link.node = s.link.node
  | .storeSettings => t.store.pageReserve = min 4095 (fieldAt b 0 2)
  | .timeouts =>
    t.timeouts.accept = max 1 (min 255 (fieldAt b 0 2)) ∧ t.timeouts.lease = max 1 (min 255 (fieldAt b 2 2)) ∧
      t.timeouts.stall = max 1 (min 255 (fieldAt b 4 2)) ∧ t.timeouts.syncLoss = max 8 (min 250 (fieldAt b 6 2)) ∧
      t.timeouts.statusMode.code = (byteAt b 8).toNat ∧ t.timeouts.statusDest = byteAt b 9 ∧
      portCode t.timeouts.statusPort = (byteAt b 10).toNat ∧ t.timeouts.statusPeriod = max 1 (fieldAt b 11 2) ∧
      t.mgmt.statusCount = t.timeouts.freshCount

end Sys2Proof.Machine
end

