-- ==== Sys2Proof/Certificates/Slice0/Obligations.lean ====
section
/-! DEFINITION. The statements for the provers, each with the rule of spec/ or the log entry it rests on. -/

open Sys2Proof Sys2Proof.Machine

/-! ## The step -/

/-- The command at the front of the queue is carried out on the state with the queue's rest; with no command waiting the device idles, which is
the model's choice (log 4). -/
def Obligations.StepRunsTheFrontCommand : Prop :=
  (∀ (i : Instr) (rest : List Instr) (s : State), s.pending = i :: rest → step s = exec i { s with pending := rest }) ∧
    ∀ s : State, s.pending = [] → step s = .next s

/-- Every command answers a next state in every state, refusals by RESPONSE included, and none touches the queue of waiting commands. -/
def Obligations.EveryCommandAnswersNext : Prop := ∀ (i : Instr) (s : State), ∃ t, exec i s = .next t ∧ t.pending = s.pending

/-! ## Responses and first checks -/

/-- In IMMEDIATE a response joins the port's originate list at once; in ON_SYNC it joins the held-response queue, or, when that holds 16, the
originate list with HELD_OVERFLOWS raised. A frame that finds an originate list of 512 is discarded, and ORIGINATE_DROPS of that port rises. The
OK responses of HALT and SESSION_RESET join the originate list at once in either mode; a refusal of one follows the mode, and in ON_SYNC is held
behind those held before it (R171, R181, R191, R192; that a refusal follows the mode is log 53). -/
def Obligations.ResponsesFollowTheMode : Prop :=
  (∀ (c : Ctl) (cmd : CommandName) (r : Result) (fields : List Byte) (s : State),
    ((s.port c.port).mode = .immediate → (s.port c.port).originate.length < 512 →
      ((respond c cmd r fields s).port c.port).originate =
          (s.port c.port).originate ++ [⟨s.link.nextSerial, s.responseFrame c.src cmd.code c.tag.toNat r fields⟩] ∧
        ((respond c cmd r fields s).port c.port).held = (s.port c.port).held) ∧
    ((s.port c.port).mode = .onSync → ((cmd = .halt ∨ cmd = .sessionReset) → r ≠ .ok) → (s.port c.port).held.length < 16 →
      ((respond c cmd r fields s).port c.port).held =
          (s.port c.port).held ++ [s.responseFrame c.src cmd.code c.tag.toNat r fields] ∧
        ((respond c cmd r fields s).port c.port).originate = (s.port c.port).originate) ∧
    ((s.port c.port).mode = .onSync → ((cmd = .halt ∨ cmd = .sessionReset) → r ≠ .ok) → 16 ≤ (s.port c.port).held.length →
        (s.port c.port).originate.length < 512 →
      ((respond c cmd r fields s).port c.port).originate =
          (s.port c.port).originate ++ [⟨s.link.nextSerial, s.responseFrame c.src cmd.code c.tag.toNat r fields⟩] ∧
        ((respond c cmd r fields s).port c.port).held = (s.port c.port).held ∧
        (respond c cmd r fields s).mgmt.counters.heldOverflows = s.mgmt.counters.heldOverflows + 1) ∧
    ((cmd = .halt ∨ cmd = .sessionReset) → r = .ok → (s.port c.port).originate.length < 512 →
      ((respond c cmd r fields s).port c.port).originate =
          (s.port c.port).originate ++ [⟨s.link.nextSerial, s.responseFrame c.src cmd.code c.tag.toNat r fields⟩] ∧
        ((respond c cmd r fields s).port c.port).held = (s.port c.port).held) ∧
    ((s.port c.port).mode = .immediate → 512 ≤ (s.port c.port).originate.length →
      ((respond c cmd r fields s).port c.port).originate = (s.port c.port).originate ∧
        ((respond c cmd r fields s).port c.port).held = (s.port c.port).held ∧
        ((respond c cmd r fields s).port c.port).counters.originateDrops = (s.port c.port).counters.originateDrops + 1)) ∧
  (∀ (p : Port) (fr : Frame) (s : State), 512 ≤ (s.port p).originate.length → originate p fr s =
    s.updPort p fun q => { q with counters := { q.counters with originateDrops := q.counters.originateDrops + 1 } })

/-- What a known source's command has done before its own part: CONTROL_TAKEN raised, the last port noted, the lease of a HOLDING station
restarted in RUN by the commands of R99. Rooms, takes, markers, contexts, store, clock, tables, links and the queues (pools, archive queue, wait
list, waiting commands) are as before, and so is every station but the sender (R85, R99, R183, R184; log 24). -/
def Obligations.HandledCommandIsOnlyNoted : Prop :=
  ∀ (c : Ctl) (cmd : CommandName) (s : State),
    (handled c cmd s).mgmt.counters.controlTaken = s.mgmt.counters.controlTaken + 1 ∧
    (handled c cmd s).rooms = s.rooms ∧ (handled c cmd s).takeTable = s.takeTable ∧ (handled c cmd s).markerPool = s.markerPool ∧
    (handled c cmd s).store = s.store ∧ (handled c cmd s).playback = s.playback ∧ (handled c cmd s).clock = s.clock ∧
    (handled c cmd s).link = s.link ∧ (handled c cmd s).mgmt.op = s.mgmt.op ∧ (handled c cmd s).pending = s.pending ∧
    (handled c cmd s).handOff.pools = s.handOff.pools ∧ (handled c cmd s).handOff.archive = s.handOff.archive ∧
    (handled c cmd s).handOff.wait = s.handOff.wait ∧ (handled c cmd s).handOff.counters = s.handOff.counters ∧
    (handled c cmd s).tables = s.tables ∧ (handled c cmd s).mgmt.latches = s.mgmt.latches ∧
    (∀ e : StationId, s.sender c.src = .station e → (handled c cmd s).station e =
      { s.station e with
        lastPort := c.port
        timer :=
          if cmd.restartsLease = true ∧ s.mgmt.op = .run ∧ (s.station e).state = .holding
          then some ⟨.lease, ticksOfMin s.timeouts.lease⟩ else (s.station e).timer }) ∧
    (∀ e : StationId, s.sender c.src ≠ .station e → (handled c cmd s).station e = s.station e) ∧
    (∀ m : Fin 4, s.findManager c.src = some m → ((handled c cmd s).mgmt.managers[m]).lastPort = c.port)

/-- A command from an unknown source is refused NOT_PERMITTED and counted in UNKNOWN_SOURCE. A manager command from a station or a console is
refused NOT_PERMITTED, but for a WRITE_ENTRY too short for its entry, which is refused BAD_PARAMETER before its sender's class is checked (R182,
R183; log 15). That the class check comes before the refusal of an override of 0 is the model's choice (log 14). -/
def Obligations.SourcesAreChecked : Prop :=
  ∀ (i : Instr) (c : Ctl) (cmd : CommandName) (s : State), control? i = some (c, cmd) → s.power = .on →
    (s.sender c.src = .unknown → exec i s = .next (respond c cmd .notPermitted []
      ((takenFrom c.port c.src s).countMgmt fun q => { q with unknownSource := q.unknownSource + 1 }))) ∧
    (cmd.managerOnly = true → s.sender c.src ≠ .unknown → s.sender c.src ≠ .manager →
      (∀ body, i = .writeEntry c body → s.entryShort c.port body = false) →
      exec i s = .next (respond c cmd .notPermitted [] (handled c cmd s)))

/-- The first three checks of every station command other than HELLO and READ_CLOCK, in their order (R88). That they come before the refusal of an
override of 0 is the model's choice (log 14). -/
def Obligations.StationChecksComeInOrder : Prop :=
  ∀ (i : Instr) (c : Ctl) (cmd : CommandName) (s : State), control? i = some (c, cmd) → cmd.managerOnly = false → cmd ≠ .hello →
    cmd ≠ .readClock → s.power = .on → s.sender c.src ≠ .unknown →
    (s.mgmt.op = .config → exec i s = .next (respond c cmd .wrongState [] (handled c cmd s))) ∧
    (s.mgmt.op = .run → (∀ e, s.sender c.src = .station e → cmd.permits (s.station e).config.cls = false) →
      exec i s = .next (respond c cmd .notPermitted [] (handled c cmd s))) ∧
    (∀ e, s.mgmt.op = .run → s.sender c.src = .station e → cmd.permits (s.station e).config.cls = true →
      (s.station e).state = .offline → exec i s = .next (respond c cmd .wrongState [] (handled c cmd s)))

/-- UNKNOWN_COMMAND: a CONTROL payload that names no command, or lacks one of its fields, is answered with the result R183 and R199 give, and
nothing else changes but what every command notes; from an unknown source it is answered NOT_PERMITTED and counted in UNKNOWN_SOURCE. That the row
reaches any such payload and does nothing with one that holds a whole command is the model's reading (log 31), and so is that its answer follows
the port's mode whatever command it names (log 53). -/
def Obligations.FaultyControlIsAnswered : Prop :=
  ∀ (p : Port) (src : Byte) (payload : List Byte) (s : State), s.power = .on →
    (∀ r : Result, controlFault payload = some r → s.sender src ≠ .unknown →
      exec (.unknownCommand p src payload) s = .next
        (sendResponse p (s.responseFrame src (controlHeader payload).1 (controlHeader payload).2 r [])
          (shortLeaseEffect payload (s.sender src)
            ((takenFrom p src s).countMgmt fun q => { q with controlTaken := q.controlTaken + 1 })))) ∧
    (∀ r : Result, controlFault payload = some r → s.sender src = .unknown →
      exec (.unknownCommand p src payload) s = .next
        (sendResponse p (s.responseFrame src (controlHeader payload).1 (controlHeader payload).2 .notPermitted [])
          ((takenFrom p src s).countMgmt fun q => { q with unknownSource := q.unknownSource + 1 }))) ∧
    (controlFault payload = none → exec (.unknownCommand p src payload) s = .next s)

/-! ## Management -/

/-- RUN makes the operating state RUN in CONFIG, and is refused WRONG_STATE in RUN (R188). HALT with every room CLOSED: CONFIG. SESSION_RESET with
the marker entries its closes need: every room CLOSED, RUN kept, the rooms closed counted in the response, and each take discarded named after the
count. HALT is refused WRONG_STATE in CONFIG or with a room open, SESSION_RESET WRONG_STATE in CONFIG and TABLE_FULL without those entries, and
then nothing changes but what every command notes. Both, when accepted, end every station's work, and then the held responses of both ports join
their originate lists in the order held, ahead of the response (R5, R55, R110, R150, R189, R190, R192; the count's width is log 12). That the
response comes after the notices of the effect is the model's choice (log 32), and so is the form in which the response names the discarded takes
(log 56). An override that a command has no use for is ignored (log 14). -/
def Obligations.OperatingStatesComplete : Prop :=
  (∀ (c : Ctl) (s : State), FromManager c s →
      (s.mgmt.op = .config → exec (.run c) s = .next (respond c .run .ok []
        { handled c .run s with mgmt := { (handled c .run s).mgmt with op := .run } })) ∧
      (s.mgmt.op = .run → exec (.run c) s = .next (respond c .run .wrongState [] (handled c .run s)))) ∧
  (∀ (c : Ctl) (s : State), FromManager c s →
      ((s.mgmt.op = .config ∨ ∃ r : RoomId, (s.room r).state ≠ .closed) →
        exec (.halt c) s = .next (respond c .halt .wrongState [] (handled c .halt s))) ∧
      (s.mgmt.op = .config → exec (.sessionReset c) s = .next (respond c .sessionReset .wrongState [] (handled c .sessionReset s))) ∧
      (s.mgmt.op = .run → s.markerPool.free < s.closeAllNeeds →
        exec (.sessionReset c) s = .next (respond c .sessionReset .tableFull [] (handled c .sessionReset s)))) ∧
  (∀ (c : Ctl) (s : State), FromManager c s → s.mgmt.op = .run → ContextsCoherent s →
      ((∀ r : RoomId, (s.room r).state = .closed) → ∃ u, exec (.halt c) s = .next (respond c .halt .ok [] u) ∧
        u.mgmt.op = .config ∧ StationsCleared u ∧ (∀ p : Port, HeldJoined p [] s u) ∧ ∀ r : RoomId, (u.room r).state = .closed) ∧
      (s.closeAllNeeds ≤ s.markerPool.free → ∃ u,
        exec (.sessionReset c) s = .next (respond c .sessionReset .ok
          (bytesOf 1 s.openRooms.length ++ (s.openRooms.filterMap fun r => ((s.room r).openTake.bind s.take?).bind fun t =>
            if t.cells = 0 then some t.number else none).flatMap fun n => bytesOf 2 n ++ [1]) u) ∧ u.mgmt.op = .run ∧
        StationsCleared u ∧ (∀ p : Port, HeldJoined p [] s u) ∧ ∀ r : RoomId, (u.room r).state = .closed))

/-- SET_CURSOR replaces the cursor of its port; READ_ENTRY answers the entry at it, with the index after it, and moves on by one (R185, R186).
That a station entry without a timer answers 0 ticks remaining is the model's choice (log 54). An override that a command has no use for is
ignored (log 14). -/
def Obligations.CursorCommandsComplete : Prop :=
  ∀ (c : Ctl) (s : State), FromManager c s →
    (∀ (table : Byte) (index : Word) (t : TableName), tableOfCode table = some t → index.toNat < t.size →
      exec (.setCursor c table index) s = .next (respond c .setCursor .ok (bytesOf 1 t.code ++ bytesOf 2 index.toNat)
        (setCursor c.port ⟨t, index.toNat⟩ (handled c .setCursor s)))) ∧
    (∀ x : Cursor, (s.port c.port).cursor = some x → x.index < x.table.size →
      exec (.readEntry c) s = .next (respond c .readEntry .ok
        ((handled c .readEntry s).entryBytes x.table x.index ++ (handled c .readEntry s).entryExtra x.table x.index ++
          bytesOf 2 (x.index + 1))
        (setCursor c.port ⟨x.table, x.index + 1⟩ (handled c .readEntry s))))

/-- WRITE_ENTRY stores an entry that its table's checks accept, field by field, answers it as stored with the index after it, and moves on by one.
An entry that they refuse is answered with their result and stores nothing. It is refused with no cursor (WRONG_STATE), past the table's end
(CURSOR_END), at ROOM_CONFIG while the room is not CLOSED, at STATION_TABLE while the station is not OFFLINE and at LINK_PROFILE outside CONFIG
(WRONG_STATE each). From a manager or any other known source, one shorter than its cursor's entry is refused BAD_PARAMETER, before its sender's
class is checked (log 15) (R1, R6, R32, R84, R89, R160, R166, R174, R183, R184, R186, R187, R195; logs 15, 18, 19). That the response to a
STORE_SETTINGS write comes after the alerts of the reserve check it starts is the model's choice (log 32), and so is that an override is ignored
but for one of 0 (log 14). -/
def Obligations.WriteEntryCompletes : Prop :=
  (∀ (c : Ctl) (body : List Byte) (s : State) (x : Cursor), s.power = .on → s.sender c.src ≠ .unknown → (s.port c.port).cursor = some x →
    body.length < x.table.entryLength →
    exec (.writeEntry c body) s = .next (respond c .writeEntry .badParameter [] (handled c .writeEntry s))) ∧
  (∀ (c : Ctl) (body : List Byte) (s : State), FromManager c s → s.entryZeroOverride c body = false →
    ((s.port c.port).cursor = none →
      exec (.writeEntry c body) s = .next (respond c .writeEntry .wrongState [] (handled c .writeEntry s))) ∧
    ∀ x : Cursor, (s.port c.port).cursor = some x → x.table.entryLength ≤ body.length →
      (∀ t : State, x.index < x.table.size →
        writeTable x.table x.index (body.take x.table.entryLength) (handled c .writeEntry s) = .ok t →
        exec (.writeEntry c body) s = .next (respond c .writeEntry .ok (t.entryBytes x.table x.index ++ bytesOf 2 (x.index + 1))
          (setCursor c.port ⟨x.table, x.index + 1⟩ t)) ∧ EntryStored x body (handled c .writeEntry s) t) ∧
      (∀ r : Result, x.index < x.table.size →
        writeTable x.table x.index (body.take x.table.entryLength) (handled c .writeEntry s) = .error r →
        exec (.writeEntry c body) s = .next (respond c .writeEntry r [] (handled c .writeEntry s))) ∧
      (x.table.size ≤ x.index →
        exec (.writeEntry c body) s = .next (respond c .writeEntry .cursorEnd [] (handled c .writeEntry s))) ∧
      (∀ r : RoomId, x = ⟨.roomConfig, r.val⟩ → (s.room r).state ≠ .closed →
        exec (.writeEntry c body) s = .next (respond c .writeEntry .wrongState [] (handled c .writeEntry s))) ∧
      (∀ e : StationId, x = ⟨.stationTable, e.val⟩ → (s.station e).state ≠ .offline →
        exec (.writeEntry c body) s = .next (respond c .writeEntry .wrongState [] (handled c .writeEntry s))) ∧
      (x = ⟨.linkProfile, 0⟩ → s.mgmt.op = .run →
        exec (.writeEntry c body) s = .next (respond c .writeEntry .wrongState [] (handled c .writeEntry s))))

/-- SET_RESPONSE_MODE sets the named port's mode, and when it becomes IMMEDIATE what it holds joins its originate list in the order held;
READ_ALERTS answers the latched and the live set and clears every latch; READ_COUNTERS answers every counter; CLEAR_COUNTERS sets every one to 0
(R191, R192, R194, R197). The order of the counters in the response of READ_COUNTERS is the model's choice (log 25). An override that a command
has no use for is ignored (log 14). -/
def Obligations.ManagementReadsComplete : Prop :=
  ∀ (c : Ctl) (s : State), FromManager c s →
    (∀ (port mode : Byte) (p : Port) (m : ResponseMode), portOfCode port = some p → responseModeOfCode mode = some m →
      ∃ u, exec (.setResponseMode c port mode) s = .next (respond c .setResponseMode .ok [] u) ∧ (u.port p).mode = m ∧
        (u.port p).held = (match m with
          | .immediate => []
          | .onSync => (s.port p).held) ∧
        ((s.port p).originate.length + (s.port p).held.length ≤ 512 →
          (u.port p).originate.map Queued.frame = (s.port p).originate.map Queued.frame ++ (match m with
            | .immediate => (s.port p).held
            | .onSync => []))) ∧
    exec (.readAlerts c) s = .next (respond c .readAlerts .ok (bytesOf 2 s.mgmt.latches.toNat ++ bytesOf 2 s.liveSet.toNat)
      { handled c .readAlerts s with mgmt := { (handled c .readAlerts s).mgmt with latches := 0 } }) ∧
    exec (.readCounters c) s = .next (respond c .readCounters .ok
      ((handled c .readCounters s).allCounters.flatMap fun k => bytesOf 4 k.toNat) (handled c .readCounters s)) ∧
    ∃ u, exec (.clearCounters c) s = .next (respond c .clearCounters .ok [] u) ∧ (∀ k ∈ u.allCounters, k = 0) ∧
      u.takeTable.takes = s.takeTable.takes ∧ u.playback.contexts = s.playback.contexts ∧ u.store.pages = s.store.pages ∧
      ∀ r : RoomId, { u.room r with counters := (s.room r).counters } = s.room r

/-! ## Rooms, takes and the store -/

/-- OPEN_ROOM: a take opens in the lowest FREE slot with the next number, and the room is ON_RECORD with an empty ring and no gap (R3, R44, R45,
R46). CLOSE_ROOM: the room is CLOSED as R4 leaves it, and its take is closed with cause ROOM_CLOSE, or discarded when it held no cell (R4, R55,
R57); closed with cells, it is UNARCHIVED at the archive queue's tail, and PENDING at its pool's tail or, with a station waiting that is eligible
for it, offered to the first such station (R56, R94, R95; the response's discarded flag is log 13). That the response comes after the notices of
the effect is the model's choice (log 32). An override that a command has no use for is ignored (log 14). -/
def Obligations.RoomsOpenAndClose : Prop :=
  (∀ (c : Ctl) (b : Byte) (r : RoomId) (k : Nat) (s : State), FromManager c s → roomOfByte b = some r → s.mgmt.op = .run →
      (s.room r).state = .closed → s.lowestFreeSlot = some k →
      ∃ u, exec (.openRoom c b) s = .next (respond c .openRoom .ok (bytesOf 2 s.nextTakeNumber) u) ∧
        u.take? k = some (openedTake s.nextTakeNumber r (s.room r).config s.link.period s.now) ∧
        u.takeTable.issue = nextNumber s.nextTakeNumber ∧
        u.room r = { s.room r with
          state := .onRecord, openTake := some k, sealed := false, overrun := none, deferred := none, offCycles := 0, gap := 0, ring := [],
          assembly := emptyAssembly (s.room r).config.tracks } ∧
        ∀ q : RoomId, q ≠ r → { u.room q with ring := (s.room q).ring } = s.room q) ∧
  (∀ (c : Ctl) (b : Byte) (r : RoomId) (k : Nat) (t : Take) (s : State), FromManager c s → roomOfByte b = some r →
      (s.room r).state ≠ .closed → (s.room r).openTake = some k → s.take? k = some t → (s.room r).closeNeeds ≤ s.markerPool.free →
      ∃ u, exec (.closeRoom c b) s = .next (respond c .closeRoom .ok (bytesOf 2 t.number ++ flagByte (t.cells == 0)) u) ∧
        { u.room r with ring := (s.room r).ring } = (s.room r).afterClose ∧ (t.cells = 0 → u.take? k = none) ∧
        (t.cells ≠ 0 → ∃ t', u.take? k = some t' ∧ t'.lifecycle = .closed ∧ t'.endStamp = some s.now ∧ t'.cause = some .roomClose ∧
          t'.cells = t.cells ∧ EnteredQueues k t t' s u))

/-- A cut with a successor (cause SCHEDULE, LENGTH, CONSOLE, MANAGER or DEFERRED) with what it needs is made and answered MADE with both numbers:
the closing take with its end marker and, when it holds cells, UNARCHIVED at the archive queue's tail and PENDING at its pool's tail, or offered
to the first eligible station waiting, the successor with the carried markers, the contexts as R145 and R146 have them. CUT_TAKE and CUT_NOW make
theirs, and CUT_TAKE answers both take numbers (R16, R50, R52, R53, R55, R56, R60, R145, R146). What a follow move clears is log 22, and that the
response of CUT_TAKE comes after the notices is log 32. An override that a command has no use for is ignored (log 14). -/
def Obligations.CutsComplete : Prop :=
  ∀ (r : RoomId) (k k' : Nat) (t : Take) (s : State), s.power = .on → (s.room r).state ≠ .closed → (s.room r).deferred = none →
    (s.room r).openTake = some k → s.take? k = some t → s.lowestFreeSlot = some k' →
    (∀ (cause : CutCause) (source : Byte), cause ≠ .roomClose → cause ≠ .sessionReset → (s.room r).cutNeeds cause ≤ s.markerPool.free →
      (requestCut r cause source s).2 = .made t.number (t.cells == 0) s.nextTakeNumber ∧
        CutMade r k k' t cause source s (requestCut r cause source s).1) ∧
    (∀ (c : Ctl) (b : Byte), FromManager c s → roomOfByte b = some r → s.mgmt.op = .run →
      (s.room r).cutNeeds .manager ≤ s.markerPool.free →
      ∃ u, exec (.cutTake c b) s = .next (respond c .cutTake .ok
          (bytesOf 1 0 ++ bytesOf 2 t.number ++ flagByte (t.cells == 0) ++ bytesOf 2 s.nextTakeNumber) u) ∧
        CutMade r k k' t .manager c.src s u) ∧
    (∀ m : Mark, FromConsole m r s → (s.room r).cutNeeds .console ≤ s.markerPool.free →
      ∃ u, exec (.cutNow m) s = .next u ∧ CutMade r k k' t .console m.src s u)

/-- CUT_NOW is taken by a room that is not CLOSED, asks for a cut with cause CONSOLE, and is absorbed, uncounted, by a deferred cut (R21). -/
def Obligations.CutNowRequestsAConsoleCut : Prop :=
  ∀ (m : Mark) (r : RoomId) (s : State), FromConsole m r s → (s.room r).state ≠ .closed →
    exec (.cutNow m) s = .next (requestCut r .console m.src (takenFrom m.port m.src s)).1 ∧
    ((s.room r).deferred ≠ none → exec (.cutNow m) s = .next (takenFrom m.port m.src s))

/-- A cut that finds no FREE slot, or fewer marker entries than it needs, is deferred: the take stays open, the cause is kept, DEFERRED_CUTS rises
and CUT_DEFERRED is latched. CUT_TAKE then answers DEFERRED with the open take's number, the cause kept and the reason, NO_SLOT before NO_MARKERS;
absorbed by a deferred cut already there, it answers the cause kept with that one, the reason absent, and changes nothing (R16, R50, R51, R60,
R64). That the response comes after the notices of the effect is the model's choice (log 32). An override that a command has no use for is ignored
(log 14). -/
def Obligations.CutWithoutASlotIsDeferred : Prop :=
  (∀ (m : Mark) (r : RoomId) (k : Nat) (s : State), FromConsole m r s → (s.room r).state ≠ .closed → (s.room r).deferred = none →
    (s.room r).openTake = some k → (s.lowestFreeSlot = none ∨ s.markerPool.free < (s.room r).cutNeeds .console) →
    ∃ u, exec (.cutNow m) s = .next u ∧ u.room r = { s.room r with deferred := some .console } ∧
      u.takeTable.counters.deferredCuts = s.takeTable.counters.deferredCuts + 1 ∧ u.takeTable.takes = s.takeTable.takes ∧
      u.latched .cutDeferred = true) ∧
  (∀ (c : Ctl) (b : Byte) (r : RoomId) (k : Nat) (t : Take) (s : State), FromManager c s → roomOfByte b = some r → s.mgmt.op = .run →
    (s.room r).state ≠ .closed → (s.room r).openTake = some k → s.take? k = some t →
    ((s.room r).deferred = none → (s.lowestFreeSlot = none ∨ s.markerPool.free < (s.room r).cutNeeds .manager) →
      ∃ u, exec (.cutTake c b) s = .next (respond c .cutTake .ok
          (bytesOf 1 1 ++ bytesOf 2 t.number ++ bytesOf 1 CutCause.manager.code ++ bytesOf 1 (if s.lowestFreeSlot = none then 0 else 1)) u) ∧
        u.room r = { s.room r with deferred := some .manager } ∧ u.takeTable.takes = s.takeTable.takes ∧ u.markerPool = s.markerPool ∧
        u.takeTable.counters.deferredCuts = s.takeTable.counters.deferredCuts + 1 ∧ u.latched .cutDeferred = true) ∧
    (∀ cause : CutCause, (s.room r).deferred = some cause →
      exec (.cutTake c b) s = .next (respond c .cutTake .ok
        (bytesOf 1 1 ++ bytesOf 2 t.number ++ bytesOf 1 cause.code ++ bytesOf 1 255) (handled c .cutTake s))))

/-- READ_TAKE, READ_QUEUE and READ_MARKER answer what they read and change nothing (R62, R63, R80). An override that a command has no use for is
ignored (log 14). The bytes of an absent stamp past its month are log 57. -/
def Obligations.TakeReadsComplete : Prop :=
  ∀ (c : Ctl) (s : State), FromManager c s →
    (∀ (n : Word) (k : Nat) (t : Take), s.namedTake n = .ok (k, t) →
      exec (.readTake c n) s = .next (respond c .readTake .ok (takeRecord k t) (handled c .readTake s))) ∧
    (∀ (q : Byte) (start : Word) (entries : List (List Byte)), s.queueEntries q = some entries → start.toNat ≤ 1023 →
      exec (.readQueue c q start) s = .next (respond c .readQueue .ok
        (bytesOf 2 entries.length ++ ((entries.drop start.toNat).take 64).flatten) (handled c .readQueue s))) ∧
    (∀ (n : Word) (k : Nat) (t : Take) (sel : Byte) (byIndex : Bool) (v : Word) (i : Nat) (m : Marker), s.namedTake n = .ok (k, t) →
      boolOfCode sel = some byIndex → selectMarker t.markers byIndex v.toNat = some (i, m) →
      exec (.readMarker c n sel v) s = .next (respond c .readMarker .ok
        (bytesOf 2 t.markers.length ++ bytesOf 2 i ++ m.bytes) (handled c .readMarker s)))

/-- MOVE_TAKE of a PENDING take: it leaves its pool queue and joins the tail of the other; with a station waiting that is eligible for it there,
it is offered to the first such station (R61, R94, R95; the place of the response is log 32). RELEASE_TAKE of a RETAINED take with no pin, and
CLEAR_STORE in CONFIG with every live take ARCHIVED: the takes are reclaimed, their slots FREE, their markers returned, COMMAND_RECLAIMS raised
for each (R34, R38, R39, R81; the widths of the counts answered are log 12, and that CLEAR_STORE passes over a pinned take is log 34). A check of
the reserves changes nothing while both are met; else it reclaims retained takes with no pin, oldest first, until both are met or none is left,
each raising PRESSURE_RECLAIMS, and reports what is still unmet (R35, R36). An override that a command has no use for is ignored (log 14). -/
def Obligations.TakeCommandsComplete : Prop :=
  (∀ (c : Ctl) (s : State), FromManager c s →
    (∀ (n : Word) (b : Byte) (p : PoolId) (k : Nat) (t : Take), poolOfByte b = some p → s.namedTake n = .ok (k, t) →
      s.take? k = some t → t.transcription = some .pending →
      (s.handOff.wait = [] →
        ∃ u, exec (.moveTake c n b) s = .next (respond c .moveTake .ok [] u) ∧ u.take? k = some { t with pool := p } ∧
          u.pool p = (if p = t.pool then (s.pool p).filter (· != k) else s.pool p) ++ [k] ∧
          (p ≠ t.pool → u.pool t.pool = (s.pool t.pool).filter (· != k)) ∧ (∀ j, j ≠ k → u.take? j = s.take? j) ∧
          u.playback = s.playback ∧ u.store = s.store ∧ u.handOff.archive = s.handOff.archive) ∧
      (∀ e : StationId, s.firstWaiting { t with pool := p } = some e →
        ∃ v u, exec (.moveTake c n b) s = .next u ∧ u = arrive k (respond c .moveTake .ok [] v) ∧
          (u.station e).state = .offered ∧ (u.station e).take = some k ∧
          (u.station e).timer = some ⟨.offer, ticksOfS s.timeouts.accept⟩ ∧ u.handOff.wait = s.handOff.wait.filter (· != e) ∧
          u.take? k = some { t with
            pool := p, transcription := some .offered, holder := some (s.station e).config.node, handOffs := min 255 (t.handOffs + 1) } ∧
          u.pool p = (s.pool p).filter (· != k) ∧ u.handOff.counters.offersMade = s.handOff.counters.offersMade + 1)) ∧
    (∀ (n : Word) (k : Nat) (t : Take), s.namedTake n = .ok (k, t) → s.take? k = some t → t.lifecycle = .retained → t.pins = 0 →
      ∃ u, exec (.releaseTake c n) s =
          .next (respond c .releaseTake .ok (bytesOf 2 (u.store.freePages.length - s.store.freePages.length)) u) ∧
        u.take? k = none ∧ u.markerPool.free = s.markerPool.free + t.markers.length ∧
        u.store.retention = s.store.retention.filter (· != k) ∧
        u.store.counters.commandReclaims = s.store.counters.commandReclaims + 1 ∧ ∀ j, j ≠ k → u.take? j = s.take? j) ∧
    (s.mgmt.op = .config → s.someUnarchived = false →
      ∃ u, exec (.clearStore c) s = .next (respond c .clearStore .ok
          (bytesOf 2 s.clearable.length ++ bytesOf 2 (u.store.freePages.length - s.store.freePages.length)) u) ∧
        (∀ k ∈ s.clearable, u.take? k = none) ∧
        (s.clearable.Nodup → u.markerPool.free =
          s.markerPool.free + (s.clearable.map fun k => ((s.take? k).map fun t => t.markers.length).getD 0).sum) ∧
        u.store.counters.commandReclaims = s.store.counters.commandReclaims + BitVec.ofNat 32 s.clearable.length)) ∧
  (∀ s : State,
    (s.reserveUnmet = false → checkReserves s = s) ∧
    (s.reserveUnmet = true → ∃ u, checkReserves s = u ∧ (u.reserveUnmet = false ∨ u.firstReclaimable = none) ∧
      (u.pagesShort = true → u.latched .storeLow = true) ∧ (u.slotsShort = true → u.latched .slotsLow = true) ∧
      (∀ j t, s.take? j = some t → t.reclaimable = false → u.take? j = some t) ∧
      (s.store.retention.Nodup →
        u.clearable <:+ s.clearable ∧ (∀ j ∈ s.clearable, j ∉ u.clearable → u.take? j = none) ∧
        u.store.counters.pressureReclaims =
          s.store.counters.pressureReclaims + BitVec.ofNat 32 (s.clearable.length - u.clearable.length))))

/-! ## The Proceedings Clock -/

/-- SET_CLOCK writes all seven fields, tick 0, SET and NONE, or changes nothing when a field is out of range; READ_CLOCK answers the clock to
every known source and changes nothing (R156, R157). An override that a command has no use for is ignored (log 14). -/
def Obligations.ClockCommandsComplete : Prop :=
  ∀ (c : Ctl) (s : State),
    (∀ f : ClockFields, FromManager c s →
      (clockFieldsValid f = true → ∃ x : Calendar, x = {
          year := 2000 + f.year.toNat, month := f.month.toNat, day := f.day.toNat, hour := f.hour.toNat, minute := f.minute.toNat,
          second := f.second.toNat, tick := 0, dow := f.dow.toNat, validity := .set, outage := .none } ∧
        exec (.setClock c f) s =
          .next (respond c .setClock .ok (x.stamp.bytes ++ bytesOf 1 x.dow) { handled c .setClock s with clock := x })) ∧
      (clockFieldsValid f = false →
        exec (.setClock c f) s = .next (respond c .setClock .badParameter [] (handled c .setClock s)))) ∧
    (s.power = .on → s.sender c.src ≠ .unknown → c.ovr ≠ some 0 →
      exec (.readClock c) s = .next (respond c .readClock .ok
        (s.now.bytes ++ bytesOf 1 s.clock.dow ++ bytesOf 1 s.clock.validity.code ++ bytesOf 1 s.clock.outage.code)
        (handled c .readClock s)))

/-- TICK_ARRIVAL with main power: the calendar counts one tick and every tick timer counts it too, the station timers, the sync-loss timer and the
TIME count of the status stream; short of a second update nothing else changes. At a second update an unset clock reports CLOCK_UNSET and matches
nothing; a set one decides for each matched room in ascending order: a CLOSED room nothing, an OFF_RECORD or short one a count, else SCHEDULE_CUTS
rises and the room is asked for a cut with cause SCHEDULE, made, deferred or absorbed (statements CutsComplete, CutWithoutASlotIsDeferred). On
backup only the calendar counts (R153 to R155, R159, R161 to R163, R165, R196; that the second update is part of TICK_ARRIVAL is log 48). The
model's readings: a timer that has run out waits at 0 for its expiry command (log 5); on backup no schedule is matched and nothing is reported,
and without any power the tick does nothing (log 7). -/
def Obligations.TickArrivalCounts : Prop :=
  ∀ s : State,
    (s.power = .on →
      (s.clock.tick ≠ 1023 → exec .tickArrival s = .next (ticked s)) ∧
      (s.clock.tick = 1023 → s.clock.validity = .unset →
        exec .tickArrival s = .next (reportAlert .clockUnset (ticked s)) ∧ (reportAlert .clockUnset (ticked s)).latched .clockUnset = true) ∧
      (s.clock.tick = 1023 → s.clock.validity = .set →
        exec .tickArrival s = .next (forEach
          (allRooms.filter fun q => s.schedule.toList.any fun x => x.matches s.clock.addTick && x.mask.getLsbD q.val) scheduleRoom (ticked s)) ∧
        ((∀ q : RoomId, ∀ x ∈ s.schedule.toList, x.matches s.clock.addTick = true → x.mask.getLsbD q.val = false) →
          exec .tickArrival s = .next (ticked s)) ∧
        ∀ r : RoomId, (∀ q : RoomId, (s.schedule.toList.any fun x => x.matches s.clock.addTick && x.mask.getLsbD q.val) = decide (q = r)) →
          ((s.room r).state = .closed → exec .tickArrival s = .next (ticked s)) ∧
          ((s.room r).state = .offRecord → exec .tickArrival s = .next { ticked s with
            clockCounters := { s.clockCounters with scheduleOffRecord := s.clockCounters.scheduleOffRecord + 1 } }) ∧
          (∀ (k : Nat) (t : Take), (s.room r).state = .onRecord → (s.room r).openTake = some k → s.take? k = some t →
            (t.cells < (s.room r).config.minCells → exec .tickArrival s = .next { ticked s with
              clockCounters := { s.clockCounters with scheduleShort := s.clockCounters.scheduleShort + 1 } }) ∧
            ((s.room r).config.minCells ≤ t.cells → exec .tickArrival s = .next (requestCut r .schedule s.link.node { ticked s with
              clockCounters := { s.clockCounters with scheduleCuts := s.clockCounters.scheduleCuts + 1 } }).1)))) ∧
    (s.power = .backup → exec .tickArrival s = .next { s with clock := s.clock.addTick }) ∧
    (s.power = .dead → exec .tickArrival s = .next s)

/-- A tick arrival advances a legal calendar by one tick of time, whatever it rolls over, until the century ends; then it begins again (R152,
R153). -/
def Obligations.CalendarAdvancesByOneTick : Prop :=
  ∀ x : Calendar, x.legal → x.addTick.legal ∧
    (¬(x.year = 2099 ∧ x.month = 12 ∧ x.day = 31 ∧ x.hour = 23 ∧ x.minute = 59 ∧ x.second = 59 ∧ x.tick = 1023) →
      x.addTick.ticks = x.ticks + 1) ∧
    ((x.year = 2099 ∧ x.month = 12 ∧ x.day = 31 ∧ x.hour = 23 ∧ x.minute = 59 ∧ x.second = 59 ∧ x.tick = 1023) →
      x.addTick.ticks = 0) ∧
    x.addTick.validity = x.validity ∧ x.addTick.outage = x.outage

/-- The resets: every block at its reset values with the straps as sampled; the clock as R154 says: one kept, by a held backup or a HARD_RESET,
stays SET or UNSET as it was, one whose backup was lost, or that had lost all power (log 7), starts at its backup-lost values. CLOCK_UNSET is
latched, and notified, when it is UNSET (R193). The queue of waiting commands is the model's and stays. MAIN_POWER_LOSS: the device stops, and
only the power state changes (R154, R180, R198; logs 7, 44; the notice's serial number is log 9; that no waiting sync stays is log 55). Without
main power nothing but a power-on, a tick of the backed-up clock and a further loss of power has an effect (R154; log 7). -/
def Obligations.PowerAndResetComplete : Prop :=
  (∀ (straps : Straps) (s : State),
      (s.power ≠ .dead → s.clock.validity = .set →
        exec (.powerOnReset straps true) s = .next (State.afterReset straps { s.clock with outage := .held } s.pending)) ∧
      (s.power ≠ .dead → s.clock.validity = .unset →
        exec (.powerOnReset straps true) s = .next (resetUnset straps { s.clock with outage := .held } s.pending)) ∧
      (∀ held : Bool, (held = false ∨ s.power = .dead) →
        ∃ u, exec (.powerOnReset straps held) s = .next u ∧ u = resetUnset straps lostCalendar s.pending ∧ u.clock = lostCalendar ∧
          u.mgmt.latches = alertBit .clockUnset ∧ u.rooms = Vector.replicate 16 resetRoom ∧ u.takeTable = resetTakeTable ∧
          u.markerPool = resetMarkerPool ∧ u.store = resetStore (strapPages straps.store) ∧ u.handOff = resetHandOff ∧
          u.playback = resetPlayback ∧ u.link.node = strapNode straps.node ∧ u.mgmt.op = .config ∧ u.power = .on) ∧
      (s.power = .on →
        (s.clock.validity = .set → exec (.hardReset straps) s = .next (State.afterReset straps s.clock s.pending)) ∧
        (s.clock.validity = .unset → exec (.hardReset straps) s = .next (resetUnset straps s.clock s.pending))) ∧
      (∀ holds : Bool, exec (.mainPowerLoss holds) s =
        .next { s with power := if holds = true ∧ s.power ≠ .dead then .backup else .dead })) ∧
  (∀ (i : Instr) (s : State), s.power ≠ .on → worksUnpowered i = false → exec i s = .next s)

/-! ## Typists and archives -/

/-- HELLO ends what the station had under way: it is IDLE or OFFLINE as it said, its context detached, off the wait list. A take offered to it or
held by it is given back as by DECLINE or RETURN: with no station waiting it is PENDING at its pool's head with no holder, and OFFERS_DECLINED or
TAKES_RETURNED rises. A transfer is given back as by ARCHIVE_FAILED (R87, R96, R107; the order within the command is log 41). That the response
comes after the notices of the effect is the model's choice (log 32). An override that a command has no use for is ignored (log 14). -/
def Obligations.HelloCompletes : Prop :=
  ∀ (c : Ctl) (b : Byte) (leaving : Bool) (e : StationId) (s : State), s.power = .on → s.sender c.src = .station e →
    c.ovr ≠ some 0 → boolOfCode b = some leaving →
    ∃ u, exec (.hello c b) s = .next (respond c .hello .ok (helloFields (s.station e)) u) ∧
      (u.station e).state = (if leaving then .offline else .idle) ∧ (u.station e).config = (s.station e).config ∧
      (u.station e).misses = (s.station e).misses ∧
      (u.context e).take = none ∧ ((s.station e).state = .waiting → u.handOff.wait = s.handOff.wait.filter (· != e)) ∧
      ((s.station e).state = .archiving → (u.station e).take = none ∧
        u.handOff.counters.archiveFailures = s.handOff.counters.archiveFailures + 1) ∧
      ∀ (k : Nat) (t : Take), (s.station e).take = some k → s.take? k = some t → t.lifecycle = .closed →
        (((s.station e).state = .offered ∨ (s.station e).state = .holding) → s.handOff.wait = [] →
          (u.station e).take = none ∧ (u.station e).timer = none ∧ u.pool t.pool = k :: s.pool t.pool ∧
          (∃ t', u.take? k = some t' ∧ t'.unpinned = { t with transcription := some .pending, holder := none }.unpinned) ∧
          ((s.station e).state = .offered → u.handOff.counters.offersDeclined = s.handOff.counters.offersDeclined + 1) ∧
          ((s.station e).state = .holding → u.handOff.counters.takesReturned = s.handOff.counters.takesReturned + 1)) ∧
        ((s.station e).state = .archiving →
          (u.station e).timer = none ∧ u.handOff.archive = k :: s.handOff.archive ∧
          ∃ t', u.take? k = some t' ∧ t'.unpinned = { t with archive := some .unarchived, archiver := none }.unpinned)

/-- REQUEST_WORK from an IDLE station: the first eligible PENDING take is offered to it, or it waits at the list's tail (R93, R95). ACCEPT from an
OFFERED station: it is HOLDING with its lease running, the take ASSIGNED, its context PAUSED at position 0 with the default mix (R98). That the
wait index is answered in 2 bytes and the cell count of ACCEPT in 3 is the model's choice (log 12). That the response comes after the notices of
the effect is the model's choice (log 32). An override that a command has no use for is ignored (log 14). -/
def Obligations.WorkIsGivenOut : Prop :=
  (∀ (c : Ctl) (e : StationId) (s : State), FromStation c .requestWork e s → (s.station e).state = .idle →
      (∀ (k : Nat) (t : Take), s.searchWork (s.station e) = some k → s.take? k = some t →
        ∃ u, exec (.requestWork c) s = .next (respond c .requestWork .ok (bytesOf 1 0 ++ bytesOf 2 t.number) u) ∧
          (u.station e).state = .offered ∧ (u.station e).take = some k ∧
          (u.station e).timer = some ⟨.offer, ticksOfS s.timeouts.accept⟩ ∧
          u.take? k = some { t with
            transcription := some .offered, holder := some (s.station e).config.node, handOffs := min 255 (t.handOffs + 1) } ∧
          u.pool t.pool = (s.pool t.pool).filter (· != k) ∧ u.handOff.wait = s.handOff.wait ∧
          u.handOff.counters.offersMade = s.handOff.counters.offersMade + 1 ∧ u.context e = s.context e) ∧
      (s.searchWork (s.station e) = none →
        ∃ u, exec (.requestWork c) s =
            .next (respond c .requestWork .ok (bytesOf 1 1 ++ bytesOf 2 s.handOff.wait.length) u) ∧
          (u.station e).state = .waiting ∧ u.handOff.wait = s.handOff.wait ++ [e] ∧ u.takeTable = s.takeTable)) ∧
  (∀ (c : Ctl) (e : StationId) (k : Nat) (t : Take) (s : State), FromStationPlain c .accept e s → (s.station e).state = .offered →
      (s.station e).take = some k → s.take? k = some t →
      ∃ u, exec (.accept c) s = .next (respond c .accept .ok (bytesOf 2 t.number ++ bytesOf 3 t.cells) u) ∧
        (u.station e).state = .holding ∧ (u.station e).take = some k ∧
        (u.station e).timer = some ⟨.lease, ticksOfMin s.timeouts.lease⟩ ∧ (u.context e).take = some k ∧
        (u.context e).state = .paused ∧ (u.context e).position = some 0 ∧ (u.context e).mix = (s.station e).config.mix ∧
        (u.context e).saved = none ∧ (u.context e).notice = none ∧ (u.context e).flags = none ∧
        ∃ t', u.take? k = some t' ∧ t'.unpinned = { t with transcription := some .assigned }.unpinned)

/-- DECLINE from an OFFERED and RETURN from a HOLDING station, with no station waiting: the take is PENDING at the head of its pool and the
station at rest (R96, R101). COMPLETE from a HOLDING station: the take is TYPED with no holder, the station at rest; a take already ARCHIVED is
RETAINED at the retention queue's tail (R100, R49). The last clause supposes the Take Table canonical and the reserves met, so that no reclaim
follows. That the response comes after the notices of the effect is the model's choice (log 32). An override that a command has no use for is
ignored (log 14). -/
def Obligations.HoldsEndComplete : Prop :=
  (∀ (c : Ctl) (e : StationId) (k : Nat) (t : Take) (s : State), (s.station e).take = some k → s.take? k = some t →
      t.lifecycle = .closed → s.handOff.wait = [] →
      (FromStation c .decline e s → (s.station e).state = .offered →
        ∃ u, exec (.decline c) s = .next (respond c .decline .ok [] u) ∧ AtRest e u ∧ u.pool t.pool = k :: s.pool t.pool ∧
          (∃ t', u.take? k = some t' ∧ t'.unpinned = { t with transcription := some .pending, holder := none }.unpinned) ∧
          u.handOff.counters.offersDeclined = s.handOff.counters.offersDeclined + 1) ∧
      (FromStationPlain c .returnTake e s → (s.station e).state = .holding →
        ∃ u, exec (.returnTake c) s = .next (respond c .returnTake .ok [] u) ∧ AtRest e u ∧ u.pool t.pool = k :: s.pool t.pool ∧
          (∃ t', u.take? k = some t' ∧ t'.unpinned = { t with transcription := some .pending, holder := none }.unpinned) ∧
          u.handOff.counters.takesReturned = s.handOff.counters.takesReturned + 1)) ∧
  (∀ (c : Ctl) (e : StationId) (k : Nat) (t : Take) (s : State), FromStationPlain c .complete e s → (s.station e).state = .holding →
      (s.station e).take = some k → s.take? k = some t → t.lifecycle = .closed →
      ∃ u, exec (.complete c) s = .next (respond c .complete .ok (bytesOf 2 t.number) u) ∧ AtRest e u ∧
        u.handOff.counters.takesTyped = s.handOff.counters.takesTyped + 1 ∧
        (t.archive ≠ some .archived →
          ∃ t', u.take? k = some t' ∧ t'.unpinned = { t with holder := none, transcription := some .typed }.unpinned) ∧
        (t.archive = some .archived → s.reserveUnmet = false → mapWf s.takeTable.takes →
          u.store.retention = s.store.retention ++ [k] ∧ ∃ t', u.take? k = some t' ∧
            t'.unpinned = { t with holder := none, transcription := some .typed, lifecycle := .retained }.unpinned))

/-- REQUEST_ARCHIVE from an IDLE station: the archive queue's head is assigned to it, its context attached in BULK at position 0 with no credit
(R104, R131, R148). ARCHIVED after the last cell, and ARCHIVE_FAILED: the take ARCHIVED, or UNARCHIVED at the archive queue's head; the station at
rest; ARCHIVED of a take already TYPED makes it RETAINED at the retention queue's tail (R105, R107, R49). That last clause supposes the Take Table
canonical and the reserves met, so that no reclaim follows. The widths of the counts answered are the model's choice (log 12). That the response
comes after the notices of the effect is the model's choice (log 32). An override that a command has no use for is ignored (log 14). The bytes of
an absent stamp past its month are log 57. -/
def Obligations.ArchiveTransfersComplete : Prop :=
  (∀ (c : Ctl) (e : StationId) (k : Nat) (rest : List Nat) (t : Take) (s : State), FromStation c .requestArchive e s →
      (s.station e).state = .idle → s.handOff.archive = k :: rest → s.take? k = some t → t.lifecycle = .closed →
      ∃ u, exec (.requestArchive c) s = .next (respond c .requestArchive .ok (archiveFields t) u) ∧
        (u.station e).state = .archiving ∧ (u.station e).take = some k ∧
        (u.station e).timer = some ⟨.stall, ticksOfS s.timeouts.stall⟩ ∧ u.handOff.archive = rest.filter (· != k) ∧
        (u.context e).take = some k ∧ (u.context e).state = .bulk ∧ (u.context e).position = some 0 ∧ (u.context e).credits = 0 ∧
        (u.context e).markersSent = 0 ∧
        (∃ t', u.take? k = some t' ∧
          t'.unpinned = { t with archive := some .archiving, archiver := some (s.station e).config.node }.unpinned) ∧
        u.handOff.counters.archiveAssigned = s.handOff.counters.archiveAssigned + 1) ∧
  (∀ (c : Ctl) (e : StationId) (k : Nat) (t : Take) (s : State), (s.station e).state = .archiving → (s.station e).take = some k →
      s.take? k = some t → t.lifecycle = .closed →
      (FromStation c .archived e s → t.cells ≤ (s.context e).position.getD 0 →
        ∃ u, exec (.archived c) s = .next (respond c .archived .ok (bytesOf 2 t.number) u) ∧ AtRest e u ∧
          u.handOff.counters.takesArchived = s.handOff.counters.takesArchived + 1 ∧
          (t.transcription ≠ some .typed →
            ∃ t', u.take? k = some t' ∧ t'.unpinned = { t with archiver := none, archive := some .archived }.unpinned) ∧
          (t.transcription = some .typed → s.reserveUnmet = false → mapWf s.takeTable.takes →
            u.store.retention = s.store.retention ++ [k] ∧ ∃ t', u.take? k = some t' ∧
              t'.unpinned = { t with archiver := none, archive := some .archived, lifecycle := .retained }.unpinned)) ∧
      (FromStation c .archiveFailed e s →
        ∃ u, exec (.archiveFailed c) s = .next (respond c .archiveFailed .ok [] u) ∧ AtRest e u ∧
          u.handOff.archive = k :: s.handOff.archive ∧
          (∃ t', u.take? k = some t' ∧ t'.unpinned = { t with archive := some .unarchived, archiver := none }.unpinned) ∧
          u.handOff.counters.archiveFailures = s.handOff.counters.archiveFailures + 1))

/-- KEEP from a HOLDING station answers the lease it has just restarted, and changes nothing else. CREDIT from an ARCHIVING station raises its
credits, to 4096 at most, and starts its stall timer again (R99, R106, R149). That KEEP answers the ticks in 4 bytes, and the widths of the counts
that CREDIT answers, are the model's choice (log 12). -/
def Obligations.TimerRestartsComplete : Prop :=
  ∀ (c : Ctl) (e : StationId) (k : Nat) (t : Take) (s : State), (s.station e).take = some k → s.take? k = some t →
    (FromStationPlain c .keep e s → (s.station e).state = .holding →
      exec (.keep c) s = .next (respond c .keep .ok (bytesOf 4 (ticksOfMin s.timeouts.lease)) (handled c .keep s)) ∧
      ((handled c .keep s).station e).timer = some ⟨.lease, ticksOfMin s.timeouts.lease⟩) ∧
    (∀ n : Word, FromStationPlain c .credit e s → (s.station e).state = .archiving →
      exec (.credit c n) s = .next (respond c .credit .ok
        (bytesOf 2 (min 4096 ((s.context e).credits + n.toNat)) ++ positionBytes (s.context e).position ++ bytesOf 3 t.cells ++
          bytesOf 2 (s.context e).markersSent ++ bytesOf 2 t.markers.length)
        (((handled c .credit s).updContext e fun x => { x with credits := min 4096 (x.credits + n.toNat) }).updStation e fun x =>
          { x with timer := some ⟨.stall, ticksOfS s.timeouts.stall⟩ })))

/-- OFFER_EXPIRY, LEASE_EXPIRY and STALL_EXPIRY of a timer that has run out, with no station waiting: the take is given back to its queue's head,
PENDING or UNARCHIVED with no holder, the station at rest with one more miss, WITHDRAWN with the reason sent to it, the alert latched, the block's
counter raised (R96, R97, R102, R107, R108, R109; the order of the frames is log 27). An expiry command changes nothing while its timer has ticks
left: the model's choice (log 5). -/
def Obligations.ExpiriesComplete : Prop :=
  (∀ (e : StationId) (k : Nat) (t : Take) (s : State), s.power = .on → (s.station e).take = some k → s.take? k = some t →
      t.lifecycle = .closed → s.handOff.wait = [] →
      ((s.station e).state = .offered → (s.station e).timer = some ⟨.offer, 0⟩ →
        ∃ u, exec (.offerExpiry e) s = .next u ∧ AtRest e u ∧ (u.station e).misses = min 255 ((s.station e).misses + 1) ∧
          u.pool t.pool = k :: s.pool t.pool ∧
          (∃ t', u.take? k = some t' ∧ t'.unpinned = { t with transcription := some .pending, holder := none }.unpinned) ∧
          WithdrawnSent e t .offerExpired s u ∧ u.latched .offerExpired = true ∧
          u.handOff.counters.offersExpired = s.handOff.counters.offersExpired + 1) ∧
      ((s.station e).state = .holding → (s.station e).timer = some ⟨.lease, 0⟩ →
        ∃ u, exec (.leaseExpiry e) s = .next u ∧ AtRest e u ∧ (u.station e).misses = min 255 ((s.station e).misses + 1) ∧
          u.pool t.pool = k :: s.pool t.pool ∧
          (∃ t', u.take? k = some t' ∧ t'.unpinned = { t with transcription := some .pending, holder := none }.unpinned) ∧
          WithdrawnSent e t .leaseExpired s u ∧ u.latched .leaseExpired = true ∧
          u.handOff.counters.leasesExpired = s.handOff.counters.leasesExpired + 1) ∧
      ((s.station e).state = .archiving → (s.station e).timer = some ⟨.stall, 0⟩ →
        ∃ u, exec (.stallExpiry e) s = .next u ∧ AtRest e u ∧ (u.station e).misses = min 255 ((s.station e).misses + 1) ∧
          u.handOff.archive = k :: s.handOff.archive ∧
          (∃ t', u.take? k = some t' ∧ t'.unpinned = { t with archive := some .unarchived, archiver := none }.unpinned) ∧
          WithdrawnSent e t .stall s u ∧ u.latched .archiveStall = true ∧
          u.handOff.counters.archiveStalls = s.handOff.counters.archiveStalls + 1)) ∧
  (∀ (e : StationId) (s : State),
      ((s.station e).timer ≠ some ⟨.offer, 0⟩ → exec (.offerExpiry e) s = .next s) ∧
      ((s.station e).timer ≠ some ⟨.lease, 0⟩ → exec (.leaseExpiry e) s = .next s) ∧
      ((s.station e).timer ≠ some ⟨.stall, 0⟩ → exec (.stallExpiry e) s = .next s) ∧
      (s.link.lossTimer ≠ some 0 → exec .syncLossExpiry s = .next s) ∧
      (s.statusDue = false → exec .statusFrame s = .next s))

/-! ## Cueing and playback commands -/

/-- SAVE, PAUSE, SET_NOTICE and SET_MIX write one item of an attached context and answer it (R126, R140, R143, R138). That SET_MIX drops the mask's
two bits past track 6 is the model's choice (log 17). -/
def Obligations.ContextWritesComplete : Prop :=
  ∀ (c : Ctl) (e : StationId) (k : Nat) (t : Take) (s : State), (s.context e).take = some k → s.take? k = some t →
    (FromStationPlain c .save e s → exec (.save c) s = .next (respond c .save .ok
      (bytesOf 2 t.number ++ positionBytes (s.context e).position)
      ((handled c .save s).updContext e fun x => { x with saved := x.position }))) ∧
    (FromStationPlain c .pause e s → exec (.pause c) s = .next (respond c .pause .ok
      (bytesOf 2 t.number ++ positionBytes (s.context e).position ++ bytesOf 1 ContextState.paused.code)
      ((handled c .pause s).updContext e fun x => { x with state := .paused }))) ∧
    (∀ point : BitVec 24, FromStationPlain c .setNotice e s →
      exec (.setNotice c point) s = .next (respond c .setNotice .ok
        (positionBytes (if point.toNat = 16777215 then none else some (min 261888 point.toNat)))
        ((handled c .setNotice s).updContext e fun x =>
          { x with notice := if point.toNat = 16777215 then none else some (min 261888 point.toNat) }))) ∧
    (∀ (f : MixFields) (mode : MixMode), FromStationPlain c .setMix e s → mixModeOfCode f.mode = some mode →
      ∃ m : Mix, m.mode = mode ∧ m.mask = f.mask.setWidth 6 ∧ (∀ j : Fin 6, m.gains[j] = min 16 (f.gains[j]).toNat) ∧
        exec (.setMix c f) s = .next (respond c .setMix .ok m.bytes
          ((handled c .setMix s).updContext e fun x => { x with mix := m })))

/-- CUE resolves in the selected take: it passes the markers of the skip, adds the displacement within the take, and for a station without
clearance avoids the sealed span it meets, with the flags of each. It writes position, located page and flags; a context attached to that take
stays attached and keeps its other items, another is attached to it PAUSED, with saved position, notice point and follow cleared (R112 to R124).
That a backward resolution which ends at an open span's start carries the sealed hold, as a forward one does, is the model's reading (log 21). The
widths of the counts answered are the model's choice (log 12). That the response comes after the alerts of the reserve check that a released take
starts is log 32. -/
def Obligations.CueCompletes : Prop :=
  ∀ (c : Ctl) (f : CueFields) (e : StationId) (q : CueRequest) (k : Nat) (t : Take) (base : Nat) (s : State),
    FromStation c .cue e s → cueRequest f c.ovr = some q → s.selectTake e c.ovr = .ok (k, t) → s.take? k = some t →
    cueBase t (s.context e) ((s.context e).take == some k) q = some base →
    ∃ z, z = resolveCue t (s.station e).config.clearance s.link.period base q ∧
      Resolved t (s.station e).config.clearance s.link.period base q z ∧
      ((s.context e).take = some k →
        exec (.cue c f) s = .next (respond c .cue .ok
          (bytesOf 2 t.number ++ positionBytes (some z.position) ++ bytesOf 3 t.cells ++ cueFlagsByte (some z.flags) ++
            bytesOf 1 (stateAfterCue (s.context e).state t z).code)
          ((handled c .cue s).updContext e fun x =>
            { x with
              position := some z.position, located := some (s.locate k z.position), flags := some z.flags,
              state := stateAfterCue (s.context e).state t z }))) ∧
      ((s.context e).take ≠ some k → ∃ u,
        exec (.cue c f) s = .next (respond c .cue .ok
          (bytesOf 2 t.number ++ positionBytes (some z.position) ++ bytesOf 3 t.cells ++ cueFlagsByte (some z.flags) ++
            bytesOf 1 ContextState.paused.code) u) ∧
        (u.context e).take = some k ∧ (u.context e).state = .paused ∧ (u.context e).position = some z.position ∧
        (u.context e).flags = some z.flags ∧ (u.context e).saved = none ∧ (u.context e).notice = none ∧
        (u.context e).follow = false ∧ (u.context e).link = none ∧
        (u.context e).mix = (if (s.context e).take = none then (s.station e).config.mix else (s.context e).mix))

/-- PLAY from PAUSED steps back and plays on from there; from PLAYING or a held state it changes nothing (R127, R139). That a backward resolution
which ends at an open span's start carries the sealed hold is the model's reading (log 21). The widths of the counts answered are the model's
choice (log 12). -/
def Obligations.PlayCompletes : Prop :=
  ∀ (c : Ctl) (e : StationId) (k : Nat) (t : Take) (s : State), FromStationPlain c .play e s → (s.context e).take = some k →
    s.take? k = some t →
    ((s.context e).state = .paused → ∃ z,
      z = resolveFrom t (s.station e).config.clearance .backward s.link.period ((s.context e).position.getD 0)
        (-((s.station e).config.backstep : Int)) false ∧
      exec (.play c) s = .next (respond c .play .ok
        (bytesOf 2 t.number ++ positionBytes (some z.position) ++ bytesOf 3 t.cells ++ cueFlagsByte (some z.flags) ++
          bytesOf 1 (playState t z).code)
        ((handled c .play s).updContext e fun x =>
          { x with
            position := some z.position, located := some (s.locate k z.position), flags := some z.flags, state := playState t z }))) ∧
    ((s.context e).state ≠ .paused → exec (.play c) s = .next (respond c .play .ok
      (bytesOf 2 t.number ++ positionBytes (s.context e).position ++ bytesOf 3 t.cells ++ cueFlagsByte (s.context e).flags ++
        bytesOf 1 (s.context e).state.code) (handled c .play s)))

/-- STOP detaches the context of a TYPIST or READBACK station, does nothing to a STOPPED one, and is refused WRONG_STATE in a transfer;
READ_POSITION answers the context and changes nothing (R141, R142). The absent codes answered for a STOPPED context are the model's reading (log
45). That the response of STOP comes after the alerts of the reserve check that the detachment starts is the model's choice (log 32). An override
that a command has no use for is ignored (log 14). -/
def Obligations.StopAndReadPositionComplete : Prop :=
  ∀ (c : Ctl) (e : StationId) (s : State),
    (FromStationPlain c .stop e s →
      ((s.context e).take = none → (s.context e).state ≠ .bulk →
        exec (.stop c) s = .next (respond c .stop .ok [] (handled c .stop s))) ∧
      ((s.context e).take ≠ none → (s.context e).state ≠ .bulk →
        ∃ u, exec (.stop c) s = .next (respond c .stop .ok [] u) ∧ u.context e = stoppedContext (s.context e).mix ∧
          (u.station e).take = (s.station e).take ∧
          (u.station e).state = (if (s.station e).state = .listening then .idle else (s.station e).state) ∧
          ∀ q, q ≠ e → u.context q = s.context q) ∧
      ((s.context e).state = .bulk →
        exec (.stop c) s = .next (respond c .stop .wrongState [] (handled c .stop s)))) ∧
    (FromStation c .readPosition e s →
      exec (.readPosition c) s = .next (respond c .readPosition .ok (contextRecord s e) (handled c .readPosition s)))

/-- LISTEN places a READBACK context behind the live edge of a room's open take, in follow, and the station is LISTENING (R128, R147). That a
backward resolution which ends at an open span's start carries the sealed hold is the model's reading (log 21). The widths of the counts answered
are the model's choice (log 12). That the response comes after the alerts of the reserve check that a released take starts is log 32. -/
def Obligations.ListenCompletes : Prop :=
  ∀ (c : Ctl) (b : Byte) (r : RoomId) (e : StationId) (k : Nat) (t : Take) (s : State), FromStationPlain c .listen e s →
    roomOfByte b = some r → (s.room r).openTake = some k → s.take? k = some t →
    ∃ z u, z = resolveFrom t (s.station e).config.clearance .backward s.link.period t.cells
        (-((s.station e).config.listenDelay : Int)) false ∧
      exec (.listen c b) s = .next (respond c .listen .ok
        (bytesOf 2 t.number ++ positionBytes (some z.position) ++ bytesOf 3 t.cells ++ cueFlagsByte (some z.flags) ++
          bytesOf 1 (playState t z).code) u) ∧
      (u.context e).take = some k ∧ (u.context e).position = some z.position ∧ (u.context e).state = playState t z ∧
      (u.context e).follow = true ∧ (u.context e).link = none ∧ (u.context e).saved = none ∧ (u.context e).notice = none ∧
      (u.context e).flags = some z.flags ∧ (u.station e).state = .listening

/-- ADD_NOTE: with more than 32 entries free the NOTE is placed in the default take and its number and position answered; with fewer it is lost,
counted, and answered TABLE_FULL (R70, R71, R78, R79). A label is cut to its first 12 characters (log 40), and that the answer TABLE_FULL comes
after the MARKERS_LOW notice is the model's choice (log 32). -/
def Obligations.AddNoteCompletes : Prop :=
  ∀ (c : Ctl) (code : Word) (label : List Byte) (given : BitVec 24) (e : StationId) (k p : Nat) (t : Take) (s : State),
    FromStationPlain c .addNote e s → s.defaultTake e = some k → s.take? k = some t → notePosition s e k t given = some p →
    (32 < s.markerPool.free → ∃ m : Marker,
      m = {
        number := 0, kind := .note, position := p, stamp := s.now, source := c.src, code := code, label := label.take 12, late := false,
        gapCycles := 0, offCycles := 0 } ∧
      exec (.addNote c code label given) s = .next (respond c .addNote .ok (bytesOf 2 t.nextMarker ++ bytesOf 3 p)
        { (handled c .addNote s).setTake k (t.withMarker m) with
          markerPool := { s.markerPool with free := s.markerPool.free - 1 } })) ∧
    (s.markerPool.free ≤ 32 → ∃ u, exec (.addNote c code label given) s = .next (respond c .addNote .tableFull [] u) ∧
      u.take? k = some { t with markersLost := min 255 (t.markersLost + 1) } ∧
      u.markerPool = { s.markerPool with annotationsLost := s.markerPool.annotationsLost + 1 } ∧ u.latched .markersLow = true)

/-! ## Console marks -/

/-- An annotation mark with more than 32 entries free joins a marker list: at the live position of the open take for a cycle that R72 places live,
or late for one behind the ring; in the Recorded and Between cases in the take of the governing entry, at its position, else at the next recorded
one of that take, else at that take's cell count, or late in the open take when the governing entry names no live take. With fewer entries free a
live mark is lost and counted (R70 to R74). A label is cut to its first 12 characters (log 40). -/
def Obligations.AnnotationMarkCompletes : Prop :=
  ∀ (kind : AnnotationKind) (m : Mark) (r : RoomId) (k : Nat) (t : Take) (s : State), FromConsole m r s → (s.room r).state ≠ .closed →
    (s.room r).openTake = some k → s.take? k = some t →
    (classify s.currentCycle (s.room r).ring m.cycle = .live → 32 < s.markerPool.free →
      ∃ u, exec (.annotationMark kind m) s = .next u ∧
        u.take? k = some (t.withMarker {
          number := 0, kind := annotationMarkerKind kind, position := t.cells, stamp := s.now, source := m.src,
          code := m.code, label := m.label.take 12, late := false, gapCycles := 0, offCycles := 0 }) ∧
        u.markerPool = { s.markerPool with free := s.markerPool.free - 1 } ∧ u.rooms = s.rooms ∧ u.playback = s.playback ∧
        ∀ j, j ≠ k → u.take? j = s.take? j) ∧
    (classify s.currentCycle (s.room r).ring m.cycle = .behind → 32 < s.markerPool.free →
      ∃ u, exec (.annotationMark kind m) s = .next u ∧
        u.take? k = some (t.withMarker {
          number := 0, kind := annotationMarkerKind kind, position := t.cells, stamp := s.now, source := m.src,
          code := m.code, label := m.label.take 12, late := true, gapCycles := 0, offCycles := 0 }) ∧
        u.markerPool = { s.markerPool with free := s.markerPool.free - 1, lateMarks := s.markerPool.lateMarks + 1 }) ∧
    (∀ (x : RingEntry) (newer : List RingEntry) (stamp : Stamp), 32 < s.markerPool.free →
      ((classify s.currentCycle (s.room r).ring m.cycle = .recorded x newer ∧ stamp = x.stamp) ∨
        (classify s.currentCycle (s.room r).ring m.cycle = .between x newer ∧ stamp = s.now)) →
      (∀ (j : Nat) (tj : Take), x.slot = some j → s.take? j = some tj →
        ∃ u, exec (.annotationMark kind m) s = .next u ∧
          u.take? j = some (tj.withMarker {
            number := 0, kind := annotationMarkerKind kind,
            position := (match x.position with
              | some p => p
              | none => ((newer.find? fun y => y.slot == some j && y.position.isSome).bind RingEntry.position).getD tj.cells),
            stamp := stamp, source := m.src, code := m.code, label := m.label.take 12, late := false, gapCycles := 0, offCycles := 0 }) ∧
          u.markerPool = { s.markerPool with free := s.markerPool.free - 1 } ∧ ∀ i, i ≠ j → u.take? i = s.take? i) ∧
      ((x.slot.bind s.take?) = none →
        ∃ u, exec (.annotationMark kind m) s = .next u ∧
          u.take? k = some (t.withMarker {
            number := 0, kind := annotationMarkerKind kind, position := t.cells, stamp := s.now, source := m.src,
            code := m.code, label := m.label.take 12, late := true, gapCycles := 0, offCycles := 0 }) ∧
          u.markerPool = { s.markerPool with free := s.markerPool.free - 1, lateMarks := s.markerPool.lateMarks + 1 })) ∧
    (classify s.currentCycle (s.room r).ring m.cycle = .live → s.markerPool.free ≤ 32 →
      ∃ u, exec (.annotationMark kind m) s = .next u ∧ u.take? k = some { t with markersLost := min 255 (t.markersLost + 1) } ∧
        u.markerPool = { s.markerPool with annotationsLost := s.markerPool.annotationsLost + 1 } ∧ u.latched .markersLow = true)

/-- GO_OFF_RECORD, GO_ON_RECORD, SEAL and UNSEAL with the entries they need: the room's state and seal change, and the state markers stand at the
live position of the open take (R18, R19, R20, R77). -/
def Obligations.StateMarksComplete : Prop :=
  ∀ (m : Mark) (r : RoomId) (k : Nat) (t : Take) (s : State), FromConsole m r s → (s.room r).openTake = some k → s.take? k = some t →
    ((s.room r).state = .onRecord → (s.room r).sealed = false → 1 ≤ s.markerPool.free →
      ∃ u, exec (.goOffRecord m) s = .next u ∧ u.room r = { s.room r with state := .offRecord, sealed := false, offCycles := 0 } ∧
        u.take? k = some (t.withMarker (plainMarker .offRecordBegin t.cells s.now m.src)) ∧
        u.markerPool = { s.markerPool with free := s.markerPool.free - 1 }) ∧
    ((s.room r).state = .onRecord → (s.room r).sealed = true → 2 ≤ s.markerPool.free →
      ∃ u, exec (.goOffRecord m) s = .next u ∧ u.room r = { s.room r with state := .offRecord, sealed := false, offCycles := 0 } ∧
        u.take? k = some ((t.withMarker (plainMarker .sealEnd t.cells s.now m.src)).withMarker
          (plainMarker .offRecordBegin t.cells s.now m.src)) ∧
        u.markerPool = { s.markerPool with free := s.markerPool.free - 2 }) ∧
    ((s.room r).state = .offRecord → 1 ≤ s.markerPool.free →
      ∃ u, exec (.goOnRecord m) s = .next u ∧ u.room r = { s.room r with state := .onRecord, offCycles := 0 } ∧
        u.take? k = some (t.withMarker
          { plainMarker .offRecordEnd t.cells s.now m.src with offCycles := (s.room r).offCycles }) ∧
        u.markerPool = { s.markerPool with free := s.markerPool.free - 1 }) ∧
    ((s.room r).state = .onRecord → (s.room r).sealed = false → 1 ≤ s.markerPool.free →
      ∃ u, exec (.sealRecord m) s = .next u ∧ u.room r = { s.room r with sealed := true } ∧
        u.take? k = some (t.withMarker (plainMarker .sealBegin t.cells s.now m.src)) ∧
        u.markerPool = { s.markerPool with free := s.markerPool.free - 1 }) ∧
    ((s.room r).state = .onRecord → (s.room r).sealed = true → 1 ≤ s.markerPool.free →
      ∃ u, exec (.unsealRecord m) s = .next u ∧ u.room r = { s.room r with sealed := false } ∧
        u.take? k = some (t.withMarker (plainMarker .sealEnd t.cells s.now m.src)) ∧
        u.markerPool = { s.markerPool with free := s.markerPool.free - 1 })

/-- A console's mark at a CLOSED room, and a state mark its room's state does not take, are refused and counted in MARKS_REFUSED; the room, its
take and the Marker Pool are otherwise as before. A state mark its room takes, with fewer entries free than it needs, is refused in the same way and
MARK_REFUSED is reported. A mark from a node that is no console only adds to NOT_CONSOLE (R17 to R20, R25). -/
def Obligations.MarksAreRefused : Prop :=
  ∀ (i : Instr) (m : Mark) (s : State), s.power = .on →
    ((∃ kind, i = .annotationMark kind m) ∨ i = .goOffRecord m ∨ i = .goOnRecord m ∨ i = .sealRecord m ∨ i = .unsealRecord m ∨
      i = .cutNow m) →
    (s.findConsole m.src = none → exec i s = .next { takenFrom m.port m.src s with notConsole := s.notConsole + 1 }) ∧
    (∀ r : RoomId, s.findConsole m.src = some r →
      ((s.room r).state = .closed ∨ (i = .goOffRecord m ∧ (s.room r).state = .offRecord) ∨
        (i = .goOnRecord m ∧ (s.room r).state = .onRecord) ∨
        (i = .sealRecord m ∧ ((s.room r).state = .offRecord ∨ (s.room r).sealed = true)) ∨
        (i = .unsealRecord m ∧ ((s.room r).state = .offRecord ∨ (s.room r).sealed = false))) →
      exec i s = .next ((takenFrom m.port m.src s).countRoom r fun k => { k with marksRefused := k.marksRefused + 1 })) ∧
    (∀ r : RoomId, s.findConsole m.src = some r →
      ((i = .goOffRecord m ∧ (s.room r).state = .onRecord ∧ s.markerPool.free < (if (s.room r).sealed = true then 2 else 1)) ∨
        (i = .goOnRecord m ∧ (s.room r).state = .offRecord ∧ s.markerPool.free = 0) ∨
        (i = .sealRecord m ∧ (s.room r).state = .onRecord ∧ (s.room r).sealed = false ∧ s.markerPool.free = 0) ∨
        (i = .unsealRecord m ∧ (s.room r).state = .onRecord ∧ (s.room r).sealed = true ∧ s.markerPool.free = 0)) →
      ∃ u, u = reportAlert .markRefused
          ((takenFrom m.port m.src s).countRoom r fun k => { k with marksRefused := k.marksRefused + 1 }) ∧
        exec i s = .next u ∧ u.latched .markRefused = true ∧ u.takeTable = s.takeTable ∧ u.markerPool = s.markerPool ∧
        u.room r = { s.room r with
          counters := { (s.room r).counters with marksRefused := (s.room r).counters.marksRefused + 1 } })

/-! ## The link -/

/-- A frame that fails the soundness check of R167 only adds to CRC_ERRORS of its port. A sound frame whose destination is 0, or whose source is 0
or 255, only adds to BAD_ADDRESS; one whose source is the device's own address only adds to LOOPED (R167, R168). That a frame of fewer than 7 bytes
counts in CRC_ERRORS, and that destination 0 with the device's own source counts in BAD_ADDRESS alone, are the model's readings (logs 29, 50). -/
def Obligations.BadFramesAreCounted : Prop :=
  ∀ (p : Port) (bytes : Frame) (order : SyncOrder) (s : State), s.power = .on →
    (parseFrame bytes = none → exec (.frameArrival p bytes order) s =
      .next (s.updPort p fun q => { q with counters := { q.counters with crcErrors := q.counters.crcErrors + 1 } })) ∧
    (∀ f : Parsed, parseFrame bytes = some f → (f.dst = 0 ∨ f.src = 0 ∨ f.src = 255) →
      exec (.frameArrival p bytes order) s = .next ((received p s).countLink fun k => { k with badAddress := k.badAddress + 1 })) ∧
    (∀ f : Parsed, parseFrame bytes = some f → f.dst ≠ 0 → f.src ≠ 0 → f.src ≠ 255 → f.src = s.link.node →
      exec (.frameArrival p bytes order) s = .next ((received p s).countLink fun k => { k with looped := k.looped + 1 }))

/-- A SYNC frame on the Office Port is discarded in either sync source and OFFICE_SYNC_DISCARDS rises by 1; nothing else changes. One that carries
the device's own address counts as LOOPED instead (R177). -/
def Obligations.OfficeSyncsAreDiscarded : Prop :=
  ∀ (bytes : Frame) (f : Parsed) (order : SyncOrder) (s : State), s.power = .on → parseFrame bytes = some f → f.kind = kindSync →
    f.dst ≠ 0 → f.src ≠ 0 → f.src ≠ 255 →
    (f.src ≠ s.link.node → exec (.frameArrival .office bytes order) s =
      .next ((received .office s).countLink fun k => { k with officeSyncDiscards := k.officeSyncDiscards + 1 })) ∧
    (f.src = s.link.node → exec (.frameArrival .office bytes order) s =
      .next ((received .office s).countLink fun k => { k with looped := k.looped + 1 }))

/-- A frame of another kind for another node is forwarded unchanged to the opposite port, or counted in FORWARD_DROPS when 32 wait there; a frame
for the device that is no CONTROL, MARK or AUDIO frame is discarded as UNTAKEN_KIND. An AUDIO or MARK frame for another node is forwarded, one for
the device is taken, a broadcast one is taken and then forwarded; a SYNC on the Capture Port is taken. Taken, it does what its command does, or is
counted in SHORT_PAYLOAD where it is too short for its kind (R169, R170, R199; the order of the broadcast's taking and forwarding is log 51, and
that a row command stands for its frame is log 3, the objects of an AUDIO payload log 30, a label's cut log 40). -/
def Obligations.OtherFramesPassOn : Prop :=
  (∀ (p : Port) (bytes : Frame) (f : Parsed) (order : SyncOrder) (s : State), s.power = .on → parseFrame bytes = some f → f.dst ≠ 0 →
    f.src ≠ 0 → f.src ≠ 255 → f.src ≠ s.link.node → f.kind ≠ kindSync → f.kind ≠ kindAudio → f.kind ≠ kindMark →
    (f.dst ≠ s.link.node → (s.port (oppositePort p)).forward.length < 32 → ∃ u, exec (.frameArrival p bytes order) s = .next u ∧
      (u.port (oppositePort p)).forward = (s.port (oppositePort p)).forward ++ [⟨s.link.nextSerial, bytes⟩] ∧
      (u.port p).forward = (s.port p).forward) ∧
    (f.dst ≠ s.link.node → 32 ≤ (s.port (oppositePort p)).forward.length → ∃ u, exec (.frameArrival p bytes order) s = .next u ∧
      (u.port (oppositePort p)).forward = (s.port (oppositePort p)).forward ∧
      (u.port p).counters.forwardDrops = (s.port p).counters.forwardDrops + 1) ∧
    (f.dst = s.link.node → f.kind ≠ kindControl → exec (.frameArrival p bytes order) s =
      .next ((received p s).countLink fun k => { k with untakenKind := k.untakenKind + 1 }))) ∧
  (∀ (p : Port) (bytes : Frame) (f : Parsed) (order : SyncOrder) (s : State), s.power = .on → parseFrame bytes = some f → f.dst ≠ 0 →
    f.src ≠ 0 → f.src ≠ 255 → f.src ≠ s.link.node →
    ((f.kind = kindAudio ∨ f.kind = kindMark) →
      (f.dst ≠ s.link.node → f.dst ≠ 255 → exec (.frameArrival p bytes order) s = .next (forward p bytes (received p s))) ∧
      (f.dst = s.link.node → exec (.frameArrival p bytes order) s = takingOf p f order (received p s)) ∧
      (f.dst ≠ s.link.node → f.dst = 255 → ∃ u, takingOf p f order (received p s) = .next u ∧
        exec (.frameArrival p bytes order) s = .next (forward p bytes u))) ∧
    (f.kind = kindSync → p = .capture → exec (.frameArrival p bytes order) s = takingOf p f order (received p s)))

/-- A CONTROL frame for the device that holds a whole command does what that command does with the header, the operands and the override trailer
read from its payload by the layouts of 11.3, on the state with the frame counted as received (R169, R183, R199; that a row command stands for its
frame is log 3, the trailer of WRITE_ENTRY log 15, a label's cut log 40). -/
def Obligations.ControlFrameIsItsCommand : Prop :=
  ∀ (p : Port) (bytes : Frame) (f : Parsed) (cmd : CommandName) (order : SyncOrder) (s : State), parseFrame bytes = some f →
    ForDevice f s → f.kind = kindControl → controlFault f.payload = none → commandOfCode (controlHeader f.payload).1 = some cmd →
    ∃ c : Ctl, c = {
        port := p, src := f.src, tag := BitVec.ofNat 16 (fieldAt f.payload 2 2)
        ovr := if cmd = .writeEntry then none else trailerOf (f.payload.drop (4 + cmd.fieldBytes)) } ∧
      c.tag.toNat = (controlHeader f.payload).2 ∧ control? (controlCommand cmd c (f.payload.drop 4)) = some (c, cmd) ∧
      exec (.frameArrival p bytes order) s = exec (controlCommand cmd c (f.payload.drop 4)) (received p s) ∧
      ∀ u : State, handCommand cmd c (f.payload.drop 4) u = exec (controlCommand cmd c (f.payload.drop 4)) u

/-- A frame built for the wire is read back as it was built (11.1). -/
def Obligations.FramesReadBack : Prop :=
  ∀ (dst src kind : Byte) (payload : List Byte), payload.length ≤ 1024 →
    ∃ crc, parseFrame (mkFrame dst src kind payload) = some ⟨dst, src, kind, payload, crc⟩

/-- TRANSMIT_FRAME: a waiting sync leaves the Office Port first; else whichever head of the originate list and the forward queue entered first;
each frame sent adds to FRAMES_SENT; with nothing waiting nothing happens (R171; the kept frame and serial numbers are log 9, and that the command
stands for a free transmitter is log 37). -/
def Obligations.TransmitFrameCompletes : Prop :=
  ∀ (p : Port) (s : State), s.power = .on →
    (∀ (fr : Frame) (rest : List Frame), p = .office → s.link.syncs = fr :: rest → ∃ u, exec (.transmitFrame p) s = .next u ∧
      u.link.syncs = rest ∧ (u.port p).lastSent = some fr ∧ (u.port p).originate = (s.port p).originate ∧
      (u.port p).forward = (s.port p).forward ∧ (u.port p).counters.framesSent = (s.port p).counters.framesSent + 1) ∧
    ((p = .capture ∨ s.link.syncs = []) →
      (∀ (x : Queued) (xs : List Queued), (s.port p).originate = x :: xs →
        (∀ y ∈ (s.port p).forward.head?, x.serial < y.serial) → ∃ u, exec (.transmitFrame p) s = .next u ∧
        (u.port p).lastSent = some x.frame ∧ (u.port p).originate = xs ∧ (u.port p).forward = (s.port p).forward ∧
        (u.port p).counters.framesSent = (s.port p).counters.framesSent + 1 ∧ u.link.syncs = s.link.syncs) ∧
      (∀ (y : Queued) (ys : List Queued), (s.port p).forward = y :: ys →
        (∀ x ∈ (s.port p).originate.head?, y.serial ≤ x.serial) → ∃ u, exec (.transmitFrame p) s = .next u ∧
        (u.port p).lastSent = some y.frame ∧ (u.port p).forward = ys ∧ (u.port p).originate = (s.port p).originate ∧
        (u.port p).counters.framesSent = (s.port p).counters.framesSent + 1 ∧ u.link.syncs = s.link.syncs) ∧
      ((s.port p).originate = [] → (s.port p).forward = [] → exec (.transmitFrame p) s = .next s))

/-! ## Cycles -/

/-- AUDIO_FRAME takes its objects one after another. In the current cycle, an object of the period's sample count, mapped to an empty granule slot
of an open room, fills that slot; one of another size or cut short counts as WRONG_SIZE, one the ingest map does not map as UNMAPPED, one for a
CLOSED room or a track it has not as INACTIVE, one whose slot is filled as DUPLICATE, and each of these changes nothing else. Outside the current
cycle every object counts as OUT_OF_CYCLE (R6 to R9). That an object cut short counts as WRONG_SIZE comes from R199; how a payload is read as
objects is log 30. -/
def Obligations.AudioFrameCompletes : Prop :=
  ∀ (p : Port) (src : Byte) (cycle : Word) (s : State), s.power = .on →
    (∀ (channel : Byte) (samples : List Word) (x : IngestEntry), s.link.source = .repeating → s.currentCycle = some cycle →
      samples.length = s.link.period.samples → s.ingestMatch src channel = some x → x.action = .map →
      ((s.room x.room).state ≠ .closed → x.track ≤ (s.room x.room).config.tracks →
        (s.room x.room).assembly[x.track - 1]?.join = none →
        exec (.audioFrame p src cycle [.whole channel samples]) s = .next ((takenFrom p src s).updRoom x.room fun rm =>
          { rm with assembly := rm.assembly.set (x.track - 1) (some samples) })) ∧
      (((s.room x.room).state = .closed ∨ (s.room x.room).config.tracks < x.track) →
        exec (.audioFrame p src cycle [.whole channel samples]) s = .next { takenFrom p src s with
          ingestCounters := { s.ingestCounters with inactive := s.ingestCounters.inactive + 1 } }) ∧
      ((s.room x.room).state ≠ .closed → x.track ≤ (s.room x.room).config.tracks →
        (s.room x.room).assembly[x.track - 1]?.join ≠ none →
        exec (.audioFrame p src cycle [.whole channel samples]) s = .next { takenFrom p src s with
          ingestCounters := { s.ingestCounters with duplicate := s.ingestCounters.duplicate + 1 } })) ∧
    (∀ o : AudioObject, s.link.source = .repeating → s.currentCycle = some cycle →
      (o = .cutShort ∨ ∃ channel samples, o = .whole channel samples ∧ samples.length ≠ s.link.period.samples) →
      exec (.audioFrame p src cycle [o]) s = .next { takenFrom p src s with
        ingestCounters := { s.ingestCounters with wrongSize := s.ingestCounters.wrongSize + 1 } }) ∧
    (∀ (channel : Byte) (samples : List Word), s.link.source = .repeating → s.currentCycle = some cycle →
      samples.length = s.link.period.samples → (∀ x, s.ingestMatch src channel = some x → x.action ≠ .map) →
      exec (.audioFrame p src cycle [.whole channel samples]) s = .next { takenFrom p src s with
        ingestCounters := { s.ingestCounters with unmapped := s.ingestCounters.unmapped + 1 } }) ∧
    (∀ (os os' : List AudioObject) (u : State), exec (.audioFrame p src cycle os) s = .next u →
      exec (.audioFrame p src cycle (os ++ os')) s = exec (.audioFrame p src cycle os') u) ∧
    (∀ os : List AudioObject, (s.link.source = .localSource ∨ s.currentCycle ≠ some cycle) →
      exec (.audioFrame p src cycle os) s = .next { takenFrom p src s with
        ingestCounters := { s.ingestCounters with outOfCycle := s.ingestCounters.outOfCycle + BitVec.ofNat 32 os.length } })

/-- A capture sync, in REPEATING or returning from LOCAL, in either order of R172's steps: it is repeated unchanged for the Office Port, its
number is the office-side and the current capture cycle, the sync-loss timer starts anew. In REPEATING every room's cell is closed, ascending,
with the skipped count (a first sync begins each cell instead); after LOCAL every room begins an empty cell. Each context delivers, in station-
table order, and both ports' held responses join their originate lists in queue order (R9, R10, R14, R15, R132, R172, R173, R176, R178, R192; the
order of the steps is log 8, of the frames log 26, the STATUS frame within the sync log 43, the row's source log 36). -/
def Obligations.CaptureSyncsComplete : Prop :=
  ∀ (f : SyncFrame) (order : SyncOrder) (i : Instr) (s : State), s.power = .on → (i = .captureSync f order ∨ i = .syncReturn f order) →
    ∃ u, exec i s = .next u ∧ u.link.source = .repeating ∧ u.link.previousSync = some f.cycle ∧ u.currentCycle = some f.cycle ∧
      u.link.officeCycle = some f.cycle ∧ u.link.syncs = s.link.syncs ++ [syncFrameBytes f] ∧
      u.link.lossTimer = some (ticksOfMs s.timeouts.syncLoss) ∧ (∀ q : Port, ∃ later, HeldJoined q later s u) ∧
      (s.link.source = .repeating →
        u = syncRuns f order
          (match s.currentCycle with
            | some n => closeCell n (skippedCount s.link.previousSync f.cycle)
            | none => beginCell)
          { takenFrom .capture f.src s with
            link := { s.link with
              previousSync := some f.cycle, lossTimer := some (ticksOfMs s.timeouts.syncLoss),
              syncs := s.link.syncs ++ [syncFrameBytes f], officeCycle := some f.cycle,
              counters := { s.link.counters with
                cyclesSkipped := s.link.counters.cyclesSkipped + BitVec.ofNat 32 (skippedCount s.link.previousSync f.cycle),
                syncRenumbered :=
                  if renumbered s.link.previousSync f.cycle then s.link.counters.syncRenumbered + 1 else s.link.counters.syncRenumbered } } }) ∧
      (s.link.source = .localSource →
        u = syncRuns f order beginCell { takenFrom .capture f.src s with
          link := { s.link with
            source := .repeating, interval := none, previousSync := some f.cycle, lossTimer := some (ticksOfMs s.timeouts.syncLoss),
            syncs := s.link.syncs ++ [syncFrameBytes f], officeCycle := some f.cycle } })

/-- The close of a cell. ON_RECORD below its length limit, with room in the take's last page: the cell, silent where no granule came, is written
at the page's fill and can be read there; a waiting gap becomes a GAP marker at the cell's position, or, with no entry free, stays and MARKERS_LOW is
reported. With that page full, the head of the free page queue becomes the last page; with no page yet, the first and the last. A store that brings
the take to the length limit asks for a cut with cause LENGTH, made or deferred. With a page needed and none free the cell is dropped with cause STORE
and NO_PAGE rises; at the length limit it is dropped with cause LENGTH. OFF_RECORD, the cycle is an off cycle. Each adds an entry to the history ring.
The skipped count of the sync is then added to the gap and to CYCLES_LOST, or to the off cycles. A deferred cut is tried first: made, with cause
DEFERRED, the close goes on in the successor, whose first cell it stores; not made, it stays, uncounted and unreported (R10 to R14, R23, R29 to R31,
R58, R77, R82). -/
def Obligations.CellsClose : Prop :=
  (∀ (r : RoomId) (k : Nat) (t : Take) (cycle : Word) (s : State), (s.room r).openTake = some k → s.take? k = some t →
    ((s.room r).deferred = none ∨ s.lowestFreeSlot = none ∨ s.markerPool.free < (s.room r).cutNeeds .deferred) →
    (∀ (n : Nat) (pg : Page), (s.room r).state = .onRecord → t.cells + 1 < (s.room r).config.lengthLimit → (s.room r).gap = 0 →
      t.lastPage = some n → s.page? n = some pg → pg.owner = k → pg.cells.length = pg.fill → pg.fill < 256 →
      ∃ u cell, u = closeCell cycle 0 r s ∧ cell = (s.room r).assembly.map (fun g => g.getD (silentGranule s.link.period)) ∧
        u.take? k = some { t with cells := t.cells + 1 } ∧ u.readCell k n pg.fill = some cell ∧
        (∀ j, j < pg.fill → u.readCell k n j = s.readCell k n j) ∧ (∀ m, m ≠ n → u.page? m = s.page? m) ∧
        u.store.freePages = s.store.freePages ∧ (∀ j, j ≠ k → u.take? j = s.take? j) ∧
        u.room r = { s.room r with
          overrun := none, assembly := emptyAssembly (s.room r).config.tracks,
          ring := ringAdd (s.room r).ring ⟨cycle, some k, some t.cells, s.now⟩,
          counters := { (s.room r).counters with
            cellsStored := (s.room r).counters.cellsStored + 1,
            missing := (s.room r).counters.missing + BitVec.ofNat 32 (s.room r).missingNow } }) ∧
    (∀ (n : Nat) (pg : Page), (s.room r).state = .onRecord → t.cells + 1 < (s.room r).config.lengthLimit → 0 < (s.room r).gap →
      t.lastPage = some n → s.page? n = some pg → pg.owner = k → pg.cells.length = pg.fill → pg.fill < 256 →
      ∃ u cell, u = closeCell cycle 0 r s ∧ cell = (s.room r).assembly.map (fun g => g.getD (silentGranule s.link.period)) ∧
        u.readCell k n pg.fill = some cell ∧ (u.room r).ring = ringAdd (s.room r).ring ⟨cycle, some k, some t.cells, s.now⟩ ∧
        (0 < s.markerPool.free → (u.room r).gap = 0 ∧ u.markerPool = { s.markerPool with free := s.markerPool.free - 1 } ∧
          u.take? k = some ({ t with cells := t.cells + 1 }.withMarker
            { plainMarker .gap t.cells s.now s.link.node with gapCycles := (s.room r).gap })) ∧
        (s.markerPool.free = 0 → (u.room r).gap = min 65535 (s.room r).gap ∧ u.markerPool = s.markerPool ∧
          u.take? k = some { t with cells := t.cells + 1 } ∧ u.latched .markersLow = true)) ∧
    (∀ (n : Nat) (pg : Page), (s.room r).state = .onRecord → t.cells + 1 = (s.room r).config.lengthLimit → (s.room r).gap = 0 →
      (s.room r).deferred = none → t.lastPage = some n → s.page? n = some pg → pg.owner = k → pg.cells.length = pg.fill → pg.fill < 256 →
      ∃ w u cell, u = closeCell cycle 0 r s ∧ cell = (s.room r).assembly.map (fun g => g.getD (silentGranule s.link.period)) ∧
        w.take? k = some { t with cells := t.cells + 1 } ∧ w.readCell k n pg.fill = some cell ∧
        w.room r = { s.room r with
          overrun := none, ring := ringAdd (s.room r).ring ⟨cycle, some k, some t.cells, s.now⟩,
          counters := { (s.room r).counters with
            cellsStored := (s.room r).counters.cellsStored + 1,
            missing := (s.room r).counters.missing + BitVec.ofNat 32 (s.room r).missingNow } } ∧
        u = ((requestCut r .length s.link.node w).1.updRoom r fun x => { x with assembly := emptyAssembly x.config.tracks }) ∧
        (∀ k' : Nat, s.lowestFreeSlot = some k' → (s.room r).cutNeeds .length ≤ s.markerPool.free →
          CutMade r k k' { t with cells := t.cells + 1 } .length s.link.node w (requestCut r .length s.link.node w).1) ∧
        ((s.lowestFreeSlot = none ∨ s.markerPool.free < (s.room r).cutNeeds .length) →
          (u.room r).deferred = some .length ∧ u.take? k = some { t with cells := t.cells + 1 } ∧ u.latched .cutDeferred = true)) ∧
    (∀ (n old : Nat) (rest : List Nat) (pg : Page), (s.room r).state = .onRecord → t.cells + 1 < (s.room r).config.lengthLimit →
      t.lastPage = some old → s.page? old = some pg → 256 ≤ pg.fill → s.store.freePages = n :: rest → n ≠ old →
      s.store.pageReserve ≤ rest.length → Config.slotReserve ≤ s.freeSlots → mapWf s.takeTable.takes →
      ∃ u cell, u = closeCell cycle 0 r s ∧ cell = (s.room r).assembly.map (fun g => g.getD (silentGranule s.link.period)) ∧
        u.page? n = some { next := none, fill := 1, owner := k, cells := [cell] } ∧ u.page? old = some { pg with next := some n } ∧
        u.store.freePages = rest ∧ u.store.counters.pagesAllocated = s.store.counters.pagesAllocated + 1 ∧
        ∃ t', u.take? k = some t' ∧ t'.cells = t.cells + 1 ∧ t'.lastPage = some n) ∧
    (∀ (n : Nat) (rest : List Nat), (s.room r).state = .onRecord → t.cells + 1 < (s.room r).config.lengthLimit →
      t.firstPage = none → t.lastPage = none → s.store.freePages = n :: rest → s.store.pageReserve ≤ rest.length →
      Config.slotReserve ≤ s.freeSlots → mapWf s.takeTable.takes →
      ∃ u cell, u = closeCell cycle 0 r s ∧ cell = (s.room r).assembly.map (fun g => g.getD (silentGranule s.link.period)) ∧
        u.page? n = some { next := none, fill := 1, owner := k, cells := [cell] } ∧ u.store.freePages = rest ∧
        u.store.counters.pagesAllocated = s.store.counters.pagesAllocated + 1 ∧
        ∃ t', u.take? k = some t' ∧ t'.cells = t.cells + 1 ∧ t'.firstPage = some n ∧ t'.lastPage = some n) ∧
    ((s.room r).state = .onRecord → t.cells < (s.room r).config.lengthLimit → s.store.freePages = [] →
      (∀ pg, t.lastPage.bind s.page? = some pg → 256 ≤ pg.fill) →
      ∃ u, u = closeCell cycle 0 r s ∧ u.take? k = some t ∧
        u.store = { s.store with counters := { s.store.counters with noPage := s.store.counters.noPage + 1 } } ∧
        (u.room r).gap = min 65535 ((s.room r).gap + 1) ∧
        (u.room r).counters.cellsDropped = (s.room r).counters.cellsDropped + 1 ∧ (u.room r).overrun.map Overrun.cause = some .store ∧
        (u.room r).ring = ringAdd (s.room r).ring ⟨cycle, some k, none, s.now⟩ ∧
        ((s.room r).overrun = none → u.latched .overrun = true)) ∧
    ((s.room r).state = .onRecord → (s.room r).config.lengthLimit ≤ t.cells →
      ∃ u, u = closeCell cycle 0 r s ∧ u.take? k = some t ∧ u.store = s.store ∧ (u.room r).gap = min 65535 ((s.room r).gap + 1) ∧
        (u.room r).counters.cellsDropped = (s.room r).counters.cellsDropped + 1 ∧ (u.room r).overrun.map Overrun.cause = some .length ∧
        (u.room r).ring = ringAdd (s.room r).ring ⟨cycle, some k, none, s.now⟩ ∧
        ((s.room r).overrun = none → u.latched .overrun = true)) ∧
    ((s.room r).state = .offRecord →
      closeCell cycle 0 r s = s.updRoom r fun x =>
        { x with
          offCycles := min 65535 (x.offCycles + 1), ring := ringAdd x.ring ⟨cycle, some k, none, s.now⟩,
          assembly := emptyAssembly x.config.tracks }) ∧
    (∀ n : Nat, closeCell cycle n r s = (closeCell cycle 0 r s).updRoom r fun x =>
      match x.state with
      | .closed => x
      | .onRecord =>
        { x with
          gap := min 65535 (x.gap + n), counters := { x.counters with cyclesLost := x.counters.cyclesLost + BitVec.ofNat 32 n } }
      | .offRecord => { x with offCycles := min 65535 (x.offCycles + n) }) ∧
    ((s.room r).deferred ≠ none → ((closeCell cycle 0 r s).room r).deferred = (s.room r).deferred ∧
      (closeCell cycle 0 r s).takeTable.counters.deferredCuts = s.takeTable.counters.deferredCuts ∧
      (closeCell cycle 0 r s).latched .cutDeferred = s.latched .cutDeferred)) ∧
  (∀ (r : RoomId) (k k' : Nat) (t : Take) (cause : CutCause) (cycle : Word) (skipped : Nat) (s : State), (s.room r).state ≠ .closed →
    (s.room r).openTake = some k → s.take? k = some t → (s.room r).deferred = some cause → s.lowestFreeSlot = some k' →
    (s.room r).cutNeeds .deferred ≤ s.markerPool.free →
    ∃ v, v = (tryCut r .deferred s.link.node s).1 ∧ CutMade r k k' t .deferred s.link.node s v ∧
      closeCell cycle skipped r s = closeCell cycle skipped r (v.updRoom r fun x => { x with deferred := none }) ∧
      (1 < (s.room r).config.lengthLimit → ((closeCell cycle skipped r s).room r).deferred = none) ∧
      ∀ (n : Nat) (rest : List Nat), (s.room r).state = .onRecord → 1 < (s.room r).config.lengthLimit → v.store.freePages = n :: rest →
        ∃ t', (closeCell cycle skipped r s).take? k' = some t' ∧ t'.lifecycle = .open ∧ t'.cells = 1 ∧ t'.firstPage = some n ∧
          t'.lastPage = some n)

/-- The skipped count of a capture sync in REPEATING, by the distance from the previous number, with its counters; whatever the distance it still
closes the current capture cycle in every room, with that count, and is still repeated (R173). The order of that sync's steps, and of the releases
after them, is the model's (logs 8, 26, 43). -/
def Obligations.SkippedCountsFollowTheDistance : Prop :=
  ∀ (f : SyncFrame) (order : SyncOrder) (s : State), s.power = .on → s.link.source = .repeating →
    ∃ u, exec (.captureSync f order) s = .next u ∧ u.currentCycle = some f.cycle ∧
      u.link.syncs = s.link.syncs ++ [syncFrameBytes f] ∧
      (∀ n : Word, s.currentCycle = some n → ∃ w, u = syncRuns f order (closeCell n (skippedCount s.link.previousSync f.cycle)) w ∧
        w.rooms = s.rooms ∧ w.takeTable = s.takeTable ∧ w.store = s.store ∧ w.markerPool = s.markerPool ∧ w.playback = s.playback) ∧
      (s.link.previousSync = none → skippedCount s.link.previousSync f.cycle = 0 ∧
        u.link.counters.cyclesSkipped = s.link.counters.cyclesSkipped ∧ u.link.counters.syncRenumbered = s.link.counters.syncRenumbered) ∧
      ∀ n : Word, s.link.previousSync = some n →
        ((f.cycle - n).toNat = 1 → skippedCount s.link.previousSync f.cycle = 0 ∧
          u.link.counters.cyclesSkipped = s.link.counters.cyclesSkipped ∧
          u.link.counters.syncRenumbered = s.link.counters.syncRenumbered) ∧
        (2 ≤ (f.cycle - n).toNat → (f.cycle - n).toNat ≤ 32768 →
          skippedCount s.link.previousSync f.cycle = (f.cycle - n).toNat - 1 ∧
          u.link.counters.cyclesSkipped = s.link.counters.cyclesSkipped + BitVec.ofNat 32 ((f.cycle - n).toNat - 1) ∧
          u.link.counters.syncRenumbered = s.link.counters.syncRenumbered) ∧
        ((f.cycle - n).toNat = 0 ∨ 32769 ≤ (f.cycle - n).toNat → skippedCount s.link.previousSync f.cycle = 0 ∧
          u.link.counters.cyclesSkipped = s.link.counters.cyclesSkipped ∧
          u.link.counters.syncRenumbered = s.link.counters.syncRenumbered + 1)

/-- SYNC_LOSS_EXPIRY of a timer that has run out makes the source LOCAL, empties every open room's cell under assembly, produces the first local
sync and reports SYNC_LOST; LOCAL_SYNC in LOCAL produces the next. Each takes the number after the office-side cycle number; each ON_RECORD room
loses a cycle, each OFF_RECORD room counts an off cycle, every context delivers in station-table order, and the Office Port's held responses join
its originate list (R15, R132, R174, R175, R178, R192; the absent number is log 6, the order log 26). STATUS_FRAME when the interval has run out:
the count starts anew, and with a destination one STATUS frame joins its port's list and is counted; with destination 0 none is sent (R196). That
its entry count takes 1 byte, that an absent office-side cycle number is coded 0, and that the row also serves a CYCLES count left at its period are
the model's (logs 12, 38, 43). -/
def Obligations.LocalSyncsAndStatusComplete : Prop :=
  (∀ (n : Word) (s : State), s.power = .on → n = (s.link.officeCycle.map (· + 1)).getD 0 →
      (s.link.source = .repeating → s.link.lossTimer = some 0 → ∃ u, exec .syncLossExpiry s = .next u ∧ u.link.source = .localSource ∧
        u.link.lossTimer = none ∧ u.link.previousSync = s.link.previousSync ∧
        u.link.counters.syncLosses = s.link.counters.syncLosses + 1 ∧ u.link.counters.localSyncs = s.link.counters.localSyncs + 1 ∧
        u.link.officeCycle = some n ∧ u.link.syncs.length = s.link.syncs.length + 1 ∧
        u.link.interval = some s.link.period ∧ u.latched .syncLost = true ∧
        (∀ r : RoomId, (s.room r).state ≠ .closed → (u.room r).assembly = emptyAssembly (s.room r).config.tracks) ∧
        u = reportAlert .syncLost ((localSyncRuns (forEach allRooms beginCell { s with
          link := localSyncMade n { s.link with source := .localSource, lossTimer := none } })).countLink
            fun k => { k with syncLosses := k.syncLosses + 1 })) ∧
      (s.link.source = .localSource → ∃ u, exec .localSync s = .next u ∧ u.link.source = .localSource ∧
        u.link.counters.localSyncs = s.link.counters.localSyncs + 1 ∧
        u.link.officeCycle = some n ∧ u.link.syncs.length = s.link.syncs.length + 1 ∧
        u.link.interval = some s.link.period ∧ u.currentCycle = s.currentCycle ∧
        (∀ r : RoomId, ((s.room r).state = .onRecord → (u.room r).gap = min 65535 ((s.room r).gap + 1) ∧
            (u.room r).counters.cyclesLost = (s.room r).counters.cyclesLost + 1) ∧
          ((s.room r).state = .offRecord → (u.room r).offCycles = min 65535 ((s.room r).offCycles + 1))) ∧
        (∃ later, HeldJoined .office later s u) ∧ u = localSyncRuns { s with link := localSyncMade n s.link })) ∧
  (∀ s : State, s.power = .on → s.statusDue = true →
      ∃ u, exec .statusFrame s = .next u ∧ u.mgmt.statusCount = s.timeouts.freshCount ∧
        (s.timeouts.statusDest = 0 → u.link = s.link ∧ u.mgmt.counters = s.mgmt.counters) ∧
        (s.timeouts.statusDest ≠ 0 → u.mgmt.counters.statusFrames = s.mgmt.counters.statusFrames + 1 ∧
          ((s.port s.timeouts.statusPort).originate.length < 512 →
            (u.port s.timeouts.statusPort).originate = (s.port s.timeouts.statusPort).originate ++
              [⟨s.link.nextSerial, mkFrame s.timeouts.statusDest s.link.node kindStatus s.statusPayload⟩])))

/-! ## Rules of resolution and delivery -/

/-- A duration in ms is the count of cycles whose magnitude is (|ms| × 1000 + P/2) div P with the duration's sign; at each period its distance
from the exact quotient is at most half a cycle (R118). -/
def Obligations.DurationsRoundToTheNearestCycle : Prop :=
  ∀ (p : CyclePeriod) (ms : Int),
    (cyclesOfMs p.us ms).natAbs = (ms.natAbs * 1000 + p.us / 2) / p.us ∧ (0 ≤ ms → 0 ≤ cyclesOfMs p.us ms) ∧
    (ms ≤ 0 → cyclesOfMs p.us ms ≤ 0) ∧ cyclesOfMs p.us (-ms) = -cyclesOfMs p.us ms ∧
    2 * (cyclesOfMs p.us ms * p.us - ms * 1000).natAbs ≤ p.us

/-- A context in its turn at an office-side sync. STOPPED, PAUSED, or in BULK without credit, it does nothing. Playing or held before the end, at
a position in no sealed span or of a station with clearance, it sends the cell, marked SEALED in a span, and moves on by one; at the live edge of
an open take it is HELD_LIVE; at the end of a closed take, without follow, it sends END_OF_TAKE and is PAUSED. A notice point at the cell sent or
at the end is reached. With follow it moves at the end to the linked take of the same room and goes on there: it sends that take's cell 0, or is
HELD_LIVE where the take is OPEN with no cell, or HELD_SEALED where it begins with an open span and the station has no clearance; with no such
take it is detached with END_OF_TAKE. In BULK each item uses one credit, at most 8 at a sync: the markers by number, then the cell at the position
with every track, END_OF_TAKE following the last cell. SEPARATE carries the masked tracks unmixed, MONO their weighted sum over 16, rounded down
and saturated (R130, R132, R133, R135 to R137, R143 to R145, R148). What a follow move clears is log 22, and that END_OF_TAKE comes after the
alerts of a detachment's reserve check is the model's choice (log 28). -/
def Obligations.ContextsDeliver : Prop :=
  (∀ (e : StationId) (s : State),
    ((s.context e).state = .stopped ∨ (s.context e).state = .paused ∨ ((s.context e).state = .bulk ∧ (s.context e).credits = 0)) →
    deliverContext e s = s) ∧
  (∀ (e : StationId) (k p : Nat) (t : Take) (s : State), (s.context e).take = some k → s.take? k = some t →
    (s.context e).position = some p → ((s.station e).config.clearance = true ∨ t.spanAt p = none) →
    ((s.context e).state = .playing ∨ (s.context e).state = .heldLive ∨ (s.context e).state = .heldSealed) →
    (∀ (n o : Nat) (cell : AudioCell), p < t.cells →
      ((s.context e).located = some (.page n o) ∨ ((s.context e).located = some .atEnd ∧ s.locate k p = .page n o)) →
      s.readCell k n (p % 256) = some cell →
      ∃ u, deliverContext e s = u ∧
        u.context e = { s.context e with
          state := .playing, position := some (p + 1), located := some (s.locate k (p + 1)),
          notice := if (s.context e).notice = some p then none else (s.context e).notice } ∧
        ((s.context e).notice ≠ some p → s.link.officePort.originate.length < 512 →
          u.link.officePort.originate = s.link.officePort.originate ++ [⟨s.link.nextSerial, s.cellFrame e t p cell⟩] ∧
          u.link.capturePort = s.link.capturePort) ∧
        ((∀ q : Port, (s.port q).originate.length < 511) → ∀ q : Port, FramesAdded q
          ((if q = .office then [s.cellFrame e t p cell] else []) ++
            (if q = (s.station e).lastPort ∧ (s.context e).notice = some p then [s.noticePointFrame e t p (p + 1)] else [])) s u) ∧
        u.playback.counters.cellsPlayed = s.playback.counters.cellsPlayed + 1 ∧ u.takeTable = s.takeTable ∧ u.store = s.store ∧
        ∀ q, q ≠ e → u.context q = s.context q) ∧
    (p = t.cells → t.lifecycle = .open → deliverContext e s = s.updContext e fun x => { x with state := .heldLive }) ∧
    (p = t.cells → t.lifecycle ≠ .open → (s.context e).follow = false →
      ∃ u, deliverContext e s = u ∧
        u.context e = { s.context e with
          state := .paused, notice := if (s.context e).notice = some p then none else (s.context e).notice } ∧
        ((s.port (s.station e).lastPort).originate.length < 511 → FramesAdded (s.station e).lastPort
          ((if (s.context e).notice = some p then [s.noticePointFrame e t p p] else []) ++ [s.endFrame e t p .ended]) s u) ∧
        u.playback.counters.endOfTakeNotices = s.playback.counters.endOfTakeNotices + 1 ∧
        u.playback.counters.cellsPlayed = s.playback.counters.cellsPlayed ∧ u.takeTable = s.takeTable ∧ u.store = s.store) ∧
    (∀ (n k' : Nat) (t' : Take), p = t.cells → t.lifecycle ≠ .open → (s.context e).follow = true → (s.context e).link = some n →
      s.findTake n = some (k', t') → s.take? k' = some t' → t'.room = t.room →
      (t'.lifecycle = .open → t'.cells = 0 → ((s.station e).config.clearance = true ∨ t'.spanAt 0 = none) →
        ∃ u, deliverContext e s = u ∧ (u.context e).take = some k' ∧ (u.context e).state = .heldLive ∧
          (u.context e).position = some 0 ∧ (u.context e).follow = true ∧ (u.context e).link = none ∧ (u.context e).saved = none ∧
          (u.context e).notice = none ∧ (u.context e).flags = none ∧ (u.context e).mix = (s.context e).mix ∧
          (∃ t'', u.take? k' = some t'' ∧ t''.pins = t'.pins + 1) ∧
          u.playback.counters.endOfTakeNotices = s.playback.counters.endOfTakeNotices) ∧
      (∀ x : Span, (s.station e).config.clearance = false → t'.spanAt 0 = some x → x.stop = none →
        ∃ u, deliverContext e s = u ∧ (u.context e).take = some k' ∧ (u.context e).state = .heldSealed ∧
          (u.context e).position = some 0 ∧ (u.context e).follow = true ∧ (u.context e).link = none ∧
          u.playback.counters.cellsPlayed = s.playback.counters.cellsPlayed) ∧
      (∀ (n' o : Nat) (cell : AudioCell), 0 < t'.cells → ((s.station e).config.clearance = true ∨ t'.spanAt 0 = none) →
        s.locate k' 0 = .page n' o → s.readCell k' n' 0 = some cell →
        (t.lifecycle = .closed ∨ (s.reserveUnmet = false ∧ mapWf s.takeTable.takes)) →
        ∃ u, deliverContext e s = u ∧
          u.context e = {
            state := .playing, take := some k', position := some 1, located := some (s.locate k' 1), saved := none, notice := none,
            mix := (s.context e).mix, follow := true, link := none, credits := 0, markersSent := 0, flags := none } ∧
          ((∀ q : Port, (s.port q).originate.length < 511) → ∀ q : Port, FramesAdded q
            ((if q = (s.station e).lastPort ∧ (s.context e).notice = some p then [s.noticePointFrame e t p p] else []) ++
              (if q = .office then [s.cellFrame e t' 0 cell] else [])) s u) ∧
          u.playback.counters.cellsPlayed = s.playback.counters.cellsPlayed + 1 ∧
          u.playback.counters.endOfTakeNotices = s.playback.counters.endOfTakeNotices)) ∧
    (p = t.cells → t.lifecycle ≠ .open → (s.context e).follow = true →
      (∀ (n k' : Nat) (t' : Take), (s.context e).link = some n → s.findTake n = some (k', t') → t'.room ≠ t.room) →
      ∃ u, deliverContext e s = u ∧ u.context e = stoppedContext (s.context e).mix ∧
        (u.station e).state = (if (s.station e).state = .listening then .idle else (s.station e).state) ∧
        ((u.port (s.station e).lastPort).originate.length < 512 →
          ∃ earlier, FramesAdded (s.station e).lastPort (earlier ++ [s.endFrame e t p .followEnded]) s u) ∧
        u.playback.counters.endOfTakeNotices = s.playback.counters.endOfTakeNotices + 1)) ∧
  (∀ (e : StationId) (k p : Nat) (t : Take) (s : State), (s.context e).state = .bulk → (s.context e).take = some k →
    s.take? k = some t → (s.context e).position = some p →
    (t.cells ≤ p → deliverContext e s = s) ∧
    (∃ u, deliverContext e s = u ∧ (u.context e).credits ≤ (s.context e).credits ∧ (s.context e).credits ≤ (u.context e).credits + 8 ∧
      (u.context e).position.getD 0 + (u.context e).markersSent + (u.context e).credits =
        p + (s.context e).markersSent + (s.context e).credits ∧
      u.playback.counters.cellsSentBulk + u.playback.counters.markersSent =
        s.playback.counters.cellsSentBulk + s.playback.counters.markersSent +
          BitVec.ofNat 32 ((s.context e).credits - (u.context e).credits)) ∧
    (∀ m : Marker, (s.context e).credits = 1 → p < t.cells → (s.context e).markersSent < t.markers.length →
      (t.markers.find? fun x => x.number == (s.context e).markersSent + 1) = some m → s.link.officePort.originate.length < 512 →
      ∃ u, deliverContext e s = u ∧
        u.context e = { s.context e with credits := 0, markersSent := (s.context e).markersSent + 1 } ∧
        u.link.officePort.originate = s.link.officePort.originate ++
          [⟨s.link.nextSerial, mkFrame (s.station e).config.node s.link.node kindPlayback
            (bytesOf 2 t.number ++ bytesOf 3 16777215 ++ [4, 0] ++ m.bytes)⟩] ∧
        u.playback.counters.markersSent = s.playback.counters.markersSent + 1 ∧ u.takeTable = s.takeTable) ∧
    (∀ (n o : Nat) (cell : AudioCell), (s.context e).credits = 1 → p < t.cells → t.markers.length ≤ (s.context e).markersSent →
      ((s.context e).located = some (.page n o) ∨ ((s.context e).located = some .atEnd ∧ s.locate k p = .page n o)) →
      s.readCell k n (p % 256) = some cell → s.link.officePort.originate.length < 512 →
      ∃ u rest, deliverContext e s = u ∧
        u.context e = { s.context e with credits := 0, position := some (p + 1), located := some (s.locate k (p + 1)) } ∧
        u.link.officePort.originate = s.link.officePort.originate ++
          ⟨s.link.nextSerial, mkFrame (s.station e).config.node s.link.node kindPlayback
            (cellPayload t p (t.spanAt p).isSome false ((List.range' 1 t.tracks).map fun j => (j, cell[j - 1]?.getD [])))⟩ :: rest ∧
        (p + 1 ≠ t.cells → rest = []) ∧ u.playback.counters.cellsSentBulk = s.playback.counters.cellsSentBulk + 1 ∧
        u.playback.counters.endOfTakeNotices =
          s.playback.counters.endOfTakeNotices + (if p + 1 = t.cells then 1 else 0) ∧ u.takeTable = s.takeTable)) ∧
  (∀ (m : Mix) (t : Take) (cell : AudioCell),
    (m.mode = .separate → mixGranules m t cell =
      ((List.range' 1 t.tracks).filter fun i => m.mask.getLsbD (i - 1)).map fun i => (i, cell[i - 1]?.getD [])) ∧
    (m.mode = .mono → ∃ g : Granule, mixGranules m t cell = [(0, g)] ∧ g.length = t.period.samples ∧
      ∀ (j : Nat) (q : Int), j < t.period.samples → 16 * q ≤ mixTotal m t cell j → mixTotal m t cell j < 16 * q + 16 →
        (g[j]?.getD 0).toInt = max (-32768) (min 32767 q)))

/-- For a station without clearance, sealed passing ends at a position in no sealed span, with the cells passed over counted in CELLS_WITHHELD, or
holds the context at the start of an open one; it never moves the context back otherwise. Delivery applies it first: in an open span the context
is HELD_SEALED and sends nothing; from a closed one it goes on in the same sync, to the cell at its end where that is stored. A notice point that
it moves beyond, from below, is reached: one NOTICE_POINT joins the station's last port's originate list and the notice point is absent; any other
notice point stays (R120, R133, R143; that touching spans are passed in one move is log 20, and the position that the notice carries is the
model's choice, log 47). -/
def Obligations.SealedPassingClearsTheSpans : Prop :=
  (∀ (e : StationId) (k : Nat) (t : Take) (s : State) (p : Nat), (s.context e).take = some k → (s.context e).position = some p →
    ∀ u held, passSealed (t.spans.length + 1) e k t s = (u, held) →
      (held = false → ∃ p', (u.context e).position = some p' ∧ p ≤ p' ∧ t.spanAt p' = none ∧
        u.playback.counters.cellsWithheld = s.playback.counters.cellsWithheld + BitVec.ofNat 32 (p' - p)) ∧
      (held = true → (u.context e).state = .heldSealed ∧
        ∃ x ∈ t.spans, x.stop = none ∧ (u.context e).position = some x.first) ∧
      ((s.context e).notice = none → (u.context e).notice = none ∧ u.link = s.link) ∧
      ∀ n p' : Nat, (s.context e).notice = some n → (u.context e).position = some p' →
        (¬(p < n ∧ n < p') → (u.context e).notice = some n ∧ u.link = s.link) ∧
        (p < n → n < p' → (u.context e).notice = none ∧
          ((s.port (s.station e).lastPort).originate.length < 512 →
            (u.port (s.station e).lastPort).originate = (s.port (s.station e).lastPort).originate ++
              [⟨s.link.nextSerial, mkFrame (s.station e).config.node s.link.node kindNotice
                (bytesOf 1 3 ++ bytesOf 2 t.number ++ bytesOf 3 n ++ positionBytes (some p'))⟩]))) ∧
  (∀ (e : StationId) (k p : Nat) (t : Take) (s : State), (s.context e).take = some k → s.take? k = some t →
    (s.context e).position = some p → (s.station e).config.clearance = false →
    ((s.context e).state = .playing ∨ (s.context e).state = .heldLive ∨ (s.context e).state = .heldSealed) →
    (∀ (u : State) (held : Bool), passSealed (t.spans.length + 1) e k t s = (u, held) →
      (held = true → deliverContext e s = u) ∧ (held = false → deliverContext e s = deliverContext e u)) ∧
    (∀ x : Span, t.spanAt p = some x → x.stop = none → deliverContext e s = s.updContext e fun y =>
      { y with state := .heldSealed, position := some x.first, located := some (s.locate k x.first) }) ∧
    (∀ (x : Span) (stop n o : Nat) (cell : AudioCell), t.spanAt p = some x → x.stop = some stop → t.spanAt stop = none → stop < t.cells →
      s.locate k stop = .page n o → s.readCell k n (stop % 256) = some cell → (∀ n ∈ (s.context e).notice, n ≤ p ∨ stop < n) →
      s.link.officePort.originate.length < 512 →
      ∃ u, deliverContext e s = u ∧
        u.context e = { s.context e with
          state := .playing, position := some (stop + 1), located := some (s.locate k (stop + 1)) } ∧
        u.link.officePort.originate = s.link.officePort.originate ++ [⟨s.link.nextSerial, s.cellFrame e t stop cell⟩] ∧
        u.playback.counters.cellsWithheld = s.playback.counters.cellsWithheld + BitVec.ofNat 32 (stop - p) ∧
        u.playback.counters.cellsPlayed = s.playback.counters.cellsPlayed + 1))

/-! ## Invariants -/

/-- Every page is in the free page queue or in the chain of exactly one live take, whatever command is taken; each chain runs from its take's first
page to its last, full but for the last, and holds as many cells as the take's cell count (R26, R27, R29, R34, R42). -/
def Obligations.PagesStayKept : Prop := ∀ s t : State, PagesKept s → step s = .next t → PagesKept t

/-- Marker entries are neither made nor lost: the free count and the lengths of the live takes' lists add up to 8192 (R66, R81; that free entries
are counted and placed ones stand in lists is log 10). -/
def Obligations.MarkersStayKept : Prop := ∀ s t : State, MarkersKept s → step s = .next t → MarkersKept t

/-- Every live take's marker list stays in order of position and numbered from 1 without holes (R68, R69). -/
def Obligations.MarkerListsStayOrdered : Prop := ∀ s t : State, ListsOrdered s → step s = .next t → ListsOrdered t

/-- Every playback context stays coherent: STOPPED exactly when attached to no take, with position and located page exactly while attached. Every
attached context names a live take, whose pin count is the number of contexts attached to it (R129, R130, R131). -/
def Obligations.ContextsStayCoherent : Prop :=
  (∀ s t : State, ContextsCoherent s → step s = .next t → ContextsCoherent t) ∧
  ∀ s t : State, PinsKept s → step s = .next t → PinsKept t

/-- No originate list, forward queue, held-response queue or history ring outgrows its capacity (R23, R170, R171, R192). -/
def Obligations.QueuesStayWithinCapacity : Prop := ∀ s t : State, WithinCapacity s → step s = .next t → WithinCapacity t

/-- Every configuration table stays within its ranges and the calendar stays legal (R1, R6, R84, R89, R152, R160, R174, R184, R187, R195). -/
def Obligations.TablesStayInRange : Prop :=
  ∀ s t : State, TablesInRange s ∧ s.clock.legal → step s = .next t → TablesInRange t ∧ t.clock.legal

/-- The state after reset satisfies every invariant above. Its straps and its lost backup are the model's choices (logs 1, 2). -/
def Obligations.ResetSatisfiesTheInvariants : Prop :=
  PagesKept State.reset ∧ MarkersKept State.reset ∧ ListsOrdered State.reset ∧ ContextsCoherent State.reset ∧ PinsKept State.reset ∧
    WithinCapacity State.reset ∧ TablesInRange State.reset ∧ State.reset.clock.legal

/-! ## Whole-machine rules -/

/-- The configuration tables change only at a WRITE_ENTRY and at the resets, the operating state only at RUN, HALT and the resets, by the command
itself or by a frame that carries it; between resets the node address and the page count are fixed (R26, R166, R185, R186, R188, R189, R198). -/
def Obligations.ConfigurationChangesOnlyByCommand : Prop :=
  ∀ (i : Instr) (s t : State), exec i s = .next t →
    ((∀ straps b, i ≠ .powerOnReset straps b) → (∀ straps, i ≠ .hardReset straps) →
      t.link.node = s.link.node ∧ t.store.pageCount = s.store.pageCount) ∧
    (s.writesTables i = false → t.tables = s.tables) ∧ (s.changesOpState i = false → t.mgmt.op = s.mgmt.op)

/-- A station's command changes no other station and no other station's context, but for a take that it gives back and that is then offered to a
station of the wait list (R88, R94, R130). -/
def Obligations.StationsActOnlyForThemselves : Prop :=
  ∀ (i : Instr) (c : Ctl) (cmd : CommandName) (e : StationId) (s t : State), control? i = some (c, cmd) →
    s.sender c.src = .station e → exec i s = .next t → ∀ q : StationId, q ≠ e →
      t.context q = s.context q ∧
        (t.station q = s.station q ∨
          q ∈ s.handOff.wait ∧ (t.station q).state = .offered ∧ (t.station q).config = (s.station q).config)

/-- What CONTROL commands leave alone: power, the cycle path, the waiting syncs, the forward queues and the frames sent; the clock but for
SET_CLOCK; every counter of R8, R25's NOT_CONSOLE, R165 and R179's block counters but for CLEAR_COUNTERS; the rooms, but for the commands that act
on them and for ring entries that a reclaim clears (R24, R156, R171 to R178, R183, R197). -/
def Obligations.ControlCommandsKeepThePaths : Prop :=
  ∀ (i : Instr) (c : Ctl) (cmd : CommandName) (s t : State), control? i = some (c, cmd) → exec i s = .next t →
    t.power = s.power ∧ t.currentCycle = s.currentCycle ∧ t.link.syncs = s.link.syncs ∧ t.link.source = s.link.source ∧
      t.link.lossTimer = s.link.lossTimer ∧ t.link.interval = s.link.interval ∧ t.link.previousSync = s.link.previousSync ∧
      t.link.officeCycle = s.link.officeCycle ∧
      (∀ p : Port, (t.port p).forward = (s.port p).forward ∧ (t.port p).lastSent = (s.port p).lastSent) ∧
      (cmd ≠ .setClock → t.clock = s.clock) ∧
      (cmd ≠ .clearCounters → t.ingestCounters = s.ingestCounters ∧ t.notConsole = s.notConsole ∧ t.clockCounters = s.clockCounters ∧
        t.link.counters = s.link.counters) ∧
      (cmd ≠ .openRoom → cmd ≠ .closeRoom → cmd ≠ .cutTake → cmd ≠ .sessionReset → cmd ≠ .writeEntry → cmd ≠ .clearCounters →
        ∀ r : RoomId, { t.room r with ring := (s.room r).ring } = s.room r)
end

