-- ==== Sys2Proof/Laws/State.lean ====
section
/-! SUPPORT. What each update of the state leaves alone and what it writes: one lemma per field per update. -/

namespace Sys2Proof.Machine

variable (s : State)

@[simp] theorem State.updRoom_pending (r : RoomId) (f : Room → Room) : (s.updRoom r f).pending = s.pending := rfl
@[simp] theorem State.updRoom_power (r : RoomId) (f : Room → Room) : (s.updRoom r f).power = s.power := rfl
@[simp] theorem State.updRoom_clock (r : RoomId) (f : Room → Room) : (s.updRoom r f).clock = s.clock := rfl
@[simp] theorem State.updRoom_schedule (r : RoomId) (f : Room → Room) : (s.updRoom r f).schedule = s.schedule := rfl
@[simp] theorem State.updRoom_clockCounters (r : RoomId) (f : Room → Room) : (s.updRoom r f).clockCounters = s.clockCounters := rfl
@[simp] theorem State.updRoom_ingestMap (r : RoomId) (f : Room → Room) : (s.updRoom r f).ingestMap = s.ingestMap := rfl
@[simp] theorem State.updRoom_ingestCounters (r : RoomId) (f : Room → Room) : (s.updRoom r f).ingestCounters = s.ingestCounters := rfl
@[simp] theorem State.updRoom_currentCycle (r : RoomId) (f : Room → Room) : (s.updRoom r f).currentCycle = s.currentCycle := rfl
@[simp] theorem State.updRoom_notConsole (r : RoomId) (f : Room → Room) : (s.updRoom r f).notConsole = s.notConsole := rfl
@[simp] theorem State.updRoom_store (r : RoomId) (f : Room → Room) : (s.updRoom r f).store = s.store := rfl
@[simp] theorem State.updRoom_takeTable (r : RoomId) (f : Room → Room) : (s.updRoom r f).takeTable = s.takeTable := rfl
@[simp] theorem State.updRoom_markerPool (r : RoomId) (f : Room → Room) : (s.updRoom r f).markerPool = s.markerPool := rfl
@[simp] theorem State.updRoom_handOff (r : RoomId) (f : Room → Room) : (s.updRoom r f).handOff = s.handOff := rfl
@[simp] theorem State.updRoom_playback (r : RoomId) (f : Room → Room) : (s.updRoom r f).playback = s.playback := rfl
@[simp] theorem State.updRoom_link (r : RoomId) (f : Room → Room) : (s.updRoom r f).link = s.link := rfl
@[simp] theorem State.updRoom_timeouts (r : RoomId) (f : Room → Room) : (s.updRoom r f).timeouts = s.timeouts := rfl
@[simp] theorem State.updRoom_mgmt (r : RoomId) (f : Room → Room) : (s.updRoom r f).mgmt = s.mgmt := rfl
@[simp] theorem State.updRoom_station (r : RoomId) (f : Room → Room) (q : StationId) : (s.updRoom r f).station q = s.station q := rfl
@[simp] theorem State.updRoom_context (r : RoomId) (f : Room → Room) (q : StationId) : (s.updRoom r f).context q = s.context q := rfl
@[simp] theorem State.updRoom_pool (r : RoomId) (f : Room → Room) (q : PoolId) : (s.updRoom r f).pool q = s.pool q := rfl
@[simp] theorem State.updRoom_take (r : RoomId) (f : Room → Room) (q : Nat) : (s.updRoom r f).take? q = s.take? q := rfl
@[simp] theorem State.updRoom_page (r : RoomId) (f : Room → Room) (q : Nat) : (s.updRoom r f).page? q = s.page? q := rfl
@[simp] theorem State.updRoom_port (r : RoomId) (f : Room → Room) (q : Port) : (s.updRoom r f).port q = s.port q := by cases q <;> rfl
@[simp] theorem State.updRoom_now (r : RoomId) (f : Room → Room) : (s.updRoom r f).now = s.now := rfl

@[simp] theorem State.updStation_pending (e : StationId) (f : Station → Station) : (s.updStation e f).pending = s.pending := rfl
@[simp] theorem State.updStation_power (e : StationId) (f : Station → Station) : (s.updStation e f).power = s.power := rfl
@[simp] theorem State.updStation_clock (e : StationId) (f : Station → Station) : (s.updStation e f).clock = s.clock := rfl
@[simp] theorem State.updStation_schedule (e : StationId) (f : Station → Station) : (s.updStation e f).schedule = s.schedule := rfl
@[simp] theorem State.updStation_clockCounters (e : StationId) (f : Station → Station) : (s.updStation e f).clockCounters = s.clockCounters := rfl
@[simp] theorem State.updStation_ingestMap (e : StationId) (f : Station → Station) : (s.updStation e f).ingestMap = s.ingestMap := rfl
@[simp] theorem State.updStation_ingestCounters (e : StationId) (f : Station → Station) : (s.updStation e f).ingestCounters = s.ingestCounters := rfl
@[simp] theorem State.updStation_rooms (e : StationId) (f : Station → Station) : (s.updStation e f).rooms = s.rooms := rfl
@[simp] theorem State.updStation_currentCycle (e : StationId) (f : Station → Station) : (s.updStation e f).currentCycle = s.currentCycle := rfl
@[simp] theorem State.updStation_notConsole (e : StationId) (f : Station → Station) : (s.updStation e f).notConsole = s.notConsole := rfl
@[simp] theorem State.updStation_store (e : StationId) (f : Station → Station) : (s.updStation e f).store = s.store := rfl
@[simp] theorem State.updStation_takeTable (e : StationId) (f : Station → Station) : (s.updStation e f).takeTable = s.takeTable := rfl
@[simp] theorem State.updStation_markerPool (e : StationId) (f : Station → Station) : (s.updStation e f).markerPool = s.markerPool := rfl
@[simp] theorem State.updStation_playback (e : StationId) (f : Station → Station) : (s.updStation e f).playback = s.playback := rfl
@[simp] theorem State.updStation_link (e : StationId) (f : Station → Station) : (s.updStation e f).link = s.link := rfl
@[simp] theorem State.updStation_timeouts (e : StationId) (f : Station → Station) : (s.updStation e f).timeouts = s.timeouts := rfl
@[simp] theorem State.updStation_mgmt (e : StationId) (f : Station → Station) : (s.updStation e f).mgmt = s.mgmt := rfl
@[simp] theorem State.updStation_handOff_pools (e : StationId) (f : Station → Station) : (s.updStation e f).handOff.pools = s.handOff.pools := rfl
@[simp] theorem State.updStation_handOff_archive (e : StationId) (f : Station → Station) : (s.updStation e f).handOff.archive = s.handOff.archive := rfl
@[simp] theorem State.updStation_handOff_wait (e : StationId) (f : Station → Station) : (s.updStation e f).handOff.wait = s.handOff.wait := rfl
@[simp] theorem State.updStation_handOff_counters (e : StationId) (f : Station → Station) : (s.updStation e f).handOff.counters = s.handOff.counters := rfl
@[simp] theorem State.updStation_room (e : StationId) (f : Station → Station) (q : RoomId) : (s.updStation e f).room q = s.room q := rfl
@[simp] theorem State.updStation_context (e : StationId) (f : Station → Station) (q : StationId) : (s.updStation e f).context q = s.context q := rfl
@[simp] theorem State.updStation_pool (e : StationId) (f : Station → Station) (q : PoolId) : (s.updStation e f).pool q = s.pool q := rfl
@[simp] theorem State.updStation_take (e : StationId) (f : Station → Station) (q : Nat) : (s.updStation e f).take? q = s.take? q := rfl
@[simp] theorem State.updStation_page (e : StationId) (f : Station → Station) (q : Nat) : (s.updStation e f).page? q = s.page? q := rfl
@[simp] theorem State.updStation_port (e : StationId) (f : Station → Station) (q : Port) : (s.updStation e f).port q = s.port q := by cases q <;> rfl
@[simp] theorem State.updStation_now (e : StationId) (f : Station → Station) : (s.updStation e f).now = s.now := rfl

@[simp] theorem State.updContext_pending (e : StationId) (f : Context → Context) : (s.updContext e f).pending = s.pending := rfl
@[simp] theorem State.updContext_power (e : StationId) (f : Context → Context) : (s.updContext e f).power = s.power := rfl
@[simp] theorem State.updContext_clock (e : StationId) (f : Context → Context) : (s.updContext e f).clock = s.clock := rfl
@[simp] theorem State.updContext_schedule (e : StationId) (f : Context → Context) : (s.updContext e f).schedule = s.schedule := rfl
@[simp] theorem State.updContext_clockCounters (e : StationId) (f : Context → Context) : (s.updContext e f).clockCounters = s.clockCounters := rfl
@[simp] theorem State.updContext_ingestMap (e : StationId) (f : Context → Context) : (s.updContext e f).ingestMap = s.ingestMap := rfl
@[simp] theorem State.updContext_ingestCounters (e : StationId) (f : Context → Context) : (s.updContext e f).ingestCounters = s.ingestCounters := rfl
@[simp] theorem State.updContext_rooms (e : StationId) (f : Context → Context) : (s.updContext e f).rooms = s.rooms := rfl
@[simp] theorem State.updContext_currentCycle (e : StationId) (f : Context → Context) : (s.updContext e f).currentCycle = s.currentCycle := rfl
@[simp] theorem State.updContext_notConsole (e : StationId) (f : Context → Context) : (s.updContext e f).notConsole = s.notConsole := rfl
@[simp] theorem State.updContext_store (e : StationId) (f : Context → Context) : (s.updContext e f).store = s.store := rfl
@[simp] theorem State.updContext_takeTable (e : StationId) (f : Context → Context) : (s.updContext e f).takeTable = s.takeTable := rfl
@[simp] theorem State.updContext_markerPool (e : StationId) (f : Context → Context) : (s.updContext e f).markerPool = s.markerPool := rfl
@[simp] theorem State.updContext_handOff (e : StationId) (f : Context → Context) : (s.updContext e f).handOff = s.handOff := rfl
@[simp] theorem State.updContext_link (e : StationId) (f : Context → Context) : (s.updContext e f).link = s.link := rfl
@[simp] theorem State.updContext_timeouts (e : StationId) (f : Context → Context) : (s.updContext e f).timeouts = s.timeouts := rfl
@[simp] theorem State.updContext_mgmt (e : StationId) (f : Context → Context) : (s.updContext e f).mgmt = s.mgmt := rfl
@[simp] theorem State.updContext_playback_counters (e : StationId) (f : Context → Context) : (s.updContext e f).playback.counters = s.playback.counters := rfl
@[simp] theorem State.updContext_room (e : StationId) (f : Context → Context) (q : RoomId) : (s.updContext e f).room q = s.room q := rfl
@[simp] theorem State.updContext_station (e : StationId) (f : Context → Context) (q : StationId) : (s.updContext e f).station q = s.station q := rfl
@[simp] theorem State.updContext_pool (e : StationId) (f : Context → Context) (q : PoolId) : (s.updContext e f).pool q = s.pool q := rfl
@[simp] theorem State.updContext_take (e : StationId) (f : Context → Context) (q : Nat) : (s.updContext e f).take? q = s.take? q := rfl
@[simp] theorem State.updContext_page (e : StationId) (f : Context → Context) (q : Nat) : (s.updContext e f).page? q = s.page? q := rfl
@[simp] theorem State.updContext_port (e : StationId) (f : Context → Context) (q : Port) : (s.updContext e f).port q = s.port q := by cases q <;> rfl
@[simp] theorem State.updContext_now (e : StationId) (f : Context → Context) : (s.updContext e f).now = s.now := rfl

@[simp] theorem State.updPool_pending (p : PoolId) (f : List Nat → List Nat) : (s.updPool p f).pending = s.pending := rfl
@[simp] theorem State.updPool_power (p : PoolId) (f : List Nat → List Nat) : (s.updPool p f).power = s.power := rfl
@[simp] theorem State.updPool_clock (p : PoolId) (f : List Nat → List Nat) : (s.updPool p f).clock = s.clock := rfl
@[simp] theorem State.updPool_schedule (p : PoolId) (f : List Nat → List Nat) : (s.updPool p f).schedule = s.schedule := rfl
@[simp] theorem State.updPool_clockCounters (p : PoolId) (f : List Nat → List Nat) : (s.updPool p f).clockCounters = s.clockCounters := rfl
@[simp] theorem State.updPool_ingestMap (p : PoolId) (f : List Nat → List Nat) : (s.updPool p f).ingestMap = s.ingestMap := rfl
@[simp] theorem State.updPool_ingestCounters (p : PoolId) (f : List Nat → List Nat) : (s.updPool p f).ingestCounters = s.ingestCounters := rfl
@[simp] theorem State.updPool_rooms (p : PoolId) (f : List Nat → List Nat) : (s.updPool p f).rooms = s.rooms := rfl
@[simp] theorem State.updPool_currentCycle (p : PoolId) (f : List Nat → List Nat) : (s.updPool p f).currentCycle = s.currentCycle := rfl
@[simp] theorem State.updPool_notConsole (p : PoolId) (f : List Nat → List Nat) : (s.updPool p f).notConsole = s.notConsole := rfl
@[simp] theorem State.updPool_store (p : PoolId) (f : List Nat → List Nat) : (s.updPool p f).store = s.store := rfl
@[simp] theorem State.updPool_takeTable (p : PoolId) (f : List Nat → List Nat) : (s.updPool p f).takeTable = s.takeTable := rfl
@[simp] theorem State.updPool_markerPool (p : PoolId) (f : List Nat → List Nat) : (s.updPool p f).markerPool = s.markerPool := rfl
@[simp] theorem State.updPool_playback (p : PoolId) (f : List Nat → List Nat) : (s.updPool p f).playback = s.playback := rfl
@[simp] theorem State.updPool_link (p : PoolId) (f : List Nat → List Nat) : (s.updPool p f).link = s.link := rfl
@[simp] theorem State.updPool_timeouts (p : PoolId) (f : List Nat → List Nat) : (s.updPool p f).timeouts = s.timeouts := rfl
@[simp] theorem State.updPool_mgmt (p : PoolId) (f : List Nat → List Nat) : (s.updPool p f).mgmt = s.mgmt := rfl
@[simp] theorem State.updPool_handOff_stations (p : PoolId) (f : List Nat → List Nat) : (s.updPool p f).handOff.stations = s.handOff.stations := rfl
@[simp] theorem State.updPool_handOff_archive (p : PoolId) (f : List Nat → List Nat) : (s.updPool p f).handOff.archive = s.handOff.archive := rfl
@[simp] theorem State.updPool_handOff_wait (p : PoolId) (f : List Nat → List Nat) : (s.updPool p f).handOff.wait = s.handOff.wait := rfl
@[simp] theorem State.updPool_handOff_counters (p : PoolId) (f : List Nat → List Nat) : (s.updPool p f).handOff.counters = s.handOff.counters := rfl
@[simp] theorem State.updPool_room (p : PoolId) (f : List Nat → List Nat) (q : RoomId) : (s.updPool p f).room q = s.room q := rfl
@[simp] theorem State.updPool_station (p : PoolId) (f : List Nat → List Nat) (q : StationId) : (s.updPool p f).station q = s.station q := rfl
@[simp] theorem State.updPool_context (p : PoolId) (f : List Nat → List Nat) (q : StationId) : (s.updPool p f).context q = s.context q := rfl
@[simp] theorem State.updPool_take (p : PoolId) (f : List Nat → List Nat) (q : Nat) : (s.updPool p f).take? q = s.take? q := rfl
@[simp] theorem State.updPool_page (p : PoolId) (f : List Nat → List Nat) (q : Nat) : (s.updPool p f).page? q = s.page? q := rfl
@[simp] theorem State.updPool_port (p : PoolId) (f : List Nat → List Nat) (q : Port) : (s.updPool p f).port q = s.port q := by cases q <;> rfl
@[simp] theorem State.updPool_now (p : PoolId) (f : List Nat → List Nat) : (s.updPool p f).now = s.now := rfl

@[simp] theorem State.updArchive_pending (f : List Nat → List Nat) : (s.updArchive f).pending = s.pending := rfl
@[simp] theorem State.updArchive_power (f : List Nat → List Nat) : (s.updArchive f).power = s.power := rfl
@[simp] theorem State.updArchive_clock (f : List Nat → List Nat) : (s.updArchive f).clock = s.clock := rfl
@[simp] theorem State.updArchive_schedule (f : List Nat → List Nat) : (s.updArchive f).schedule = s.schedule := rfl
@[simp] theorem State.updArchive_clockCounters (f : List Nat → List Nat) : (s.updArchive f).clockCounters = s.clockCounters := rfl
@[simp] theorem State.updArchive_ingestMap (f : List Nat → List Nat) : (s.updArchive f).ingestMap = s.ingestMap := rfl
@[simp] theorem State.updArchive_ingestCounters (f : List Nat → List Nat) : (s.updArchive f).ingestCounters = s.ingestCounters := rfl
@[simp] theorem State.updArchive_rooms (f : List Nat → List Nat) : (s.updArchive f).rooms = s.rooms := rfl
@[simp] theorem State.updArchive_currentCycle (f : List Nat → List Nat) : (s.updArchive f).currentCycle = s.currentCycle := rfl
@[simp] theorem State.updArchive_notConsole (f : List Nat → List Nat) : (s.updArchive f).notConsole = s.notConsole := rfl
@[simp] theorem State.updArchive_store (f : List Nat → List Nat) : (s.updArchive f).store = s.store := rfl
@[simp] theorem State.updArchive_takeTable (f : List Nat → List Nat) : (s.updArchive f).takeTable = s.takeTable := rfl
@[simp] theorem State.updArchive_markerPool (f : List Nat → List Nat) : (s.updArchive f).markerPool = s.markerPool := rfl
@[simp] theorem State.updArchive_playback (f : List Nat → List Nat) : (s.updArchive f).playback = s.playback := rfl
@[simp] theorem State.updArchive_link (f : List Nat → List Nat) : (s.updArchive f).link = s.link := rfl
@[simp] theorem State.updArchive_timeouts (f : List Nat → List Nat) : (s.updArchive f).timeouts = s.timeouts := rfl
@[simp] theorem State.updArchive_mgmt (f : List Nat → List Nat) : (s.updArchive f).mgmt = s.mgmt := rfl
@[simp] theorem State.updArchive_handOff_stations (f : List Nat → List Nat) : (s.updArchive f).handOff.stations = s.handOff.stations := rfl
@[simp] theorem State.updArchive_handOff_pools (f : List Nat → List Nat) : (s.updArchive f).handOff.pools = s.handOff.pools := rfl
@[simp] theorem State.updArchive_handOff_wait (f : List Nat → List Nat) : (s.updArchive f).handOff.wait = s.handOff.wait := rfl
@[simp] theorem State.updArchive_handOff_counters (f : List Nat → List Nat) : (s.updArchive f).handOff.counters = s.handOff.counters := rfl
@[simp] theorem State.updArchive_room (f : List Nat → List Nat) (q : RoomId) : (s.updArchive f).room q = s.room q := rfl
@[simp] theorem State.updArchive_station (f : List Nat → List Nat) (q : StationId) : (s.updArchive f).station q = s.station q := rfl
@[simp] theorem State.updArchive_context (f : List Nat → List Nat) (q : StationId) : (s.updArchive f).context q = s.context q := rfl
@[simp] theorem State.updArchive_pool (f : List Nat → List Nat) (q : PoolId) : (s.updArchive f).pool q = s.pool q := rfl
@[simp] theorem State.updArchive_take (f : List Nat → List Nat) (q : Nat) : (s.updArchive f).take? q = s.take? q := rfl
@[simp] theorem State.updArchive_page (f : List Nat → List Nat) (q : Nat) : (s.updArchive f).page? q = s.page? q := rfl
@[simp] theorem State.updArchive_port (f : List Nat → List Nat) (q : Port) : (s.updArchive f).port q = s.port q := by cases q <;> rfl
@[simp] theorem State.updArchive_now (f : List Nat → List Nat) : (s.updArchive f).now = s.now := rfl

@[simp] theorem State.updWait_pending (f : List StationId → List StationId) : (s.updWait f).pending = s.pending := rfl
@[simp] theorem State.updWait_power (f : List StationId → List StationId) : (s.updWait f).power = s.power := rfl
@[simp] theorem State.updWait_clock (f : List StationId → List StationId) : (s.updWait f).clock = s.clock := rfl
@[simp] theorem State.updWait_schedule (f : List StationId → List StationId) : (s.updWait f).schedule = s.schedule := rfl
@[simp] theorem State.updWait_clockCounters (f : List StationId → List StationId) : (s.updWait f).clockCounters = s.clockCounters := rfl
@[simp] theorem State.updWait_ingestMap (f : List StationId → List StationId) : (s.updWait f).ingestMap = s.ingestMap := rfl
@[simp] theorem State.updWait_ingestCounters (f : List StationId → List StationId) : (s.updWait f).ingestCounters = s.ingestCounters := rfl
@[simp] theorem State.updWait_rooms (f : List StationId → List StationId) : (s.updWait f).rooms = s.rooms := rfl
@[simp] theorem State.updWait_currentCycle (f : List StationId → List StationId) : (s.updWait f).currentCycle = s.currentCycle := rfl
@[simp] theorem State.updWait_notConsole (f : List StationId → List StationId) : (s.updWait f).notConsole = s.notConsole := rfl
@[simp] theorem State.updWait_store (f : List StationId → List StationId) : (s.updWait f).store = s.store := rfl
@[simp] theorem State.updWait_takeTable (f : List StationId → List StationId) : (s.updWait f).takeTable = s.takeTable := rfl
@[simp] theorem State.updWait_markerPool (f : List StationId → List StationId) : (s.updWait f).markerPool = s.markerPool := rfl
@[simp] theorem State.updWait_playback (f : List StationId → List StationId) : (s.updWait f).playback = s.playback := rfl
@[simp] theorem State.updWait_link (f : List StationId → List StationId) : (s.updWait f).link = s.link := rfl
@[simp] theorem State.updWait_timeouts (f : List StationId → List StationId) : (s.updWait f).timeouts = s.timeouts := rfl
@[simp] theorem State.updWait_mgmt (f : List StationId → List StationId) : (s.updWait f).mgmt = s.mgmt := rfl
@[simp] theorem State.updWait_handOff_stations (f : List StationId → List StationId) : (s.updWait f).handOff.stations = s.handOff.stations := rfl
@[simp] theorem State.updWait_handOff_pools (f : List StationId → List StationId) : (s.updWait f).handOff.pools = s.handOff.pools := rfl
@[simp] theorem State.updWait_handOff_archive (f : List StationId → List StationId) : (s.updWait f).handOff.archive = s.handOff.archive := rfl
@[simp] theorem State.updWait_handOff_counters (f : List StationId → List StationId) : (s.updWait f).handOff.counters = s.handOff.counters := rfl
@[simp] theorem State.updWait_room (f : List StationId → List StationId) (q : RoomId) : (s.updWait f).room q = s.room q := rfl
@[simp] theorem State.updWait_station (f : List StationId → List StationId) (q : StationId) : (s.updWait f).station q = s.station q := rfl
@[simp] theorem State.updWait_context (f : List StationId → List StationId) (q : StationId) : (s.updWait f).context q = s.context q := rfl
@[simp] theorem State.updWait_pool (f : List StationId → List StationId) (q : PoolId) : (s.updWait f).pool q = s.pool q := rfl
@[simp] theorem State.updWait_take (f : List StationId → List StationId) (q : Nat) : (s.updWait f).take? q = s.take? q := rfl
@[simp] theorem State.updWait_page (f : List StationId → List StationId) (q : Nat) : (s.updWait f).page? q = s.page? q := rfl
@[simp] theorem State.updWait_port (f : List StationId → List StationId) (q : Port) : (s.updWait f).port q = s.port q := by cases q <;> rfl
@[simp] theorem State.updWait_now (f : List StationId → List StationId) : (s.updWait f).now = s.now := rfl

@[simp] theorem State.countHandOff_pending (f : HandOffCounters → HandOffCounters) : (s.countHandOff f).pending = s.pending := rfl
@[simp] theorem State.countHandOff_power (f : HandOffCounters → HandOffCounters) : (s.countHandOff f).power = s.power := rfl
@[simp] theorem State.countHandOff_clock (f : HandOffCounters → HandOffCounters) : (s.countHandOff f).clock = s.clock := rfl
@[simp] theorem State.countHandOff_schedule (f : HandOffCounters → HandOffCounters) : (s.countHandOff f).schedule = s.schedule := rfl
@[simp] theorem State.countHandOff_clockCounters (f : HandOffCounters → HandOffCounters) : (s.countHandOff f).clockCounters = s.clockCounters := rfl
@[simp] theorem State.countHandOff_ingestMap (f : HandOffCounters → HandOffCounters) : (s.countHandOff f).ingestMap = s.ingestMap := rfl
@[simp] theorem State.countHandOff_ingestCounters (f : HandOffCounters → HandOffCounters) : (s.countHandOff f).ingestCounters = s.ingestCounters := rfl
@[simp] theorem State.countHandOff_rooms (f : HandOffCounters → HandOffCounters) : (s.countHandOff f).rooms = s.rooms := rfl
@[simp] theorem State.countHandOff_currentCycle (f : HandOffCounters → HandOffCounters) : (s.countHandOff f).currentCycle = s.currentCycle := rfl
@[simp] theorem State.countHandOff_notConsole (f : HandOffCounters → HandOffCounters) : (s.countHandOff f).notConsole = s.notConsole := rfl
@[simp] theorem State.countHandOff_store (f : HandOffCounters → HandOffCounters) : (s.countHandOff f).store = s.store := rfl
@[simp] theorem State.countHandOff_takeTable (f : HandOffCounters → HandOffCounters) : (s.countHandOff f).takeTable = s.takeTable := rfl
@[simp] theorem State.countHandOff_markerPool (f : HandOffCounters → HandOffCounters) : (s.countHandOff f).markerPool = s.markerPool := rfl
@[simp] theorem State.countHandOff_playback (f : HandOffCounters → HandOffCounters) : (s.countHandOff f).playback = s.playback := rfl
@[simp] theorem State.countHandOff_link (f : HandOffCounters → HandOffCounters) : (s.countHandOff f).link = s.link := rfl
@[simp] theorem State.countHandOff_timeouts (f : HandOffCounters → HandOffCounters) : (s.countHandOff f).timeouts = s.timeouts := rfl
@[simp] theorem State.countHandOff_mgmt (f : HandOffCounters → HandOffCounters) : (s.countHandOff f).mgmt = s.mgmt := rfl
@[simp] theorem State.countHandOff_handOff_stations (f : HandOffCounters → HandOffCounters) : (s.countHandOff f).handOff.stations = s.handOff.stations := rfl
@[simp] theorem State.countHandOff_handOff_pools (f : HandOffCounters → HandOffCounters) : (s.countHandOff f).handOff.pools = s.handOff.pools := rfl
@[simp] theorem State.countHandOff_handOff_archive (f : HandOffCounters → HandOffCounters) : (s.countHandOff f).handOff.archive = s.handOff.archive := rfl
@[simp] theorem State.countHandOff_handOff_wait (f : HandOffCounters → HandOffCounters) : (s.countHandOff f).handOff.wait = s.handOff.wait := rfl
@[simp] theorem State.countHandOff_room (f : HandOffCounters → HandOffCounters) (q : RoomId) : (s.countHandOff f).room q = s.room q := rfl
@[simp] theorem State.countHandOff_station (f : HandOffCounters → HandOffCounters) (q : StationId) : (s.countHandOff f).station q = s.station q := rfl
@[simp] theorem State.countHandOff_context (f : HandOffCounters → HandOffCounters) (q : StationId) : (s.countHandOff f).context q = s.context q := rfl
@[simp] theorem State.countHandOff_pool (f : HandOffCounters → HandOffCounters) (q : PoolId) : (s.countHandOff f).pool q = s.pool q := rfl
@[simp] theorem State.countHandOff_take (f : HandOffCounters → HandOffCounters) (q : Nat) : (s.countHandOff f).take? q = s.take? q := rfl
@[simp] theorem State.countHandOff_page (f : HandOffCounters → HandOffCounters) (q : Nat) : (s.countHandOff f).page? q = s.page? q := rfl
@[simp] theorem State.countHandOff_port (f : HandOffCounters → HandOffCounters) (q : Port) : (s.countHandOff f).port q = s.port q := by cases q <;> rfl
@[simp] theorem State.countHandOff_now (f : HandOffCounters → HandOffCounters) : (s.countHandOff f).now = s.now := rfl

@[simp] theorem State.countPlayback_pending (f : PlaybackCounters → PlaybackCounters) : (s.countPlayback f).pending = s.pending := rfl
@[simp] theorem State.countPlayback_power (f : PlaybackCounters → PlaybackCounters) : (s.countPlayback f).power = s.power := rfl
@[simp] theorem State.countPlayback_clock (f : PlaybackCounters → PlaybackCounters) : (s.countPlayback f).clock = s.clock := rfl
@[simp] theorem State.countPlayback_schedule (f : PlaybackCounters → PlaybackCounters) : (s.countPlayback f).schedule = s.schedule := rfl
@[simp] theorem State.countPlayback_clockCounters (f : PlaybackCounters → PlaybackCounters) : (s.countPlayback f).clockCounters = s.clockCounters := rfl
@[simp] theorem State.countPlayback_ingestMap (f : PlaybackCounters → PlaybackCounters) : (s.countPlayback f).ingestMap = s.ingestMap := rfl
@[simp] theorem State.countPlayback_ingestCounters (f : PlaybackCounters → PlaybackCounters) : (s.countPlayback f).ingestCounters = s.ingestCounters := rfl
@[simp] theorem State.countPlayback_rooms (f : PlaybackCounters → PlaybackCounters) : (s.countPlayback f).rooms = s.rooms := rfl
@[simp] theorem State.countPlayback_currentCycle (f : PlaybackCounters → PlaybackCounters) : (s.countPlayback f).currentCycle = s.currentCycle := rfl
@[simp] theorem State.countPlayback_notConsole (f : PlaybackCounters → PlaybackCounters) : (s.countPlayback f).notConsole = s.notConsole := rfl
@[simp] theorem State.countPlayback_store (f : PlaybackCounters → PlaybackCounters) : (s.countPlayback f).store = s.store := rfl
@[simp] theorem State.countPlayback_takeTable (f : PlaybackCounters → PlaybackCounters) : (s.countPlayback f).takeTable = s.takeTable := rfl
@[simp] theorem State.countPlayback_markerPool (f : PlaybackCounters → PlaybackCounters) : (s.countPlayback f).markerPool = s.markerPool := rfl
@[simp] theorem State.countPlayback_handOff (f : PlaybackCounters → PlaybackCounters) : (s.countPlayback f).handOff = s.handOff := rfl
@[simp] theorem State.countPlayback_link (f : PlaybackCounters → PlaybackCounters) : (s.countPlayback f).link = s.link := rfl
@[simp] theorem State.countPlayback_timeouts (f : PlaybackCounters → PlaybackCounters) : (s.countPlayback f).timeouts = s.timeouts := rfl
@[simp] theorem State.countPlayback_mgmt (f : PlaybackCounters → PlaybackCounters) : (s.countPlayback f).mgmt = s.mgmt := rfl
@[simp] theorem State.countPlayback_playback_contexts (f : PlaybackCounters → PlaybackCounters) : (s.countPlayback f).playback.contexts = s.playback.contexts := rfl
@[simp] theorem State.countPlayback_room (f : PlaybackCounters → PlaybackCounters) (q : RoomId) : (s.countPlayback f).room q = s.room q := rfl
@[simp] theorem State.countPlayback_station (f : PlaybackCounters → PlaybackCounters) (q : StationId) : (s.countPlayback f).station q = s.station q := rfl
@[simp] theorem State.countPlayback_context (f : PlaybackCounters → PlaybackCounters) (q : StationId) : (s.countPlayback f).context q = s.context q := rfl
@[simp] theorem State.countPlayback_pool (f : PlaybackCounters → PlaybackCounters) (q : PoolId) : (s.countPlayback f).pool q = s.pool q := rfl
@[simp] theorem State.countPlayback_take (f : PlaybackCounters → PlaybackCounters) (q : Nat) : (s.countPlayback f).take? q = s.take? q := rfl
@[simp] theorem State.countPlayback_page (f : PlaybackCounters → PlaybackCounters) (q : Nat) : (s.countPlayback f).page? q = s.page? q := rfl
@[simp] theorem State.countPlayback_port (f : PlaybackCounters → PlaybackCounters) (q : Port) : (s.countPlayback f).port q = s.port q := by cases q <;> rfl
@[simp] theorem State.countPlayback_now (f : PlaybackCounters → PlaybackCounters) : (s.countPlayback f).now = s.now := rfl

@[simp] theorem State.countTakes_pending (f : TakeCounters → TakeCounters) : (s.countTakes f).pending = s.pending := rfl
@[simp] theorem State.countTakes_power (f : TakeCounters → TakeCounters) : (s.countTakes f).power = s.power := rfl
@[simp] theorem State.countTakes_clock (f : TakeCounters → TakeCounters) : (s.countTakes f).clock = s.clock := rfl
@[simp] theorem State.countTakes_schedule (f : TakeCounters → TakeCounters) : (s.countTakes f).schedule = s.schedule := rfl
@[simp] theorem State.countTakes_clockCounters (f : TakeCounters → TakeCounters) : (s.countTakes f).clockCounters = s.clockCounters := rfl
@[simp] theorem State.countTakes_ingestMap (f : TakeCounters → TakeCounters) : (s.countTakes f).ingestMap = s.ingestMap := rfl
@[simp] theorem State.countTakes_ingestCounters (f : TakeCounters → TakeCounters) : (s.countTakes f).ingestCounters = s.ingestCounters := rfl
@[simp] theorem State.countTakes_rooms (f : TakeCounters → TakeCounters) : (s.countTakes f).rooms = s.rooms := rfl
@[simp] theorem State.countTakes_currentCycle (f : TakeCounters → TakeCounters) : (s.countTakes f).currentCycle = s.currentCycle := rfl
@[simp] theorem State.countTakes_notConsole (f : TakeCounters → TakeCounters) : (s.countTakes f).notConsole = s.notConsole := rfl
@[simp] theorem State.countTakes_store (f : TakeCounters → TakeCounters) : (s.countTakes f).store = s.store := rfl
@[simp] theorem State.countTakes_markerPool (f : TakeCounters → TakeCounters) : (s.countTakes f).markerPool = s.markerPool := rfl
@[simp] theorem State.countTakes_handOff (f : TakeCounters → TakeCounters) : (s.countTakes f).handOff = s.handOff := rfl
@[simp] theorem State.countTakes_playback (f : TakeCounters → TakeCounters) : (s.countTakes f).playback = s.playback := rfl
@[simp] theorem State.countTakes_link (f : TakeCounters → TakeCounters) : (s.countTakes f).link = s.link := rfl
@[simp] theorem State.countTakes_timeouts (f : TakeCounters → TakeCounters) : (s.countTakes f).timeouts = s.timeouts := rfl
@[simp] theorem State.countTakes_mgmt (f : TakeCounters → TakeCounters) : (s.countTakes f).mgmt = s.mgmt := rfl
@[simp] theorem State.countTakes_takeTable_takes (f : TakeCounters → TakeCounters) : (s.countTakes f).takeTable.takes = s.takeTable.takes := rfl
@[simp] theorem State.countTakes_takeTable_issue (f : TakeCounters → TakeCounters) : (s.countTakes f).takeTable.issue = s.takeTable.issue := rfl
@[simp] theorem State.countTakes_room (f : TakeCounters → TakeCounters) (q : RoomId) : (s.countTakes f).room q = s.room q := rfl
@[simp] theorem State.countTakes_station (f : TakeCounters → TakeCounters) (q : StationId) : (s.countTakes f).station q = s.station q := rfl
@[simp] theorem State.countTakes_context (f : TakeCounters → TakeCounters) (q : StationId) : (s.countTakes f).context q = s.context q := rfl
@[simp] theorem State.countTakes_pool (f : TakeCounters → TakeCounters) (q : PoolId) : (s.countTakes f).pool q = s.pool q := rfl
@[simp] theorem State.countTakes_take (f : TakeCounters → TakeCounters) (q : Nat) : (s.countTakes f).take? q = s.take? q := rfl
@[simp] theorem State.countTakes_page (f : TakeCounters → TakeCounters) (q : Nat) : (s.countTakes f).page? q = s.page? q := rfl
@[simp] theorem State.countTakes_port (f : TakeCounters → TakeCounters) (q : Port) : (s.countTakes f).port q = s.port q := by cases q <;> rfl
@[simp] theorem State.countTakes_now (f : TakeCounters → TakeCounters) : (s.countTakes f).now = s.now := rfl

@[simp] theorem State.countStore_pending (f : StoreCounters → StoreCounters) : (s.countStore f).pending = s.pending := rfl
@[simp] theorem State.countStore_power (f : StoreCounters → StoreCounters) : (s.countStore f).power = s.power := rfl
@[simp] theorem State.countStore_clock (f : StoreCounters → StoreCounters) : (s.countStore f).clock = s.clock := rfl
@[simp] theorem State.countStore_schedule (f : StoreCounters → StoreCounters) : (s.countStore f).schedule = s.schedule := rfl
@[simp] theorem State.countStore_clockCounters (f : StoreCounters → StoreCounters) : (s.countStore f).clockCounters = s.clockCounters := rfl
@[simp] theorem State.countStore_ingestMap (f : StoreCounters → StoreCounters) : (s.countStore f).ingestMap = s.ingestMap := rfl
@[simp] theorem State.countStore_ingestCounters (f : StoreCounters → StoreCounters) : (s.countStore f).ingestCounters = s.ingestCounters := rfl
@[simp] theorem State.countStore_rooms (f : StoreCounters → StoreCounters) : (s.countStore f).rooms = s.rooms := rfl
@[simp] theorem State.countStore_currentCycle (f : StoreCounters → StoreCounters) : (s.countStore f).currentCycle = s.currentCycle := rfl
@[simp] theorem State.countStore_notConsole (f : StoreCounters → StoreCounters) : (s.countStore f).notConsole = s.notConsole := rfl
@[simp] theorem State.countStore_takeTable (f : StoreCounters → StoreCounters) : (s.countStore f).takeTable = s.takeTable := rfl
@[simp] theorem State.countStore_markerPool (f : StoreCounters → StoreCounters) : (s.countStore f).markerPool = s.markerPool := rfl
@[simp] theorem State.countStore_handOff (f : StoreCounters → StoreCounters) : (s.countStore f).handOff = s.handOff := rfl
@[simp] theorem State.countStore_playback (f : StoreCounters → StoreCounters) : (s.countStore f).playback = s.playback := rfl
@[simp] theorem State.countStore_link (f : StoreCounters → StoreCounters) : (s.countStore f).link = s.link := rfl
@[simp] theorem State.countStore_timeouts (f : StoreCounters → StoreCounters) : (s.countStore f).timeouts = s.timeouts := rfl
@[simp] theorem State.countStore_mgmt (f : StoreCounters → StoreCounters) : (s.countStore f).mgmt = s.mgmt := rfl
@[simp] theorem State.countStore_store_pageCount (f : StoreCounters → StoreCounters) : (s.countStore f).store.pageCount = s.store.pageCount := rfl
@[simp] theorem State.countStore_store_pages (f : StoreCounters → StoreCounters) : (s.countStore f).store.pages = s.store.pages := rfl
@[simp] theorem State.countStore_store_freePages (f : StoreCounters → StoreCounters) : (s.countStore f).store.freePages = s.store.freePages := rfl
@[simp] theorem State.countStore_store_retention (f : StoreCounters → StoreCounters) : (s.countStore f).store.retention = s.store.retention := rfl
@[simp] theorem State.countStore_store_pageReserve (f : StoreCounters → StoreCounters) : (s.countStore f).store.pageReserve = s.store.pageReserve := rfl
@[simp] theorem State.countStore_room (f : StoreCounters → StoreCounters) (q : RoomId) : (s.countStore f).room q = s.room q := rfl
@[simp] theorem State.countStore_station (f : StoreCounters → StoreCounters) (q : StationId) : (s.countStore f).station q = s.station q := rfl
@[simp] theorem State.countStore_context (f : StoreCounters → StoreCounters) (q : StationId) : (s.countStore f).context q = s.context q := rfl
@[simp] theorem State.countStore_pool (f : StoreCounters → StoreCounters) (q : PoolId) : (s.countStore f).pool q = s.pool q := rfl
@[simp] theorem State.countStore_take (f : StoreCounters → StoreCounters) (q : Nat) : (s.countStore f).take? q = s.take? q := rfl
@[simp] theorem State.countStore_page (f : StoreCounters → StoreCounters) (q : Nat) : (s.countStore f).page? q = s.page? q := rfl
@[simp] theorem State.countStore_port (f : StoreCounters → StoreCounters) (q : Port) : (s.countStore f).port q = s.port q := by cases q <;> rfl
@[simp] theorem State.countStore_now (f : StoreCounters → StoreCounters) : (s.countStore f).now = s.now := rfl

@[simp] theorem State.countLink_pending (f : LinkCounters → LinkCounters) : (s.countLink f).pending = s.pending := rfl
@[simp] theorem State.countLink_power (f : LinkCounters → LinkCounters) : (s.countLink f).power = s.power := rfl
@[simp] theorem State.countLink_clock (f : LinkCounters → LinkCounters) : (s.countLink f).clock = s.clock := rfl
@[simp] theorem State.countLink_schedule (f : LinkCounters → LinkCounters) : (s.countLink f).schedule = s.schedule := rfl
@[simp] theorem State.countLink_clockCounters (f : LinkCounters → LinkCounters) : (s.countLink f).clockCounters = s.clockCounters := rfl
@[simp] theorem State.countLink_ingestMap (f : LinkCounters → LinkCounters) : (s.countLink f).ingestMap = s.ingestMap := rfl
@[simp] theorem State.countLink_ingestCounters (f : LinkCounters → LinkCounters) : (s.countLink f).ingestCounters = s.ingestCounters := rfl
@[simp] theorem State.countLink_rooms (f : LinkCounters → LinkCounters) : (s.countLink f).rooms = s.rooms := rfl
@[simp] theorem State.countLink_currentCycle (f : LinkCounters → LinkCounters) : (s.countLink f).currentCycle = s.currentCycle := rfl
@[simp] theorem State.countLink_notConsole (f : LinkCounters → LinkCounters) : (s.countLink f).notConsole = s.notConsole := rfl
@[simp] theorem State.countLink_store (f : LinkCounters → LinkCounters) : (s.countLink f).store = s.store := rfl
@[simp] theorem State.countLink_takeTable (f : LinkCounters → LinkCounters) : (s.countLink f).takeTable = s.takeTable := rfl
@[simp] theorem State.countLink_markerPool (f : LinkCounters → LinkCounters) : (s.countLink f).markerPool = s.markerPool := rfl
@[simp] theorem State.countLink_handOff (f : LinkCounters → LinkCounters) : (s.countLink f).handOff = s.handOff := rfl
@[simp] theorem State.countLink_playback (f : LinkCounters → LinkCounters) : (s.countLink f).playback = s.playback := rfl
@[simp] theorem State.countLink_timeouts (f : LinkCounters → LinkCounters) : (s.countLink f).timeouts = s.timeouts := rfl
@[simp] theorem State.countLink_mgmt (f : LinkCounters → LinkCounters) : (s.countLink f).mgmt = s.mgmt := rfl
@[simp] theorem State.countLink_link_node (f : LinkCounters → LinkCounters) : (s.countLink f).link.node = s.link.node := rfl
@[simp] theorem State.countLink_link_period (f : LinkCounters → LinkCounters) : (s.countLink f).link.period = s.link.period := rfl
@[simp] theorem State.countLink_link_capturePort (f : LinkCounters → LinkCounters) : (s.countLink f).link.capturePort = s.link.capturePort := rfl
@[simp] theorem State.countLink_link_officePort (f : LinkCounters → LinkCounters) : (s.countLink f).link.officePort = s.link.officePort := rfl
@[simp] theorem State.countLink_link_syncs (f : LinkCounters → LinkCounters) : (s.countLink f).link.syncs = s.link.syncs := rfl
@[simp] theorem State.countLink_link_nextSerial (f : LinkCounters → LinkCounters) : (s.countLink f).link.nextSerial = s.link.nextSerial := rfl
@[simp] theorem State.countLink_link_source (f : LinkCounters → LinkCounters) : (s.countLink f).link.source = s.link.source := rfl
@[simp] theorem State.countLink_link_lossTimer (f : LinkCounters → LinkCounters) : (s.countLink f).link.lossTimer = s.link.lossTimer := rfl
@[simp] theorem State.countLink_link_interval (f : LinkCounters → LinkCounters) : (s.countLink f).link.interval = s.link.interval := rfl
@[simp] theorem State.countLink_link_previousSync (f : LinkCounters → LinkCounters) : (s.countLink f).link.previousSync = s.link.previousSync := rfl
@[simp] theorem State.countLink_link_officeCycle (f : LinkCounters → LinkCounters) : (s.countLink f).link.officeCycle = s.link.officeCycle := rfl
@[simp] theorem State.countLink_room (f : LinkCounters → LinkCounters) (q : RoomId) : (s.countLink f).room q = s.room q := rfl
@[simp] theorem State.countLink_station (f : LinkCounters → LinkCounters) (q : StationId) : (s.countLink f).station q = s.station q := rfl
@[simp] theorem State.countLink_context (f : LinkCounters → LinkCounters) (q : StationId) : (s.countLink f).context q = s.context q := rfl
@[simp] theorem State.countLink_pool (f : LinkCounters → LinkCounters) (q : PoolId) : (s.countLink f).pool q = s.pool q := rfl
@[simp] theorem State.countLink_take (f : LinkCounters → LinkCounters) (q : Nat) : (s.countLink f).take? q = s.take? q := rfl
@[simp] theorem State.countLink_page (f : LinkCounters → LinkCounters) (q : Nat) : (s.countLink f).page? q = s.page? q := rfl
@[simp] theorem State.countLink_port (f : LinkCounters → LinkCounters) (q : Port) : (s.countLink f).port q = s.port q := by cases q <;> rfl
@[simp] theorem State.countLink_now (f : LinkCounters → LinkCounters) : (s.countLink f).now = s.now := rfl

@[simp] theorem State.countMgmt_pending (f : MgmtCounters → MgmtCounters) : (s.countMgmt f).pending = s.pending := rfl
@[simp] theorem State.countMgmt_power (f : MgmtCounters → MgmtCounters) : (s.countMgmt f).power = s.power := rfl
@[simp] theorem State.countMgmt_clock (f : MgmtCounters → MgmtCounters) : (s.countMgmt f).clock = s.clock := rfl
@[simp] theorem State.countMgmt_schedule (f : MgmtCounters → MgmtCounters) : (s.countMgmt f).schedule = s.schedule := rfl
@[simp] theorem State.countMgmt_clockCounters (f : MgmtCounters → MgmtCounters) : (s.countMgmt f).clockCounters = s.clockCounters := rfl
@[simp] theorem State.countMgmt_ingestMap (f : MgmtCounters → MgmtCounters) : (s.countMgmt f).ingestMap = s.ingestMap := rfl
@[simp] theorem State.countMgmt_ingestCounters (f : MgmtCounters → MgmtCounters) : (s.countMgmt f).ingestCounters = s.ingestCounters := rfl
@[simp] theorem State.countMgmt_rooms (f : MgmtCounters → MgmtCounters) : (s.countMgmt f).rooms = s.rooms := rfl
@[simp] theorem State.countMgmt_currentCycle (f : MgmtCounters → MgmtCounters) : (s.countMgmt f).currentCycle = s.currentCycle := rfl
@[simp] theorem State.countMgmt_notConsole (f : MgmtCounters → MgmtCounters) : (s.countMgmt f).notConsole = s.notConsole := rfl
@[simp] theorem State.countMgmt_store (f : MgmtCounters → MgmtCounters) : (s.countMgmt f).store = s.store := rfl
@[simp] theorem State.countMgmt_takeTable (f : MgmtCounters → MgmtCounters) : (s.countMgmt f).takeTable = s.takeTable := rfl
@[simp] theorem State.countMgmt_markerPool (f : MgmtCounters → MgmtCounters) : (s.countMgmt f).markerPool = s.markerPool := rfl
@[simp] theorem State.countMgmt_handOff (f : MgmtCounters → MgmtCounters) : (s.countMgmt f).handOff = s.handOff := rfl
@[simp] theorem State.countMgmt_playback (f : MgmtCounters → MgmtCounters) : (s.countMgmt f).playback = s.playback := rfl
@[simp] theorem State.countMgmt_link (f : MgmtCounters → MgmtCounters) : (s.countMgmt f).link = s.link := rfl
@[simp] theorem State.countMgmt_timeouts (f : MgmtCounters → MgmtCounters) : (s.countMgmt f).timeouts = s.timeouts := rfl
@[simp] theorem State.countMgmt_mgmt_op (f : MgmtCounters → MgmtCounters) : (s.countMgmt f).mgmt.op = s.mgmt.op := rfl
@[simp] theorem State.countMgmt_mgmt_managers (f : MgmtCounters → MgmtCounters) : (s.countMgmt f).mgmt.managers = s.mgmt.managers := rfl
@[simp] theorem State.countMgmt_mgmt_latches (f : MgmtCounters → MgmtCounters) : (s.countMgmt f).mgmt.latches = s.mgmt.latches := rfl
@[simp] theorem State.countMgmt_mgmt_statusItems (f : MgmtCounters → MgmtCounters) : (s.countMgmt f).mgmt.statusItems = s.mgmt.statusItems := rfl
@[simp] theorem State.countMgmt_mgmt_statusCount (f : MgmtCounters → MgmtCounters) : (s.countMgmt f).mgmt.statusCount = s.mgmt.statusCount := rfl
@[simp] theorem State.countMgmt_room (f : MgmtCounters → MgmtCounters) (q : RoomId) : (s.countMgmt f).room q = s.room q := rfl
@[simp] theorem State.countMgmt_station (f : MgmtCounters → MgmtCounters) (q : StationId) : (s.countMgmt f).station q = s.station q := rfl
@[simp] theorem State.countMgmt_context (f : MgmtCounters → MgmtCounters) (q : StationId) : (s.countMgmt f).context q = s.context q := rfl
@[simp] theorem State.countMgmt_pool (f : MgmtCounters → MgmtCounters) (q : PoolId) : (s.countMgmt f).pool q = s.pool q := rfl
@[simp] theorem State.countMgmt_take (f : MgmtCounters → MgmtCounters) (q : Nat) : (s.countMgmt f).take? q = s.take? q := rfl
@[simp] theorem State.countMgmt_page (f : MgmtCounters → MgmtCounters) (q : Nat) : (s.countMgmt f).page? q = s.page? q := rfl
@[simp] theorem State.countMgmt_port (f : MgmtCounters → MgmtCounters) (q : Port) : (s.countMgmt f).port q = s.port q := by cases q <;> rfl
@[simp] theorem State.countMgmt_now (f : MgmtCounters → MgmtCounters) : (s.countMgmt f).now = s.now := rfl

@[simp] theorem State.setTake_pending (k : Nat) (t : Take) : (s.setTake k t).pending = s.pending := rfl
@[simp] theorem State.setTake_power (k : Nat) (t : Take) : (s.setTake k t).power = s.power := rfl
@[simp] theorem State.setTake_clock (k : Nat) (t : Take) : (s.setTake k t).clock = s.clock := rfl
@[simp] theorem State.setTake_schedule (k : Nat) (t : Take) : (s.setTake k t).schedule = s.schedule := rfl
@[simp] theorem State.setTake_clockCounters (k : Nat) (t : Take) : (s.setTake k t).clockCounters = s.clockCounters := rfl
@[simp] theorem State.setTake_ingestMap (k : Nat) (t : Take) : (s.setTake k t).ingestMap = s.ingestMap := rfl
@[simp] theorem State.setTake_ingestCounters (k : Nat) (t : Take) : (s.setTake k t).ingestCounters = s.ingestCounters := rfl
@[simp] theorem State.setTake_rooms (k : Nat) (t : Take) : (s.setTake k t).rooms = s.rooms := rfl
@[simp] theorem State.setTake_currentCycle (k : Nat) (t : Take) : (s.setTake k t).currentCycle = s.currentCycle := rfl
@[simp] theorem State.setTake_notConsole (k : Nat) (t : Take) : (s.setTake k t).notConsole = s.notConsole := rfl
@[simp] theorem State.setTake_store (k : Nat) (t : Take) : (s.setTake k t).store = s.store := rfl
@[simp] theorem State.setTake_markerPool (k : Nat) (t : Take) : (s.setTake k t).markerPool = s.markerPool := rfl
@[simp] theorem State.setTake_handOff (k : Nat) (t : Take) : (s.setTake k t).handOff = s.handOff := rfl
@[simp] theorem State.setTake_playback (k : Nat) (t : Take) : (s.setTake k t).playback = s.playback := rfl
@[simp] theorem State.setTake_link (k : Nat) (t : Take) : (s.setTake k t).link = s.link := rfl
@[simp] theorem State.setTake_timeouts (k : Nat) (t : Take) : (s.setTake k t).timeouts = s.timeouts := rfl
@[simp] theorem State.setTake_mgmt (k : Nat) (t : Take) : (s.setTake k t).mgmt = s.mgmt := rfl
@[simp] theorem State.setTake_takeTable_issue (k : Nat) (t : Take) : (s.setTake k t).takeTable.issue = s.takeTable.issue := rfl
@[simp] theorem State.setTake_takeTable_counters (k : Nat) (t : Take) : (s.setTake k t).takeTable.counters = s.takeTable.counters := rfl
@[simp] theorem State.setTake_room (k : Nat) (t : Take) (q : RoomId) : (s.setTake k t).room q = s.room q := rfl
@[simp] theorem State.setTake_station (k : Nat) (t : Take) (q : StationId) : (s.setTake k t).station q = s.station q := rfl
@[simp] theorem State.setTake_context (k : Nat) (t : Take) (q : StationId) : (s.setTake k t).context q = s.context q := rfl
@[simp] theorem State.setTake_pool (k : Nat) (t : Take) (q : PoolId) : (s.setTake k t).pool q = s.pool q := rfl
@[simp] theorem State.setTake_page (k : Nat) (t : Take) (q : Nat) : (s.setTake k t).page? q = s.page? q := rfl
@[simp] theorem State.setTake_port (k : Nat) (t : Take) (q : Port) : (s.setTake k t).port q = s.port q := by cases q <;> rfl
@[simp] theorem State.setTake_now (k : Nat) (t : Take) : (s.setTake k t).now = s.now := rfl

@[simp] theorem State.updPort_pending (p : Port) (f : PortState → PortState) : (s.updPort p f).pending = s.pending := by cases p <;> rfl
@[simp] theorem State.updPort_power (p : Port) (f : PortState → PortState) : (s.updPort p f).power = s.power := by cases p <;> rfl
@[simp] theorem State.updPort_clock (p : Port) (f : PortState → PortState) : (s.updPort p f).clock = s.clock := by cases p <;> rfl
@[simp] theorem State.updPort_schedule (p : Port) (f : PortState → PortState) : (s.updPort p f).schedule = s.schedule := by cases p <;> rfl
@[simp] theorem State.updPort_clockCounters (p : Port) (f : PortState → PortState) : (s.updPort p f).clockCounters = s.clockCounters := by cases p <;> rfl
@[simp] theorem State.updPort_ingestMap (p : Port) (f : PortState → PortState) : (s.updPort p f).ingestMap = s.ingestMap := by cases p <;> rfl
@[simp] theorem State.updPort_ingestCounters (p : Port) (f : PortState → PortState) : (s.updPort p f).ingestCounters = s.ingestCounters := by cases p <;> rfl
@[simp] theorem State.updPort_rooms (p : Port) (f : PortState → PortState) : (s.updPort p f).rooms = s.rooms := by cases p <;> rfl
@[simp] theorem State.updPort_currentCycle (p : Port) (f : PortState → PortState) : (s.updPort p f).currentCycle = s.currentCycle := by cases p <;> rfl
@[simp] theorem State.updPort_notConsole (p : Port) (f : PortState → PortState) : (s.updPort p f).notConsole = s.notConsole := by cases p <;> rfl
@[simp] theorem State.updPort_store (p : Port) (f : PortState → PortState) : (s.updPort p f).store = s.store := by cases p <;> rfl
@[simp] theorem State.updPort_takeTable (p : Port) (f : PortState → PortState) : (s.updPort p f).takeTable = s.takeTable := by cases p <;> rfl
@[simp] theorem State.updPort_markerPool (p : Port) (f : PortState → PortState) : (s.updPort p f).markerPool = s.markerPool := by cases p <;> rfl
@[simp] theorem State.updPort_handOff (p : Port) (f : PortState → PortState) : (s.updPort p f).handOff = s.handOff := by cases p <;> rfl
@[simp] theorem State.updPort_playback (p : Port) (f : PortState → PortState) : (s.updPort p f).playback = s.playback := by cases p <;> rfl
@[simp] theorem State.updPort_timeouts (p : Port) (f : PortState → PortState) : (s.updPort p f).timeouts = s.timeouts := by cases p <;> rfl
@[simp] theorem State.updPort_mgmt (p : Port) (f : PortState → PortState) : (s.updPort p f).mgmt = s.mgmt := by cases p <;> rfl
@[simp] theorem State.updPort_link_node (p : Port) (f : PortState → PortState) : (s.updPort p f).link.node = s.link.node := by cases p <;> rfl
@[simp] theorem State.updPort_link_period (p : Port) (f : PortState → PortState) : (s.updPort p f).link.period = s.link.period := by cases p <;> rfl
@[simp] theorem State.updPort_link_syncs (p : Port) (f : PortState → PortState) : (s.updPort p f).link.syncs = s.link.syncs := by cases p <;> rfl
@[simp] theorem State.updPort_link_nextSerial (p : Port) (f : PortState → PortState) : (s.updPort p f).link.nextSerial = s.link.nextSerial := by cases p <;> rfl
@[simp] theorem State.updPort_link_source (p : Port) (f : PortState → PortState) : (s.updPort p f).link.source = s.link.source := by cases p <;> rfl
@[simp] theorem State.updPort_link_lossTimer (p : Port) (f : PortState → PortState) : (s.updPort p f).link.lossTimer = s.link.lossTimer := by cases p <;> rfl
@[simp] theorem State.updPort_link_interval (p : Port) (f : PortState → PortState) : (s.updPort p f).link.interval = s.link.interval := by cases p <;> rfl
@[simp] theorem State.updPort_link_previousSync (p : Port) (f : PortState → PortState) : (s.updPort p f).link.previousSync = s.link.previousSync := by cases p <;> rfl
@[simp] theorem State.updPort_link_officeCycle (p : Port) (f : PortState → PortState) : (s.updPort p f).link.officeCycle = s.link.officeCycle := by cases p <;> rfl
@[simp] theorem State.updPort_link_counters (p : Port) (f : PortState → PortState) : (s.updPort p f).link.counters = s.link.counters := by cases p <;> rfl
@[simp] theorem State.updPort_room (p : Port) (f : PortState → PortState) (q : RoomId) : (s.updPort p f).room q = s.room q := by cases p <;> rfl
@[simp] theorem State.updPort_station (p : Port) (f : PortState → PortState) (q : StationId) : (s.updPort p f).station q = s.station q := by cases p <;> rfl
@[simp] theorem State.updPort_context (p : Port) (f : PortState → PortState) (q : StationId) : (s.updPort p f).context q = s.context q := by cases p <;> rfl
@[simp] theorem State.updPort_pool (p : Port) (f : PortState → PortState) (q : PoolId) : (s.updPort p f).pool q = s.pool q := by cases p <;> rfl
@[simp] theorem State.updPort_take (p : Port) (f : PortState → PortState) (q : Nat) : (s.updPort p f).take? q = s.take? q := by cases p <;> rfl
@[simp] theorem State.updPort_page (p : Port) (f : PortState → PortState) (q : Nat) : (s.updPort p f).page? q = s.page? q := by cases p <;> rfl
@[simp] theorem State.updPort_now (p : Port) (f : PortState → PortState) : (s.updPort p f).now = s.now := by cases p <;> rfl

/-! ## What an update writes -/

@[simp] theorem State.room_updRoom (r : RoomId) (f : Room → Room) : (s.updRoom r f).room r = f (s.room r) := by
  simp [State.room, State.updRoom]

theorem State.room_updRoom_ne {r q : RoomId} (f : Room → Room) (h : r ≠ q) : (s.updRoom r f).room q = s.room q := by
  have h' : r.val ≠ q.val := fun x => h (Fin.ext x)
  simp [State.room, State.updRoom, Vector.getElem_set_ne, h']

theorem State.room_updRoom_eq (r q : RoomId) (f : Room → Room) :
    (s.updRoom r f).room q = if r = q then f (s.room q) else s.room q := by
  split
  · subst_vars; exact s.room_updRoom _ f
  · exact s.room_updRoom_ne f ‹_›

@[simp] theorem State.station_updStation (e : StationId) (f : Station → Station) :
    (s.updStation e f).station e = f (s.station e) := by
  simp [State.station, State.updStation]

theorem State.station_updStation_ne {e q : StationId} (f : Station → Station) (h : e ≠ q) :
    (s.updStation e f).station q = s.station q := by
  have h' : e.val ≠ q.val := fun x => h (Fin.ext x)
  simp [State.station, State.updStation, Vector.getElem_set_ne, h']

theorem State.station_updStation_eq (e q : StationId) (f : Station → Station) :
    (s.updStation e f).station q = if e = q then f (s.station q) else s.station q := by
  split
  · subst_vars; exact s.station_updStation _ f
  · exact s.station_updStation_ne f ‹_›

@[simp] theorem State.context_updContext (e : StationId) (f : Context → Context) :
    (s.updContext e f).context e = f (s.context e) := by
  simp [State.context, State.updContext]

theorem State.context_updContext_ne {e q : StationId} (f : Context → Context) (h : e ≠ q) :
    (s.updContext e f).context q = s.context q := by
  have h' : e.val ≠ q.val := fun x => h (Fin.ext x)
  simp [State.context, State.updContext, Vector.getElem_set_ne, h']

theorem State.context_updContext_eq (e q : StationId) (f : Context → Context) :
    (s.updContext e f).context q = if e = q then f (s.context q) else s.context q := by
  split
  · subst_vars; exact s.context_updContext _ f
  · exact s.context_updContext_ne f ‹_›

@[simp] theorem State.pool_updPool (p : PoolId) (f : List Nat → List Nat) : (s.updPool p f).pool p = f (s.pool p) := by
  simp [State.pool, State.updPool]

@[simp] theorem State.port_updPort (p : Port) (f : PortState → PortState) : (s.updPort p f).port p = f (s.port p) := by
  cases p <;> rfl

@[simp] theorem State.port_updPort_other (p : Port) (f : PortState → PortState) :
    (s.updPort p f).port (oppositePort p) = s.port (oppositePort p) := by
  cases p <;> rfl

@[simp] theorem State.updTake_none {k : Nat} (f : Take → Take) (h : s.take? k = none) : s.updTake k f = s := by
  simp [State.updTake, h]

@[simp] theorem State.updTake_some {k : Nat} {t : Take} (f : Take → Take) (h : s.take? k = some t) :
    s.updTake k f = s.setTake k (f t) := by
  simp [State.updTake, h]

@[simp] theorem State.updTake_station (k : Nat) (f : Take → Take) (q : StationId) : (s.updTake k f).station q = s.station q := by
  unfold State.updTake; split <;> rfl

@[simp] theorem State.updTake_context (k : Nat) (f : Take → Take) (q : StationId) : (s.updTake k f).context q = s.context q := by
  unfold State.updTake; split <;> rfl

end Sys2Proof.Machine
end

