-- ==== Sys2Proof/Laws/Table.lean ====
section
/-! SUPPORT. The laws of sparse tables: what a lookup reads after a write or an erasure, that every operation keeps the canonical form, and
how keys and sums change. -/

namespace Sys2Proof.Machine

variable {α : Type} {m : SMap α} {k j : Nat} {v w : α}

@[simp] theorem mapGet_nil : mapGet k ([] : SMap α) = none := rfl

theorem mapGet_cons (p : Nat × α) (m : SMap α) : mapGet k (p :: m) = if p.1 = k then some p.2 else mapGet k m := by
  cases p; rfl

/-! ## Lookups -/

@[simp] theorem mapGet_mapSet_same : mapGet k (mapSet k v m) = some v := by
  induction m with
  | nil => simp [mapSet, mapGet]
  | cons p m ih =>
    obtain ⟨k', v'⟩ := p
    simp only [mapSet]
    split
    · simp [mapGet]
    · split
      · simp [mapGet]
      · rename_i h; simp only [mapGet]; rw [if_neg (Ne.symm h), ih]

theorem mapGet_mapSet_ne (h : j ≠ k) : mapGet j (mapSet k v m) = mapGet j m := by
  induction m with
  | nil => simp [mapSet, mapGet, Ne.symm h]
  | cons p m ih =>
    obtain ⟨k', v'⟩ := p
    simp only [mapSet]
    split
    · simp [mapGet, Ne.symm h]
    · split
      · subst_vars; simp [mapGet, Ne.symm h]
      · simp only [mapGet, ih]

@[simp] theorem mapGet_mapErase_same : mapGet k (mapErase k m) = none := by
  induction m with
  | nil => rfl
  | cons p m ih =>
    obtain ⟨k', v'⟩ := p
    simp only [mapErase]
    split
    · exact ih
    · simp only [mapGet]; rw [if_neg ‹_›, ih]

theorem mapGet_mapErase_ne (h : j ≠ k) : mapGet j (mapErase k m) = mapGet j m := by
  induction m with
  | nil => rfl
  | cons p m ih =>
    obtain ⟨k', v'⟩ := p
    simp only [mapErase]
    split
    · subst_vars; simp [mapGet, Ne.symm h, ih]
    · simp only [mapGet, ih]

theorem mapGet_mem (h : mapGet k m = some v) : (k, v) ∈ m := by
  induction m with
  | nil => simp at h
  | cons p m ih =>
    rw [mapGet_cons] at h
    split at h
    · simp only [Option.some.injEq] at h; subst_vars; simp
    · exact List.mem_cons_of_mem _ (ih h)

theorem mapGet_eq_none_iff : mapGet k m = none ↔ k ∉ mapKeys m := by
  induction m with
  | nil => simp [mapKeys]
  | cons p m ih =>
    rw [mapGet_cons]
    split
    · subst_vars; simp [mapKeys]
    · rename_i h; simp [mapKeys] at ih ⊢; rw [ih]; simp [Ne.symm h]

/-! ## The canonical form -/

theorem mapWf_tail {p : Nat × α} (h : mapWf (p :: m)) : mapWf m := (List.pairwise_cons.1 h).2

theorem mapKeys_mapSet_mem (h : j ∈ mapKeys (mapSet k v m)) : j = k ∨ j ∈ mapKeys m := by
  by_contra hc
  simp only [not_or] at hc
  exact (mapGet_eq_none_iff.1 ((mapGet_mapSet_ne hc.1).trans (mapGet_eq_none_iff.2 hc.2))) h

theorem mapKeys_mapErase_mem (h : j ∈ mapKeys (mapErase k m)) : j ∈ mapKeys m := by
  by_contra hc
  by_cases hj : j = k
  · subst hj; exact mapGet_eq_none_iff.1 mapGet_mapErase_same h
  · exact (mapGet_eq_none_iff.1 ((mapGet_mapErase_ne hj).trans (mapGet_eq_none_iff.2 hc))) h

/-- Writing a key keeps the canonical form. -/
theorem mapWf_mapSet (h : mapWf m) : mapWf (mapSet k v m) := by
  induction m with
  | nil => simp [mapSet, mapWf, mapKeys]
  | cons p m ih =>
    obtain ⟨k', v'⟩ := p
    have hp := List.pairwise_cons.1 h
    simp only [mapSet]
    split
    · rename_i hk
      refine List.pairwise_cons.2 ⟨fun a ha => ?_, h⟩
      rcases List.mem_cons.1 ha with rfl | ha
      · exact hk
      · exact lt_trans hk (hp.1 a ha)
    · split
      · subst_vars; exact h
      · refine List.pairwise_cons.2 ⟨fun a ha => ?_, ih hp.2⟩
        rcases mapKeys_mapSet_mem ha with rfl | ha
        · show k' < a; omega
        · exact hp.1 a ha

/-- Erasing a key keeps the canonical form. -/
theorem mapWf_mapErase (h : mapWf m) : mapWf (mapErase k m) := by
  induction m with
  | nil => exact h
  | cons p m ih =>
    obtain ⟨k', v'⟩ := p
    have hp := List.pairwise_cons.1 h
    simp only [mapErase]
    split
    · exact ih hp.2
    · exact List.pairwise_cons.2 ⟨fun a ha => hp.1 a (mapKeys_mapErase_mem ha), ih hp.2⟩

/-! ## Keys and entries as multisets -/

/-- Erasing a key that is not listed changes nothing. -/
theorem mapErase_of_none (h : mapGet k m = none) : mapErase k m = m := by
  induction m with
  | nil => rfl
  | cons p m ih =>
    obtain ⟨k', v'⟩ := p
    rw [mapGet_cons] at h
    split at h
    · cases h
    · simp only [mapErase]; rw [if_neg ‹_›, ih h]

/-- A listed entry stands once: taking it out leaves the erased table. -/
theorem mapErase_perm (hw : mapWf m) (h : mapGet k m = some v) : m.Perm ((k, v) :: mapErase k m) := by
  induction m with
  | nil => simp at h
  | cons p m ih =>
    obtain ⟨k', v'⟩ := p
    have hp := List.pairwise_cons.1 hw
    rw [mapGet_cons] at h
    simp only [mapErase]
    split at h
    · rename_i hk; simp only at hk; subst hk; cases h
      have hn : mapGet k' m = none := mapGet_eq_none_iff.2 fun hm => Nat.lt_irrefl _ (hp.1 _ hm)
      rw [if_pos rfl, mapErase_of_none hn]
    · rw [if_neg ‹_›]
      exact ((ih hp.2 h).cons _).trans (List.Perm.swap ..)

/-- Writing a key replaces its entry, if it had one. -/
theorem mapSet_perm (hw : mapWf m) : (mapSet k v m).Perm ((k, v) :: mapErase k m) := by
  have h := mapErase_perm (mapWf_mapSet (k := k) (v := v) hw) mapGet_mapSet_same
  have e : mapErase k (mapSet k v m) = mapErase k m := by
    clear hw h
    induction m with
    | nil => simp [mapSet, mapErase]
    | cons p m ih =>
      obtain ⟨k', v'⟩ := p
      simp only [mapSet]
      split
      · rw [mapErase, if_pos rfl]
      · split
        · subst_vars; rw [mapErase, mapErase, if_pos rfl, if_pos rfl]
        · rename_i hk; rw [mapErase, mapErase, if_neg (Ne.symm hk), if_neg (Ne.symm hk), ih]
  rwa [e] at h

/-- Writing a listed key keeps the keys. -/
theorem mapKeys_mapSet_of_some (hw : mapWf m) (h : mapGet k m = some w) : (mapKeys (mapSet k v m)).Perm (mapKeys m) := by
  have h1 := (mapSet_perm (v := v) (k := k) hw).map Prod.fst
  have h2 := (mapErase_perm hw h).map Prod.fst
  exact h1.trans h2.symm

/-- Writing an unlisted key adds it. -/
theorem mapKeys_mapSet_of_none (hw : mapWf m) (h : mapGet k m = none) :
    (mapKeys (mapSet k v m)).Perm (k :: mapKeys m) := by
  have h1 := (mapSet_perm (v := v) (k := k) hw).map Prod.fst
  rw [mapErase_of_none h] at h1
  exact h1

/-- Erasing a listed key takes it out. -/
theorem mapKeys_mapErase_of_some (hw : mapWf m) (h : mapGet k m = some v) :
    (mapKeys m).Perm (k :: mapKeys (mapErase k m)) :=
  (mapErase_perm hw h).map Prod.fst

/-! ## The first unlisted key -/

theorem firstUnlisted_spec {fuel a n : Nat} (h : firstUnlisted m fuel a = some n) :
    mapGet n m = none ∧ a ≤ n ∧ n < a + fuel ∧ ∀ j, a ≤ j → j < n → mapGet j m ≠ none := by
  induction fuel generalizing a with
  | zero => simp [firstUnlisted] at h
  | succ fuel ih =>
    rw [firstUnlisted] at h
    split at h
    · rename_i hs
      obtain ⟨h1, h2, h3, h4⟩ := ih h
      refine ⟨h1, by omega, by omega, fun j hj hn => ?_⟩
      by_cases e : j = a
      · subst e; intro hc; simp [hc] at hs
      · exact h4 j (by omega) hn
    · rename_i hs
      cases h
      refine ⟨by simpa using hs, le_refl _, by omega, fun j hj hn => by omega⟩

end Sys2Proof.Machine
end

