-- ==== Sys2Proof/Laws/Change.lean ====
section
/-! SUPPORT. What the operations of the device can do to its state: a chain of changes, each of one kind. Every shared operation has one lemma
that says its effect is such a chain, so that a property kept by every kind of change is kept by every operation. -/

set_option Elab.async false

namespace Sys2Proof.Machine

/-- The parts of the state that no quiet change touches. -/
structure Shape where
  pending     : List Instr
  power       : Power
  clock       : Calendar
  schedule    : Vector ScheduleEntry 8
  ingestMap   : Vector IngestEntry 64
  rooms       : Vector Room 16
  pageCount   : Nat
  pages       : SMap Page
  freePages   : List Nat
  pageReserve : Nat
  takes       : SMap Take
  freeMarkers : Nat
  stations    : Vector Station 32
  contexts    : Vector Context 32
  capture     : List Queued × List Queued × List Frame
  office      : List Queued × List Queued × List Frame
  timeouts    : Timeouts
  node        : Byte
  period      : CyclePeriod
  op          : OpState
  managers    : Vector Manager 4
  statusItems : Vector StatusItem 16

/-- The shape of a state. -/
def State.shape (s : State) : Shape :=
  { pending := s.pending, power := s.power, clock := s.clock, schedule := s.schedule, ingestMap := s.ingestMap, rooms := s.rooms,
    pageCount := s.store.pageCount, pages := s.store.pages, freePages := s.store.freePages, pageReserve := s.store.pageReserve,
    takes := s.takeTable.takes, freeMarkers := s.markerPool.free, stations := s.handOff.stations, contexts := s.playback.contexts,
    capture := (s.link.capturePort.originate, s.link.capturePort.forward, s.link.capturePort.held),
    office := (s.link.officePort.originate, s.link.officePort.forward, s.link.officePort.held), timeouts := s.timeouts,
    node := s.link.node, period := s.link.period, op := s.mgmt.op, managers := s.mgmt.managers, statusItems := s.mgmt.statusItems }

/-- What a take record says of its chain: first page, last page, cell count (R26, R29). -/
def Take.chain (t : Take) : Option Nat × Option Nat × Nat := (t.firstPage, t.lastPage, t.cells)

/-- A context of one station written anew, with the pin counts that follow: the take it names, if it names one, gains a pin, and then the
take it named before loses one (R130, R131). -/
def moveContext (e : StationId) (x : Context) (s : State) : State :=
  let u := match x.take with
    | some k => pin k s
    | none => s
  let v := u.updContext e fun _ => x
  match (s.context e).take with
  | some o => v.updTake o fun t => { t with pins := t.pins - 1 }
  | none => v

/-- One kind of change: quiet, or to one room, station, manager's last port, context, port, take, marker list or take slot, the move of a
context between takes, or the storing of one cell. A take keeps its pin count but for moves, and a take that is freed has no reader. -/
inductive Change : State → State → Prop where
  | quiet (s t : State) (h : t.shape = s.shape) : Change s t
  | room (s : State) (r : RoomId) (f : Room → Room) (h : (f (s.room r)).config = (s.room r).config)
      (hr : (s.room r).ring.length ≤ 64 → (f (s.room r)).ring.length ≤ 64) : Change s (s.updRoom r f)
  | station (s : State) (e : StationId) (f : Station → Station) (h : (f (s.station e)).config = (s.station e).config) :
      Change s (s.updStation e f)
  | manager (s : State) (m : Fin 4) (p : Port) :
      Change s { s with mgmt := { s.mgmt with managers := s.mgmt.managers.set m.val { s.mgmt.managers[m] with lastPort := p } m.isLt } }
  | context (s : State) (e : StationId) (f : Context → Context) (h : (s.context e).coherent → (f (s.context e)).coherent)
      (ht : (f (s.context e)).take = (s.context e).take) : Change s (s.updContext e f)
  | moved (s : State) (e : StationId) (x : Context) (h : x.coherent) (ht : ∀ k, x.take = some k → (s.take? k).isSome = true) :
      Change s (moveContext e x s)
  | port (s : State) (p : Port) (f : PortState → PortState) (h : (s.port p).bounded → (f (s.port p)).bounded) : Change s (s.updPort p f)
  | take (s : State) (k : Nat) (t t' : Take) (h : s.take? k = some t) (hm : t'.markers = t.markers)
      (hn : t'.nextMarker = t.nextMarker) (hc : t'.chain = t.chain) (hp : t'.pins = t.pins) : Change s (s.setTake k t')
  | place (s : State) (k : Nat) (t : Take) (m : Marker) (h : s.take? k = some t) (hf : 0 < s.markerPool.free) :
      Change s { s.setTake k (t.withMarker m) with markerPool := { s.markerPool with free := s.markerPool.free - 1 } }
  | opened (s : State) (k : Nat) (t : Take) (h : s.take? k = none) (hk : k < Config.takeSlots) (hm : t.markers = [])
      (hn : t.nextMarker = 1) (hc : t.chain = (none, none, 0)) (hp : t.pins = 0) : Change s (s.setTake k t)
  | freed (s : State) (k : Nat) (t : Take) (h : s.take? k = some t) (hp : t.pins = 0 ∨ ∀ e : StationId, (s.context e).take ≠ some k) :
      Change s { s with
        store := freeChain s.store.pages.length t.firstPage s.store
        markerPool := { s.markerPool with free := s.markerPool.free + t.markers.length }
        takeTable := { s.takeTable with takes := mapErase k s.takeTable.takes } }
  | linked (s : State) (k n : Nat) (rest : List Nat) (t : Take) (cell : AudioCell) (h : s.take? k = some t)
      (hf : s.store.freePages = n :: rest) (hn : s.needsPage t = true) : Change s (writeCell k cell (linkPage k n rest t s))
  | wrote (s : State) (k : Nat) (t : Take) (cell : AudioCell) (h : s.take? k = some t) (hn : s.needsPage t = false) :
      Change s (writeCell k cell s)

/-- A chain of changes. -/
def Changes (s t : State) : Prop := Relation.ReflTransGen Change s t

variable {s t u : State}

theorem Changes.refl : Changes s s := Relation.ReflTransGen.refl

theorem Changes.single (h : Change s t) : Changes s t := Relation.ReflTransGen.single h

theorem Changes.trans (h : Changes s t) (h' : Changes t u) : Changes s u := Relation.ReflTransGen.trans h h'

theorem Changes.quiet (h : t.shape = s.shape := by rfl) : Changes s t := .single (.quiet s t h)

/-- A property kept by every kind of change is kept by every chain of changes. -/
theorem Changes.keeps {P : State → Prop} (hP : ∀ s t, Change s t → P s → P t) (h : Changes s t) (hs : P s) : P t := by
  unfold Changes at h
  induction h with
  | refl => exact hs
  | tail _ hc ih => exact hP _ _ hc ih

theorem Changes.thenQuiet (h : Changes s t) (hq : u.shape = t.shape := by rfl) : Changes s u := h.trans (.quiet hq)

/-! Quiet changes of one block's part of the state, after a chain of changes. -/

theorem Changes.clockCounters {x : ClockCounters} (h : Changes s t) :
    Changes s { t with clockCounters := x } := h.thenQuiet (rfl)

theorem Changes.ingestCounters {x : IngestCounters} (h : Changes s t) :
    Changes s { t with ingestCounters := x } := h.thenQuiet (rfl)

theorem Changes.currentCycle {x : Option Word} (h : Changes s t) :
    Changes s { t with currentCycle := x } := h.thenQuiet (rfl)

theorem Changes.notConsole {x : Counter} (h : Changes s t) :
    Changes s { t with notConsole := x } := h.thenQuiet (rfl)

theorem Changes.store {x : Store} (h : Changes s t) (h' : x.pageCount = t.store.pageCount ∧ x.pages = t.store.pages ∧ x.freePages = t.store.freePages ∧
      x.pageReserve = t.store.pageReserve := by exact ⟨rfl, rfl, rfl, rfl⟩) :
    Changes s { t with store := x } := h.thenQuiet (by simp [State.shape, h'.1, h'.2.1, h'.2.2.1, h'.2.2.2])

theorem Changes.takeTable {x : TakeTable} (h : Changes s t) (h' : x.takes = t.takeTable.takes := by rfl) :
    Changes s { t with takeTable := x } := h.thenQuiet (by simp [State.shape, h'])

theorem Changes.markerPool {x : MarkerPool} (h : Changes s t) (h' : x.free = t.markerPool.free := by rfl) :
    Changes s { t with markerPool := x } := h.thenQuiet (by simp [State.shape, h'])

theorem Changes.handOff {x : HandOff} (h : Changes s t) (h' : x.stations = t.handOff.stations := by rfl) :
    Changes s { t with handOff := x } := h.thenQuiet (by simp [State.shape, h'])

theorem Changes.playback {x : Playback} (h : Changes s t) (h' : x.contexts = t.playback.contexts := by rfl) :
    Changes s { t with playback := x } := h.thenQuiet (by simp [State.shape, h'])

theorem Changes.link {x : Link} (h : Changes s t)
    (h' : x.capturePort.originate = t.link.capturePort.originate ∧ x.capturePort.forward = t.link.capturePort.forward ∧
      x.capturePort.held = t.link.capturePort.held ∧ x.officePort.originate = t.link.officePort.originate ∧
      x.officePort.forward = t.link.officePort.forward ∧ x.officePort.held = t.link.officePort.held ∧ x.node = t.link.node ∧
      x.period = t.link.period := by exact ⟨rfl, rfl, rfl, rfl, rfl, rfl, rfl, rfl⟩) :
    Changes s { t with link := x } := h.thenQuiet (by obtain ⟨a, b, c, d, e, f, g, i⟩ := h'; simp [State.shape, a, b, c, d, e, f, g, i])

theorem Changes.mgmt {x : Mgmt} (h : Changes s t)
    (h' : x.op = t.mgmt.op ∧ x.managers = t.mgmt.managers ∧ x.statusItems = t.mgmt.statusItems := by exact ⟨rfl, rfl, rfl⟩) :
    Changes s { t with mgmt := x } := h.thenQuiet (by simp [State.shape, h'.1, h'.2.1, h'.2.2])

theorem Changes.countHandOff (h : Changes s t) (f : HandOffCounters → HandOffCounters) : Changes s (t.countHandOff f) := .handOff h

theorem Changes.countPlayback (h : Changes s t) (f : PlaybackCounters → PlaybackCounters) : Changes s (t.countPlayback f) := .playback h

theorem Changes.countTakes (h : Changes s t) (f : TakeCounters → TakeCounters) : Changes s (t.countTakes f) := .takeTable h

theorem Changes.countStore (h : Changes s t) (f : StoreCounters → StoreCounters) : Changes s (t.countStore f) := .store h

theorem Changes.countLink (h : Changes s t) (f : LinkCounters → LinkCounters) : Changes s (t.countLink f) := .link h

theorem Changes.countMgmt (h : Changes s t) (f : MgmtCounters → MgmtCounters) : Changes s (t.countMgmt f) := .mgmt h

theorem Changes.updArchive (h : Changes s t) (f : List Nat → List Nat) : Changes s (t.updArchive f) := .handOff h

theorem Changes.updWait (h : Changes s t) (f : List StationId → List StationId) : Changes s (t.updWait f) := .handOff h

theorem Changes.updPool (h : Changes s t) (p : PoolId) (f : List Nat → List Nat) : Changes s (t.updPool p f) := .handOff h

theorem ifThen_changes {p : Prop} [Decidable p] (h : Changes s t) : Changes s (if p then t else s) := by
  split
  · exact h
  · exact .refl

theorem either_changes {p : Prop} [Decidable p] (h : Changes s t) (h' : Changes s u) : Changes s (if p then t else u) := by
  split
  · exact h
  · exact h'

theorem forEach_changes {α : Type} {f : α → State → State} (h : ∀ x s, Changes s (f x s)) (xs : List α) (s : State) :
    Changes s (forEach xs f s) := by
  induction xs generalizing s with
  | nil => exact .refl
  | cons x xs ih => exact (h x s).trans (ih _)

/-! ## Ops -/

theorem updRoom_changes (r : RoomId) (f : Room → Room) (h : ∀ x, (f x).config = x.config := by intro _; rfl)
    (hr : ∀ x, (f x).ring = x.ring := by intro _; rfl) :
    Changes s (s.updRoom r f) := .single (.room s r f (h _) (fun a => by rw [hr]; exact a))

theorem updStation_changes (e : StationId) (f : Station → Station) (h : ∀ x, (f x).config = x.config := by intro _; rfl) :
    Changes s (s.updStation e f) := .single (.station s e f (h _))

theorem updContext_changes (e : StationId) (f : Context → Context) (h : (s.context e).coherent → (f (s.context e)).coherent)
    (ht : (f (s.context e)).take = (s.context e).take := by rfl) : Changes s (s.updContext e f) := .single (.context s e f h ht)

theorem updPort_changes (p : Port) (f : PortState → PortState)
    (h : ∀ q, (f q).originate = q.originate ∧ (f q).forward = q.forward ∧ (f q).held = q.held) : Changes s (s.updPort p f) :=
  .single (.port s p f fun hb => by obtain ⟨h1, h2, h3⟩ := h (s.port p); unfold PortState.bounded; rw [h1, h2, h3]; exact hb)

theorem updTake_changes (k : Nat) (f : Take → Take)
    (h : ∀ t, (f t).markers = t.markers ∧ (f t).nextMarker = t.nextMarker ∧ (f t).chain = t.chain ∧ (f t).pins = t.pins := by
      intro _; exact ⟨rfl, rfl, rfl, rfl⟩) :
    Changes s (s.updTake k f) := by
  cases e : s.take? k with
  | none => rw [State.updTake_none _ _ e]; exact .refl
  | some t => rw [State.updTake_some _ _ e]; exact .single (.take s k t (f t) e (h t).1 (h t).2.1 (h t).2.2.1 (h t).2.2.2)

theorem setTake_changes {k : Nat} {t : Take} (t' : Take) (h : s.take? k = some t) (hm : t'.markers = t.markers := by rfl)
    (hn : t'.nextMarker = t.nextMarker := by rfl) (hc : t'.chain = t.chain := by rfl)
    (hp : t'.pins = t.pins := by rfl) : Changes s (s.setTake k t') :=
  .single (.take s k t t' h hm hn hc hp)

theorem addOriginate_changes {p : Port} (x : Queued) (h : (s.port p).originate.length < Config.originateFrames) :
    Changes s (s.updPort p fun q => { q with originate := q.originate ++ [x] }) :=
  .single (.port s p _ fun hb => ⟨by rw [List.length_append]; exact h, hb.2⟩)

theorem addForward_changes {p : Port} (x : Queued) (h : (s.port p).forward.length < Config.forwardFrames) :
    Changes s (s.updPort p fun q => { q with forward := q.forward ++ [x] }) :=
  .single (.port s p _ fun hb => ⟨hb.1, by rw [List.length_append]; exact h, hb.2.2⟩)

theorem originate_changes (p : Port) (fr : Frame) : Changes s (originate p fr s) := by
  unfold originate
  split
  · exact (addOriginate_changes _ ‹_›).thenQuiet (by cases p <;> rfl)
  · exact updPort_changes _ _ fun _ => ⟨rfl, rfl, rfl⟩

theorem forward_changes (p : Port) (fr : Frame) : Changes s (forward p fr s) := by
  unfold forward
  dsimp only
  split
  · exact (addForward_changes _ ‹_›).thenQuiet (by cases p <;> rfl)
  · exact updPort_changes _ _ fun _ => ⟨rfl, rfl, rfl⟩

theorem stationNotice_changes (e : StationId) (b : List Byte) : Changes s (stationNotice e b s) := originate_changes _ _

theorem withdrawnNotice_changes (e : StationId) (n : Nat) (w : Withdrawal) : Changes s (withdrawnNotice e n w s) :=
  stationNotice_changes _ _

theorem endOfTakeNotice_changes (e : StationId) (n p : Nat) (w : EndReason) : Changes s (endOfTakeNotice e n p w s) :=
  (stationNotice_changes _ _).thenQuiet

/-! ## Flags and Operands -/

theorem alertManager_changes (a : Alert) (m : Manager) : Changes s (alertManager a m s) := by
  unfold alertManager
  split
  · exact .refl
  · exact (originate_changes _ _).thenQuiet

theorem reportAlert_changes (a : Alert) : Changes s (reportAlert a s) := by
  unfold reportAlert
  split
  · exact .refl
  · exact (Changes.quiet).trans (forEach_changes (fun m _ => alertManager_changes a m) _ _)

theorem takenFrom_changes (p : Port) (n : Byte) : Changes s (takenFrom p n s) := by
  unfold takenFrom
  split
  · exact .single (.manager s _ p)
  · split
    · exact updStation_changes _ _
    · exact .refl

theorem sendResponse_changes (p : Port) (fr : Frame) : Changes s (sendResponse p fr s) := by
  unfold sendResponse
  split
  · exact originate_changes _ _
  · split
    · rename_i hl
      exact .single (.port s p _ fun hb => ⟨hb.1, hb.2.1, by
        simp only [List.length_append, List.length_cons, List.length_nil]; exact hl⟩)
    · exact (originate_changes _ _).thenQuiet

theorem respond_changes (c : Ctl) (cmd : CommandName) (r : Result) (b : List Byte) : Changes s (respond c cmd r b s) :=
  either_changes (originate_changes _ _) (sendResponse_changes _ _)

theorem releaseHeld_changes (p : Port) : Changes s (releaseHeld p s) :=
  (Changes.single (.port s p _ fun hb => ⟨hb.1, hb.2.1, Nat.zero_le _⟩)).trans
    (forEach_changes (fun fr _ => originate_changes p fr) _ _)

theorem restartLease_changes (e : StationId) : Changes s (restartLease e s) := by
  unfold restartLease
  split
  · exact updStation_changes _ _
  · exact .refl

theorem leaseEffect_changes (cmd : CommandName) (who : Sender) : Changes s (leaseEffect cmd who s) := by
  unfold leaseEffect
  split
  · split
    · exact restartLease_changes _
    · exact .refl
  · exact .refl

/-! ## PageStore -/

theorem clearRings_changes (k : Nat) : Changes s (clearRings k s) :=
  forEach_changes (fun r s => .single (.room s r _ rfl (fun h => by simpa using h))) _ _

theorem freeTake_changes (k : Nat) (hp : ∀ t, s.take? k = some t → t.pins = 0 ∨ ∀ e : StationId, (s.context e).take ≠ some k) :
    Changes s (freeTake k s) := by
  unfold freeTake
  split
  · exact .refl
  · rename_i t h
    unfold freeSlot
    split
    · rename_i h'; exact absurd (h'.symm.trans h) (by simp)
    · rename_i t' h'
      obtain rfl : t' = t := Option.some.inj (h'.symm.trans h)
      exact (Changes.single (.freed s k t' h (hp t' h))).trans (clearRings_changes k)

theorem reclaim_changes (k : Nat) : Changes s (reclaim k s) := by
  unfold reclaim
  split
  · exact .refl
  · split
    · rename_i t h hr
      refine .trans (.store .refl) (freeTake_changes k fun t' h' => .inl ?_)
      obtain rfl : t' = t := Option.some.inj (h'.symm.trans h)
      exact (by simpa [Take.reclaimable] using hr : _ ∧ _).2
    · exact .refl

theorem pressureSteps_changes (k : Nat) (s : State) : Changes s (pressureSteps k s) := by
  induction k generalizing s with
  | zero => exact .refl
  | succ k ih =>
    rw [pressureSteps]
    split
    · split
      · exact ((reclaim_changes _).thenQuiet).trans (ih _)
      · exact .refl
    · exact .refl

theorem reportReserves_changes : Changes s (reportReserves s) := by
  unfold reportReserves
  exact (ifThen_changes (reportAlert_changes _)).trans (ifThen_changes (reportAlert_changes _))

theorem checkReserves_changes : Changes s (checkReserves s) := by
  unfold checkReserves
  split
  · exact (pressureSteps_changes _ _).trans reportReserves_changes
  · exact .refl

end Sys2Proof.Machine
end

