-- ==== Sys2Proof/Laws/Playback.lean ====
section
/-! SUPPORT. The operations that leave the playback contexts alone, and what attaching and positioning write into a context. -/

set_option Elab.async false

namespace Sys2Proof.Machine

variable {s : State}

/-- An operation folded over items leaves alone what each application leaves alone. -/
theorem forEach_keeps {α β : Type} {g : State → β} {f : α → State → State} (h : ∀ x s, g (f x s) = g s) (xs : List α) (s : State) :
    g (forEach xs f s) = g s := by
  induction xs generalizing s with
  | nil => rfl
  | cons x xs ih => exact (ih _).trans (h x s)

@[simp] theorem originate_contexts (p : Port) (fr : Frame) : (originate p fr s).playback.contexts = s.playback.contexts := by
  unfold originate; split <;> simp

@[simp] theorem stationNotice_contexts (e : StationId) (b : List Byte) :
    (stationNotice e b s).playback.contexts = s.playback.contexts := originate_contexts _ _

@[simp] theorem endOfTakeNotice_contexts (e : StationId) (n p : Nat) (w : EndReason) :
    (endOfTakeNotice e n p w s).playback.contexts = s.playback.contexts := by simp [endOfTakeNotice]

@[simp] theorem alertManager_contexts (a : Alert) (m : Manager) : (alertManager a m s).playback.contexts = s.playback.contexts := by
  unfold alertManager; split <;> simp

@[simp] theorem reportAlert_contexts (a : Alert) : (reportAlert a s).playback.contexts = s.playback.contexts := by
  unfold reportAlert
  split
  · rfl
  · exact forEach_keeps (g := fun s => s.playback.contexts) (fun m _ => alertManager_contexts a m) _ _

@[simp] theorem clearRings_contexts (k : Nat) : (clearRings k s).playback.contexts = s.playback.contexts :=
  forEach_keeps (g := fun s => s.playback.contexts) (fun _ s => by simp) _ _

@[simp] theorem freeSlot_contexts (k : Nat) : (freeSlot k s).playback.contexts = s.playback.contexts := by
  unfold freeSlot; split <;> simp

@[simp] theorem freeTake_contexts (k : Nat) : (freeTake k s).playback.contexts = s.playback.contexts := by
  unfold freeTake; split <;> simp

@[simp] theorem reclaim_contexts (k : Nat) : (reclaim k s).playback.contexts = s.playback.contexts := by
  unfold reclaim
  split
  · rfl
  · split <;> simp

@[simp] theorem pressureSteps_contexts (k : Nat) (s : State) : (pressureSteps k s).playback.contexts = s.playback.contexts := by
  induction k generalizing s with
  | zero => rfl
  | succ k ih =>
    rw [pressureSteps]
    split
    · split
      · rw [ih]; simp
      · rfl
    · rfl

@[simp] theorem reportReserves_contexts : (reportReserves s).playback.contexts = s.playback.contexts := by
  unfold reportReserves
  split <;> dsimp only <;> split <;> simp

@[simp] theorem checkReserves_contexts : (checkReserves s).playback.contexts = s.playback.contexts := by
  unfold checkReserves; split <;> simp

@[simp] theorem updTake_contexts (k : Nat) (f : Take → Take) : (s.updTake k f).playback.contexts = s.playback.contexts := by
  unfold State.updTake; split <;> simp

@[simp] theorem pin_contexts (k : Nat) : (pin k s).playback.contexts = s.playback.contexts := updTake_contexts _ _

@[simp] theorem unpin_contexts (k : Nat) : (unpin k s).playback.contexts = s.playback.contexts := by
  unfold unpin; dsimp only; split <;> simp

@[simp] theorem becomeListening_contexts (e : StationId) : (becomeListening e s).playback.contexts = s.playback.contexts := by
  unfold becomeListening; split <;> simp

@[simp] theorem endListening_contexts (e : StationId) : (endListening e s).playback.contexts = s.playback.contexts := by
  unfold endListening; split <;> simp

theorem context_of_contexts {s t : State} (h : t.playback.contexts = s.playback.contexts) (e : StationId) : t.context e = s.context e := by
  simp [State.context, h]

/-! ## Positioning and attaching -/

@[simp] theorem setPosition_context (e : StationId) (k p : Nat) :
    (setPosition e k p s).context e = { s.context e with position := some p, located := some (s.locate k p) } := by
  simp [setPosition]

theorem setPosition_context_ne {e q : StationId} (k p : Nat) (h : e ≠ q) : (setPosition e k p s).context q = s.context q :=
  State.context_updContext_ne _ _ h

/-- Two updates of one context are one update. -/
theorem updContext_updContext (e : StationId) (f g : Context → Context) :
    (s.updContext e f).updContext e g = s.updContext e fun x => g (f x) := by
  simp [State.updContext, State.context]

/-- Finding a page reads nothing of the contexts. -/
theorem locate_updContext (e : StationId) (f : Context → Context) (k p : Nat) : (s.updContext e f).locate k p = s.locate k p := rfl

theorem setPosition_updContext (e : StationId) (f : Context → Context) (k p : Nat) :
    setPosition e k p (s.updContext e f) =
      s.updContext e fun x => { f x with position := some p, located := some (s.locate k p) } := by
  rw [setPosition, locate_updContext, updContext_updContext]

/-- What an attachment leaves in its context (R131). -/
theorem attach_context (e : StationId) (k : Nat) (mix : Mix) :
    (attach e k mix s).context e =
      { state := .paused, take := some k, position := some 0, located := some ((pin k s).locate k 0), saved := none, notice := none,
        mix := mix, follow := false, link := none, credits := 0, markersSent := 0, flags := none } := by
  unfold attach
  dsimp only
  split
  · rw [context_of_contexts (unpin_contexts _), context_of_contexts (becomeListening_contexts _), setPosition_updContext,
      State.context_updContext]
  · rw [context_of_contexts (becomeListening_contexts _), setPosition_updContext, State.context_updContext]

/-- An attachment leaves the other contexts alone (R131). -/
theorem attach_context_ne {e q : StationId} (k : Nat) (mix : Mix) (h : e ≠ q) : (attach e k mix s).context q = s.context q := by
  unfold attach
  dsimp only
  split
  · rw [context_of_contexts (unpin_contexts _), context_of_contexts (becomeListening_contexts _), setPosition_updContext,
      State.context_updContext_ne _ _ h, context_of_contexts (pin_contexts _)]
  · rw [context_of_contexts (becomeListening_contexts _), setPosition_updContext, State.context_updContext_ne _ _ h,
      context_of_contexts (pin_contexts _)]

/-- A detachment leaves the other contexts alone (R131). -/
theorem detach_context_ne {e q : StationId} (h : e ≠ q) : (detach e s).context q = s.context q := by
  unfold detach
  split
  · rfl
  · rw [context_of_contexts (unpin_contexts _), context_of_contexts (endListening_contexts _), State.context_updContext_ne _ _ h]

/-- What a detachment leaves in its context (R131). -/
theorem detach_context (e : StationId) (s : State) (h : (s.context e).take ≠ none) :
    (detach e s).context e = stoppedContext (s.context e).mix := by
  unfold detach
  split
  · exact absurd ‹_› h
  · rw [context_of_contexts (unpin_contexts _), context_of_contexts (endListening_contexts _), State.context_updContext]

/-- After a detachment the context is attached to no take (R131). -/
theorem detach_take (e : StationId) (s : State) : ((detach e s).context e).take = none := by
  by_cases h : (s.context e).take = none
  · simp [detach, h]
  · rw [detach_context e s h]; rfl

/-! ## Open takes -/

/-- The slot holds an OPEN take. -/
def OpenAt (k : Nat) (s : State) : Prop := ∃ t, s.take? k = some t ∧ t.lifecycle = .open

theorem OpenAt.live {k : Nat} (h : OpenAt k s) : (s.take? k).isSome = true := by
  obtain ⟨t, ht, _⟩ := h; simp [ht]

theorem OpenAt.of_takes {k : Nat} {t : State} (h : OpenAt k s) (ht : t.takeTable.takes = s.takeTable.takes) : OpenAt k t := by
  unfold OpenAt State.take? at *; rw [ht]; exact h

@[simp] theorem originate_takes (p : Port) (fr : Frame) : (originate p fr s).takeTable.takes = s.takeTable.takes := by
  unfold originate; split <;> simp

@[simp] theorem endOfTakeNotice_takes (e : StationId) (n p : Nat) (w : EndReason) :
    (endOfTakeNotice e n p w s).takeTable.takes = s.takeTable.takes := by simp [endOfTakeNotice, stationNotice]

@[simp] theorem alertManager_takes (a : Alert) (m : Manager) : (alertManager a m s).takeTable.takes = s.takeTable.takes := by
  unfold alertManager; split <;> simp

@[simp] theorem reportAlert_takes (a : Alert) : (reportAlert a s).takeTable.takes = s.takeTable.takes := by
  unfold reportAlert
  split
  · rfl
  · exact forEach_keeps (g := fun s => s.takeTable.takes) (fun m _ => alertManager_takes a m) _ _

@[simp] theorem clearRings_takes (k : Nat) : (clearRings k s).takeTable.takes = s.takeTable.takes :=
  forEach_keeps (g := fun s => s.takeTable.takes) (fun _ s => by simp) _ _

@[simp] theorem reportReserves_takes : (reportReserves s).takeTable.takes = s.takeTable.takes := by
  unfold reportReserves
  split <;> dsimp only <;> split <;> simp

/-- A reclaim spares an open take (R34). -/
theorem reclaim_open {k : Nat} (j : Nat) (h : OpenAt k s) : OpenAt k (reclaim j s) := by
  unfold reclaim
  split
  · exact h
  · rename_i t ht
    split
    · rename_i hr
      obtain ⟨u, hu, ho⟩ := h
      have hj : k ≠ j := by
        rintro rfl
        rw [ht] at hu; cases hu
        simp [Take.reclaimable, ho] at hr
      refine ⟨u, ?_, ho⟩
      unfold freeTake freeSlot
      simp only [State.take?] at ht hu ⊢
      simp only [ht, clearRings_takes]
      rw [mapGet_mapErase_ne hj]
      exact hu
    · exact h

theorem pressureSteps_open {k : Nat} (n : Nat) (s : State) (h : OpenAt k s) : OpenAt k (pressureSteps n s) := by
  induction n generalizing s with
  | zero => exact h
  | succ n ih =>
    rw [pressureSteps]
    split
    · split
      · exact ih _ ((reclaim_open _ h).of_takes (by rfl))
      · exact h
    · exact h

/-- A reserve check spares an open take (R34, R35). -/
theorem checkReserves_open {k : Nat} (h : OpenAt k s) : OpenAt k (checkReserves s) := by
  unfold checkReserves
  split
  · exact (pressureSteps_open _ _ h).of_takes reportReserves_takes
  · exact h

theorem updTake_open {k : Nat} (j : Nat) {f : Take → Take} (hf : ∀ t, (f t).lifecycle = t.lifecycle) (h : OpenAt k s) :
    OpenAt k (s.updTake j f) := by
  unfold State.updTake
  split
  · rename_i t ht
    obtain ⟨u, hu, ho⟩ := h
    by_cases hj : k = j
    · subst hj
      rw [ht] at hu; cases hu
      exact ⟨f t, mapGet_mapSet_same, by rw [hf, ho]⟩
    · exact ⟨u, (mapGet_mapSet_ne hj).trans hu, ho⟩
  · exact h

/-- Changing a take makes and frees none. -/
theorem updTake_live {k : Nat} (j : Nat) (f : Take → Take) (h : (s.take? k).isSome = true) : ((s.updTake j f).take? k).isSome = true := by
  unfold State.updTake
  split
  · by_cases hj : k = j
    · subst hj; simp [State.setTake, State.take?]
    · exact .trans (congrArg Option.isSome (mapGet_mapSet_ne hj)) h
  · exact h

theorem unpin_open {k : Nat} (j : Nat) (h : OpenAt k s) : OpenAt k (unpin j s) := by
  unfold unpin
  dsimp only
  split
  · exact checkReserves_open (updTake_open j (fun _ => rfl) h)
  · exact updTake_open j (fun _ => rfl) h

theorem becomeListening_takes (e : StationId) : (becomeListening e s).takeTable.takes = s.takeTable.takes := by
  unfold becomeListening; split <;> rfl

theorem endListening_takes (e : StationId) : (endListening e s).takeTable.takes = s.takeTable.takes := by
  unfold endListening; split <;> rfl

/-- An attachment leaves an open take open (R131). -/
theorem attach_open {k : Nat} (e : StationId) (j : Nat) (mix : Mix) (h : OpenAt k s) : OpenAt k (attach e j mix s) := by
  unfold attach
  dsimp only
  have hp : ∀ f : Context → Context, OpenAt k (becomeListening e (setPosition e j 0 ((pin j s).updContext e f))) := fun f =>
    (updTake_open (s := s) j (f := fun t => { t with pins := t.pins + 1 }) (fun _ => rfl) h).of_takes
      (by rw [becomeListening_takes]; rfl)
  split
  · exact unpin_open _ (hp _)
  · exact hp _

/-- A detachment leaves an open take open (R131). -/
theorem detach_open {k : Nat} (e : StationId) (h : OpenAt k s) : OpenAt k (detach e s) := by
  unfold detach
  split
  · exact h
  · exact unpin_open _ (h.of_takes (by rw [endListening_takes]; rfl))

end Sys2Proof.Machine
end

