-- ==== Sys2Proof/Laws/ChangeRecord.lean ====
section
/-! SUPPORT. The record path, the take table, the marker pool and the hand-off unit as chains of changes. -/

set_option Elab.async false

namespace Sys2Proof.Machine

variable {s t : State}

/-! ## PageStore -/

theorem setTake_take (s : State) (k : Nat) (t : Take) : (s.setTake k t).take? k = some t := mapGet_mapSet_same

theorem setTake_take_ne (s : State) {k j : Nat} (t : Take) (h : j ≠ k) : (s.setTake k t).take? j = s.take? j := mapGet_mapSet_ne h

theorem storeCell_changes (k : Nat) (cell : AudioCell) : Changes s (storeCell k cell s).1 := by
  unfold storeCell
  split
  · exact .refl
  · rename_i t ht
    split
    · rename_i hn
      split
      · exact Changes.quiet
      · rename_i n rest hf
        exact .trans (.single (.linked s k n rest t cell ht hf hn)) checkReserves_changes
    · rename_i hn
      exact .single (.wrote s k t cell ht (by simpa using hn))

/-! ## Markers -/

theorem grants_pos {k : MarkerKind} (h : s.grants k = true) : 0 < s.markerPool.free := by
  unfold State.grants at h
  split at h
  · exact Nat.lt_of_le_of_lt (Nat.zero_le _) (of_decide_eq_true h)
  · exact of_decide_eq_true h

theorem placeMarker_changes (k : Nat) (m : Marker) : Changes s (placeMarker k m s).1 := by
  unfold placeMarker
  split
  · exact .refl
  · rename_i t ht
    split
    · exact .single (.place s k t m ht (grants_pos ‹_›))
    · exact .refl

theorem placeCounted_changes (k : Nat) (m : Marker) : Changes s (placeCounted k m s) := placeMarker_changes _ _

theorem placeMarker_take_none {k j : Nat} (m : Marker) (h : s.take? j = none) : (placeMarker k m s).1.take? j = none := by
  unfold placeMarker
  split
  · exact h
  · rename_i t ht
    split
    · have hj : j ≠ k := fun e => by subst e; simp [ht] at h
      exact .trans (mapGet_mapSet_ne hj) h
    · exact h

theorem updTake_take_none {k j : Nat} (f : Take → Take) (h : s.take? j = none) : (s.updTake k f).take? j = none := by
  unfold State.updTake
  split
  · rename_i t ht
    have hj : j ≠ k := fun e => by subst e; simp [ht] at h
    exact .trans (setTake_take_ne _ _ hj) h
  · exact h

theorem loseAnnotation_changes (k : Nat) : Changes s (loseAnnotation k s) := by
  unfold loseAnnotation
  refine Changes.trans ?_ (reportAlert_changes _)
  exact .markerPool (updTake_changes k _)

/-! ## Contexts -/

/-- A position written into an attached context. -/
theorem setPosition_changes {e : StationId} (k p : Nat) (h : (s.context e).take ≠ none) : Changes s (setPosition e k p s) :=
  updContext_changes e (fun c => { c with position := some p, located := some (s.locate k p) }) fun hc => by
    simpa [Context.coherent, h] using hc.1

theorem becomeListening_changes (e : StationId) : Changes s (becomeListening e s) :=
  ifThen_changes (updStation_changes _ _)

theorem endListening_changes (e : StationId) : Changes s (endListening e s) := ifThen_changes (updStation_changes _ _)

/-- Giving up a pin reads and writes no station, and becoming LISTENING no take. -/
theorem becomeListening_updTake (e : StationId) (k : Nat) (f : Take → Take) (s : State) :
    becomeListening e (s.updTake k f) = (becomeListening e s).updTake k f := by
  unfold becomeListening
  rw [State.updTake_station]
  split
  · unfold State.updTake; rw [State.updStation_take]; split <;> rfl
  · rfl

theorem endListening_updTake (e : StationId) (k : Nat) (f : Take → Take) (s : State) :
    endListening e (s.updTake k f) = (endListening e s).updTake k f := by
  unfold endListening
  rw [State.updTake_station]
  split
  · unfold State.updTake; rw [State.updStation_take]; split <;> rfl
  · rfl

/-- An attachment is the move of a context to a live take (R131). -/
theorem attach_changes (e : StationId) {k : Nat} (mix : Mix) (h : (s.take? k).isSome = true) : Changes s (attach e k mix s) := by
  have hm : Changes s (moveContext e ((attach e k mix s).context e) s) :=
    .single (.moved s e _ (by rw [attach_context]; simp [Context.coherent])
      (by rw [attach_context]; intro j hj; cases hj; exact h))
  rw [attach_context] at hm
  unfold attach
  dsimp only
  rw [setPosition_updContext]
  unfold moveContext at hm
  dsimp only at hm
  split
  · rename_i o ho
    rw [ho] at hm
    unfold unpin
    rw [← becomeListening_updTake]
    exact .trans (.trans hm (becomeListening_changes e)) (ifThen_changes checkReserves_changes)
  · rename_i ho
    rw [ho] at hm
    exact .trans hm (becomeListening_changes e)

/-- A detachment is the move of a context to no take (R131). -/
theorem detach_changes (e : StationId) : Changes s (detach e s) := by
  unfold detach
  split
  · exact .refl
  · rename_i o ho
    have hm : Changes s (moveContext e (stoppedContext (s.context e).mix) s) :=
      .single (.moved s e _ (by simp [stoppedContext, Context.coherent]) (by simp [stoppedContext]))
    unfold moveContext at hm
    simp only [ho, stoppedContext] at hm
    unfold unpin
    rw [← endListening_updTake]
    exact .trans (.trans hm (endListening_changes e)) (ifThen_changes checkReserves_changes)

/-! ## Arbiter -/

theorem updPool_changes (p : PoolId) (f : List Nat → List Nat) : Changes s (s.updPool p f) := Changes.quiet

theorem offer_changes (k : Nat) (e : StationId) : Changes s (offer k e s) := by
  unfold offer
  split
  · exact .refl
  · rename_i t ht
    refine Changes.trans ?_ (stationNotice_changes _ _)
    refine .handOff (.trans ?_ (updStation_changes e _))
    exact .trans (.handOff .refl) (setTake_changes (t := t) _ ht)

theorem arrive_changes (k : Nat) : Changes s (arrive k s) := by
  unfold arrive
  split
  · exact .refl
  · split
    · exact .trans (.handOff .refl) (offer_changes _ _)
    · exact .refl

theorem makeIdle_changes (e : StationId) : Changes s (makeIdle e s) := updStation_changes _ _

theorem returnToPool_changes (e : StationId) (k : Nat) : Changes s (returnToPool e k s) := by
  unfold returnToPool
  dsimp only
  refine Changes.trans ?_ (makeIdle_changes e)
  split
  · rename_i t ht
    refine .handOff (.trans ?_ (setTake_changes (t := t) _ ht))
    exact .trans (updStation_changes e _) (detach_changes e)
  · exact .trans (updStation_changes e _) (detach_changes e)

theorem giveBack_changes (e : StationId) {additions : Nat → State → State} (h : ∀ n s, Changes s (additions n s)) :
    Changes s (giveBack e additions s) := by
  unfold giveBack
  split
  · exact .refl
  · exact .trans (returnToPool_changes _ _) (.trans (h _ _) (arrive_changes _))

theorem giveBackTransfer_changes (e : StationId) : Changes s (giveBackTransfer e s) := by
  unfold giveBackTransfer
  split
  · exact .refl
  · exact .trans (.trans (updStation_changes e _) (detach_changes e))
      (.trans (.handOff (updTake_changes _ _)) (makeIdle_changes e))

theorem addMiss_changes (e : StationId) : Changes s (addMiss e s) := updStation_changes _ _

theorem retainIfDone_changes (k : Nat) : Changes s (retainIfDone k s) := by
  unfold retainIfDone
  split
  · exact .refl
  · rename_i t ht
    split
    · exact .trans (.store (setTake_changes (t := t) _ ht)) checkReserves_changes
    · exact .refl

/-! ## Cuts -/

theorem openTakeIn_changes {k : Nat} (r : RoomId) (h : s.take? k = none) (hk : k < Config.takeSlots) :
    Changes s (openTakeIn k r s) := by
  unfold openTakeIn
  exact .trans (.takeTable (.single (.opened s k _ h hk rfl rfl rfl rfl))) checkReserves_changes

theorem openTakeIn_open (k : Nat) (r : RoomId) : OpenAt k (openTakeIn k r s) := by
  unfold openTakeIn
  exact checkReserves_open ⟨_, mapGet_mapSet_same, rfl⟩

theorem placeCounted_open {k : Nat} (j : Nat) (m : Marker) (h : OpenAt k s) : OpenAt k (placeCounted j m s) := by
  unfold placeCounted placeMarker
  split
  · exact h
  · rename_i t ht
    split
    · obtain ⟨u, hu, ho⟩ := h
      by_cases hj : k = j
      · subst hj
        rw [ht] at hu; cases hu
        exact ⟨_, mapGet_mapSet_same, ho⟩
      · exact ⟨u, (mapGet_mapSet_ne hj).trans hu, ho⟩
    · exact h

theorem placeCarried_open (k : Nat) (rm : Room) (cause : CutCause) (source : Byte) (n : Nat) (h : OpenAt k s) :
    OpenAt k (placeCarried k rm cause source n s) := by
  unfold placeCarried
  dsimp only
  split <;> split <;> (try split) <;> simp only [placeCounted_open, h]

theorem linkFollowers_takes (k n : Nat) : (linkFollowers k n s).takeTable.takes = s.takeTable.takes := by
  unfold linkFollowers
  refine forEach_keeps (g := fun s => s.takeTable.takes) (fun _ _ => ?_) _ _
  split <;> simp

theorem closeTake_changes (k : Nat) (rm : Room) (cause : CutCause) (source : Byte) : Changes s (closeTake k rm cause source s) := by
  unfold closeTake
  dsimp only
  split
  · exact .refl
  · refine Changes.trans ?_ (updTake_changes k _)
    split
    · exact placeCounted_changes _ _
    · split
      · exact placeCounted_changes _ _
      · exact .refl

theorem closeTake_take_none {k j : Nat} (rm : Room) (cause : CutCause) (source : Byte) (h : s.take? j = none) :
    (closeTake k rm cause source s).take? j = none := by
  unfold closeTake
  dsimp only
  split
  · exact h
  · refine updTake_take_none _ ?_
    split
    · exact placeMarker_take_none _ h
    · split
      · exact placeMarker_take_none _ h
      · exact h

theorem enterQueues_changes (k : Nat) : Changes s (enterQueues k s) := by
  unfold enterQueues
  split
  · exact .refl
  · exact .trans (.handOff (.handOff .refl)) (.trans (.takeTable .refl) (arrive_changes k))

theorem linkFollowers_changes (k n : Nat) : Changes s (linkFollowers k n s) :=
  forEach_changes (fun e _ => ifThen_changes (updContext_changes e _ fun h => h)) _ _

theorem followMove_changes (e : StationId) {k : Nat} (h : (s.take? k).isSome = true) : Changes s (followMove e k s) :=
  .trans (attach_changes _ _ h) (updContext_changes e _ fun h => h)

theorem followMove_take (e : StationId) (k : Nat) : ((followMove e k s).context e).take = some k := by
  simp [followMove, attach_context]

theorem movedState_ne (b : ContextState) (c : Bool) (t : Option Take) : movedState b c t ≠ .stopped := by
  unfold movedState; split
  · simp
  · split <;> simp

/-- A state other than STOPPED written into an attached context. -/
theorem setState_changes {e : StationId} {x : ContextState} (hx : x ≠ .stopped) (h : (s.context e).take ≠ none) :
    Changes s (s.updContext e fun c => { c with state := x }) :=
  updContext_changes e _ fun hc => ⟨by simp [hx, h], hc.2⟩

theorem discardContext_changes (k : Nat) (successor : Option Nat) (e : StationId) (h : ∀ j, successor = some j → OpenAt j s) :
    Changes s (discardContext k successor e s) := by
  unfold discardContext
  split
  · split
    · refine .trans (followMove_changes _ (h _ rfl).live) (setState_changes (movedState_ne _ _ _) ?_)
      rw [followMove_take]; simp
    · exact .trans (detach_changes e) (endOfTakeNotice_changes _ _ _ _)
  · exact .refl

theorem discardContext_open {j : Nat} (k : Nat) (successor : Option Nat) (e : StationId) (h : OpenAt j s) :
    OpenAt j (discardContext k successor e s) := by
  unfold discardContext
  split
  · split
    · exact (attach_open e _ _ h).of_takes rfl
    · exact (detach_open e h).of_takes (endOfTakeNotice_takes _ _ _ _)
  · exact h

/-- A discard takes each context away from the take, and brings none to it. -/
theorem discardContext_take {k : Nat} {successor : Option Nat} (hk : successor ≠ some k) (e q : StationId)
    (h : e = q ∨ (s.context q).take ≠ some k) : ((discardContext k successor e s).context q).take ≠ some k := by
  unfold discardContext
  by_cases he : e = q
  · subst he
    split
    · split
      · rw [State.context_updContext, followMove_take]; exact hk
      · rw [context_of_contexts (endOfTakeNotice_contexts _ _ _ _), detach_take]; simp
    · assumption
  · have hq := h.resolve_left he
    split
    · split
      · rw [State.context_updContext_ne _ _ he, followMove, State.context_updContext_ne _ _ he, attach_context_ne _ _ he]; exact hq
      · rw [context_of_contexts (endOfTakeNotice_contexts _ _ _ _), detach_context_ne he]; exact hq
    · exact hq

theorem discardContexts_spec {k : Nat} {successor : Option Nat} (hk : successor ≠ some k) (xs : List StationId) (s : State)
    (h : ∀ j, successor = some j → OpenAt j s) :
    Changes s (forEach xs (discardContext k successor) s) ∧
      ∀ q, q ∈ xs ∨ (s.context q).take ≠ some k → ((forEach xs (discardContext k successor) s).context q).take ≠ some k := by
  induction xs generalizing s with
  | nil => exact ⟨.refl, fun q hq => hq.resolve_left (by simp)⟩
  | cons x xs ih =>
    have hx := ih (discardContext k successor x s) fun j hj => discardContext_open k successor x (h j hj)
    refine ⟨.trans (discardContext_changes k successor x h) hx.1, fun q hq => hx.2 q ?_⟩
    by_cases hm : q ∈ xs
    · exact .inl hm
    · exact .inr (discardContext_take hk x q (hq.imp (fun hm' => ((List.mem_cons.1 hm').resolve_right hm).symm) id))

theorem discardTake_changes {k : Nat} {successor : Option Nat} (hk : successor ≠ some k) (h : ∀ j, successor = some j → OpenAt j s) :
    Changes s (discardTake k successor s) := by
  have hd := discardContexts_spec hk allStations s h
  unfold discardTake
  exact .countTakes (.trans hd.1 (freeTake_changes k fun _ _ => .inr fun q => hd.2 q (.inl (List.mem_finRange q)))) _

theorem placeCarried_changes (k : Nat) (rm : Room) (cause : CutCause) (source : Byte) (n : Nat) :
    Changes s (placeCarried k rm cause source n s) := by
  unfold placeCarried
  dsimp only
  refine Changes.trans (t := if rm.sealed then placeCounted k (plainMarker .sealBegin 0 s.now source) s
    else if rm.state = .offRecord then placeCounted k (plainMarker .offRecordBegin 0 s.now source) s else s) ?_ ?_
  · split
    · exact placeCounted_changes _ _
    · exact ifThen_changes (placeCounted_changes _ _)
  · exact ifThen_changes (placeCounted_changes _ _)

theorem updRoomDynamic_changes (r : RoomId) (f : Room → Room)
    (h : ∀ x, (f x).config = x.config ∧ (f x).ring = x.ring := by intro _; exact ⟨rfl, rfl⟩) :
    Changes s (s.updRoom r f) := updRoom_changes r f (fun x => (h x).1) (fun x => (h x).2)

theorem makeCut_changes {k k' : Nat} (r : RoomId) (cause : CutCause) (source : Byte) (h : s.take? k' = none)
    (hk : k' < Config.takeSlots) (hne : k ≠ k') : Changes s (makeCut r k k' cause source s) := by
  unfold makeCut
  dsimp only
  refine Changes.trans ?_ (updRoomDynamic_changes r _)
  refine .trans ?_ (either_changes (discardTake_changes (by simpa using Ne.symm hne) fun j hj => ?_) (enterQueues_changes _))
  · refine .trans (.trans ?_ (placeCarried_changes _ _ _ _ _)) (linkFollowers_changes _ _)
    exact .trans (closeTake_changes _ _ _ _) (openTakeIn_changes r (closeTake_take_none _ _ _ h) hk)
  · cases hj
    exact (placeCarried_open _ _ _ _ _ (openTakeIn_open _ _)).of_takes (linkFollowers_takes _ _)

theorem tryCut_changes (r : RoomId) (cause : CutCause) (source : Byte) : Changes s (tryCut r cause source s).1 := by
  unfold tryCut
  split
  · rename_i k k' _ hl
    split
    · exact .refl
    · split
      · exact .refl
      · have := firstUnlisted_spec hl
        exact makeCut_changes r cause source this.1 (by simpa using this.2.2.1) ‹_›
  · exact .refl
  · exact .refl

theorem requestCut_changes (r : RoomId) (cause : CutCause) (source : Byte) : Changes s (requestCut r cause source s).1 := by
  unfold requestCut
  split
  · exact .refl
  · split
    · exact .refl
    · have h := tryCut_changes (s := s) r cause source
      split
      · rename_i s' why heq
        rw [heq] at h
        exact .trans (.takeTable h)
          (.trans (updRoomDynamic_changes r _) (reportAlert_changes _))
      · exact h

theorem retryDeferred_changes (r : RoomId) : Changes s (retryDeferred r s) := by
  unfold retryDeferred
  split
  · have h := tryCut_changes (s := s) r .deferred s.link.node
    split
    · rename_i heq; rw [heq] at h
      exact h.trans (updRoomDynamic_changes r _)
    · rename_i heq; rw [heq] at h; exact h
  · exact .refl

theorem closeRoomWith_changes (r : RoomId) (cause : CutCause) (source : Byte) : Changes s (closeRoomWith r cause source s) := by
  unfold closeRoomWith
  split
  · exact updRoomDynamic_changes r _
  · dsimp only
    refine Changes.trans ?_ (updRoomDynamic_changes r _)
    exact .trans (closeTake_changes _ _ _ _) (either_changes (discardTake_changes (by simp) (by simp)) (enterQueues_changes _))

/-! ## Record path -/

theorem placeGranule_changes (r : RoomId) (k : Nat) (g : Granule) : Changes s (placeGranule r k g s) := by
  unfold placeGranule
  dsimp only
  split
  · exact Changes.quiet
  · split
    · exact Changes.quiet
    · exact updRoomDynamic_changes r _

theorem takeObject_changes (src : Byte) (o : AudioObject) : Changes s (takeObject src o s) := by
  unfold takeObject
  split
  · exact Changes.quiet
  · split
    · exact Changes.quiet
    · split
      · split
        · exact placeGranule_changes _ _ _
        · exact Changes.quiet
      · exact Changes.quiet

theorem takeAudio_changes (src : Byte) (n : Word) (os : List AudioObject) : Changes s (takeAudio src n os s) := by
  unfold takeAudio
  split
  · exact forEach_changes (fun o _ => takeObject_changes src o) _ _
  · exact Changes.quiet

theorem dropCell_changes (r : RoomId) (cause : DropCause) : Changes s (dropCell r cause s) := by
  unfold dropCell
  dsimp only
  split
  · exact updRoomDynamic_changes r _
  · exact .trans (updRoomDynamic_changes r _) (reportAlert_changes _)

theorem countRoom_changes (r : RoomId) (f : RoomCounters → RoomCounters) : Changes s (s.countRoom r f) :=
  updRoomDynamic_changes r _

theorem offerCell_changes (r : RoomId) (k : Nat) (cell : AudioCell) (n : Nat) : Changes s (offerCell r k cell n s).1 := by
  unfold offerCell
  split
  · exact dropCell_changes _ _
  · have h := storeCell_changes (s := s) k cell
    split
    · rename_i heq; rw [heq] at h; dsimp only at h ⊢; exact .trans h (countRoom_changes _ _)
    · rename_i heq; rw [heq] at h; exact h.trans (dropCell_changes _ _)

theorem ringAdd_length (ring : List RingEntry) (x : RingEntry) (h : ring.length ≤ 64) : (ringAdd ring x).length ≤ 64 := by
  unfold ringAdd
  rw [List.length_append, List.length_singleton]
  split
  · exact Nat.succ_le_of_lt ‹_›
  · rw [List.length_drop]; omega

theorem placeGap_changes (r : RoomId) (k p : Nat) : Changes s (placeGap r k p s) := by
  unfold placeGap
  split
  · exact .refl
  · have h := placeMarker_changes (s := s) k
      { plainMarker .gap p s.now s.link.node with gapCycles := (s.room r).gap }
    dsimp only
    split
    · rename_i heq; rw [heq] at h; exact h.trans (updRoomDynamic_changes r _)
    · rename_i heq; rw [heq] at h; exact h.trans (reportAlert_changes _)

theorem afterStore_changes (r : RoomId) (k p : Nat) : Changes s (afterStore r k p s) := by
  unfold afterStore
  exact .trans (.trans (placeGap_changes r k p) (updRoomDynamic_changes r _))
    (ifThen_changes (requestCut_changes _ _ _))

theorem loseCycles_changes (r : RoomId) (n : Nat) : Changes s (loseCycles r n s) := by
  unfold loseCycles
  split
  · exact .refl
  · exact updRoomDynamic_changes r _
  · exact updRoomDynamic_changes r _

theorem recordCell_changes (r : RoomId) (k : Nat) (cell : AudioCell) (n : Nat) : Changes s (recordCell r k cell n s).1 := by
  unfold recordCell
  split
  · exact offerCell_changes _ _ _ _
  · dsimp only; exact updRoomDynamic_changes r _

theorem closeCell_changes (n : Word) (k : Nat) (r : RoomId) : Changes s (closeCell n k r s) := by
  unfold closeCell
  split
  · exact .refl
  · dsimp only
    refine .trans (retryDeferred_changes r) ?_
    split
    · exact .refl
    · rename_i slot _
      generalize hx : recordCell r slot _ _ _ = res
      have h : Changes _ res.1 := hx ▸ recordCell_changes r slot _ _
      refine Changes.trans (.trans ?_ (loseCycles_changes r k)) (updRoomDynamic_changes r _)
      refine Changes.trans (t := res.1.updRoom r fun x => { x with ring := ringAdd x.ring ⟨n, some slot, res.2, res.1.now⟩ })
        (.trans h (.single (.room _ r _ rfl fun h => ringAdd_length _ _ h))) ?_
      split
      · exact afterStore_changes _ _ _
      · exact .refl

theorem beginCell_changes (r : RoomId) : Changes s (beginCell r s) := by
  unfold beginCell
  split
  · exact .refl
  · exact updRoomDynamic_changes r _

theorem roomsTakeSync_changes (m : Word) (k : Nat) : Changes s (roomsTakeSync m k s) := by
  unfold roomsTakeSync
  dsimp only
  refine .currentCycle ?_
  split
  · exact forEach_changes (fun r _ => closeCell_changes _ k r) _ _
  · exact forEach_changes (fun r _ => beginCell_changes r) _ _

theorem roomsRestart_changes (m : Word) : Changes s (roomsRestart m s) :=
  .currentCycle (forEach_changes (fun r _ => beginCell_changes r) _ _)

theorem roomsLocalSync_changes : Changes s (roomsLocalSync s) := forEach_changes (fun r _ => loseCycles_changes r 1) _ _

/-! ## Placement -/

theorem placeAnnotation_changes (r : RoomId) (k : Nat) (kind : AnnotationKind) (m : Mark) :
    Changes s (placeAnnotation r k kind m s) := by
  unfold placeAnnotation
  dsimp only
  generalize hp : placeMarker _ _ s = res
  have h : Changes s res.1 := by rw [← hp]; exact placeMarker_changes _ _
  rcases res with ⟨s', _ | n⟩
  · exact h.trans (loseAnnotation_changes _)
  · dsimp only
    split
    · exact h.thenQuiet
    · exact h

theorem refuseMark_changes (r : RoomId) : Changes s (refuseMark r s) := countRoom_changes _ _

theorem takeMark_changes (m : Mark) {k : RoomId → State → State} (h : ∀ r s, Changes s (k r s)) : Changes s (takeMark m k s) := by
  unfold takeMark whenOn
  split
  · refine .trans (takenFrom_changes m.port m.src) ?_
    dsimp only
    split
    · exact Changes.quiet
    · split
      · exact refuseMark_changes _
      · exact h _ _
  · exact .refl

theorem takeBadMark_changes (p : Port) (src : Byte) : Changes s (takeBadMark p src s) := by
  unfold takeBadMark
  refine .trans (takenFrom_changes p src) ?_
  dsimp only
  split <;> exact Changes.quiet

theorem withEntries_changes (r : RoomId) (n : Nat) {k : State → State} (h : Changes s (k s)) : Changes s (withEntries r n k s) := by
  unfold withEntries
  split
  · exact .trans (refuseMark_changes r) (reportAlert_changes _)
  · exact h

theorem placeStateMarker_changes (r : RoomId) (kind : MarkerKind) (src : Byte) (n : Nat) :
    Changes s (placeStateMarker r kind src n s) := by
  unfold placeStateMarker
  split
  · exact .refl
  · exact placeCounted_changes _ _

end Sys2Proof.Machine
end

