-- ==== Sys2Proof/Laws/ChangePlay.lean ====
section
/-! SUPPORT. The Playback Unit, the status stream, cycle timing and the transmitters as chains of changes. -/

set_option Elab.async false

namespace Sys2Proof.Machine

variable {s : State} {e : StationId}

/-! ## The Cue Resolver -/

/-- A state other than STOPPED, and any other fields that leave take, position and located page alone, written into an attached context. -/
theorem updAttached_changes (f : Context → Context) (h : (s.context e).take ≠ none) (hs : ∀ x, (f x).state ≠ .stopped)
    (ht : ∀ x, (f x).take = x.take := by intro _; rfl) (hp : ∀ x, (f x).position = x.position := by intro _; rfl)
    (hl : ∀ x, (f x).located = x.located := by intro _; rfl) : Changes s (s.updContext e f) :=
  updContext_changes e f (fun hc => by
    unfold Context.coherent
    rw [ht, hp, hl]
    exact ⟨by simp [hs, h], hc.2⟩) (ht _)

/-- Fields of a context that leave state, take, position and located page alone. -/
theorem updPlain_changes (f : Context → Context) (hs : ∀ x, (f x).state = x.state := by intro _; rfl)
    (ht : ∀ x, (f x).take = x.take := by intro _; rfl) (hp : ∀ x, (f x).position = x.position := by intro _; rfl)
    (hl : ∀ x, (f x).located = x.located := by intro _; rfl) : Changes s (s.updContext e f) :=
  updContext_changes e f (fun hc => by
    unfold Context.coherent
    rw [hs, ht, hp, hl]
    exact hc) (ht _)

theorem playState_ne (t : Take) (z : Resolution) : playState t z ≠ .stopped := by
  unfold playState; split
  · simp
  · split <;> simp

theorem writeResolution_changes (k : Nat) (z : Resolution) (h : (s.context e).take ≠ none) : Changes s (writeResolution e k z s) :=
  .trans (setPosition_changes k z.position h) (updPlain_changes _)

theorem writeResolution_take (k : Nat) (z : Resolution) : ((writeResolution e k z s).context e).take = (s.context e).take := by
  simp [writeResolution]

/-! ## Delivery -/

theorem sendPlayback_changes (e : StationId) (b : List Byte) : Changes s (sendPlayback e b s) := originate_changes _ _

theorem reachNotice_changes (t : Take) : Changes s (reachNotice e t s) := by
  unfold reachNotice
  split
  · exact .refl
  · exact .trans (stationNotice_changes _ _) (updPlain_changes _)

theorem reachNotice_take (t : Take) : ((reachNotice e t s).context e).take = (s.context e).take := by
  unfold reachNotice
  split
  · rfl
  · rw [State.context_updContext, context_of_contexts (stationNotice_contexts _ _)]

theorem reachNoticeIf_changes (t : Take) (p : Nat → Bool) : Changes s (reachNoticeIf e t p s) := ifThen_changes (reachNotice_changes t)

theorem reachNoticeIf_take (t : Take) (p : Nat → Bool) : ((reachNoticeIf e t p s).context e).take = (s.context e).take := by
  unfold reachNoticeIf
  split
  · exact reachNotice_take t
  · rfl

theorem setPosition_take (k p : Nat) : ((setPosition e k p s).context e).take = (s.context e).take := by simp

theorem passSpans_spec (n k : Nat) (t : Take) (s : State) (h : (s.context e).take ≠ none) :
    Changes s (passSpans n e k t s).1 ∧ ((passSpans n e k t s).1.context e).take = (s.context e).take := by
  induction n generalizing s with
  | zero => exact ⟨.refl, rfl⟩
  | succ n ih =>
    rw [passSpans]
    split
    · exact ⟨.refl, rfl⟩
    · split
      · rename_i x _ _ _
        have ha : ((setPosition e k x.first s).context e).take ≠ none := by rw [setPosition_take]; exact h
        exact ⟨.trans (setPosition_changes k _ h) (setState_changes (by simp) ha), by simp⟩
      · rename_i stop _
        refine (ih _ ?_).imp (fun hc => .trans (.countPlayback (setPosition_changes k _ h) _) hc) ?_
        · simpa using h
        · intro ht; rw [ht]; simp

theorem passSealed_spec (n k : Nat) (t : Take) (s : State) (h : (s.context e).take ≠ none) :
    Changes s (passSealed n e k t s).1 ∧ ((passSealed n e k t s).1.context e).take = (s.context e).take := by
  have hp := passSpans_spec n k t s h
  unfold passSealed
  dsimp only
  exact ⟨hp.1.trans (reachNoticeIf_changes _ _), by rw [reachNoticeIf_take]; exact hp.2⟩

theorem sendCell_changes (k p : Nat) (t : Take) (cell : AudioCell) (h : (s.context e).take ≠ none) :
    Changes s (sendCell e k p t cell s) := by
  unfold sendCell
  have h0 : ∀ b, ((sendPlayback e b s).context e).take ≠ none := fun b => by
    unfold sendPlayback; rw [context_of_contexts (originate_contexts _ _)]; exact h
  refine .trans (.countPlayback (.trans (.trans (sendPlayback_changes _ _) (setPosition_changes _ _ (h0 _)))
    (updAttached_changes _ ?_ fun x => ?_)) _) (reachNoticeIf_changes _ _)
  · rw [setPosition_take]; exact h0 _
  · simp

/-- A take found by its number is live. -/
theorem findTake_live {n k : Nat} {t : Take} (h : s.findTake n = some (k, t)) : (s.take? k).isSome = true := by
  have hm := List.mem_of_find?_eq_some h
  by_contra hc
  exact mapGet_eq_none_iff.1 (Option.not_isSome_iff_eq_none.1 hc) (List.mem_map_of_mem (f := Prod.fst) hm)

theorem followTarget_live {t : Take} {k : Nat} (h : s.followTarget e t = some k) : (s.take? k).isSome = true := by
  unfold State.followTarget at h
  split at h
  · rename_i j t' hf
    split at h
    · cases h
      obtain ⟨n, _, hn⟩ := Option.bind_eq_some_iff.1 hf
      exact findTake_live hn
    · cases h
  · cases h

/-- A follow move with a playing state written after it. -/
theorem followTo_changes {k : Nat} (x : ContextState) (hx : x ≠ .stopped) (h : (s.take? k).isSome = true) :
    Changes s ((followMove e k s).updContext e fun c => { c with state := x }) :=
  .trans (followMove_changes _ h) (setState_changes hx (by rw [followMove_take]; simp))

theorem deliver_changes (n : Nat) (s : State) : Changes s (deliver n e s) := by
  induction n generalizing s with
  | zero => exact .refl
  | succ n ih =>
    rw [deliver]
    split
    · exact .refl
    · rename_i k hk
      split
      · exact .refl
      · rename_i t _
        have hn : (s.context e).take ≠ none := by simp [hk]
        generalize hr : (if (s.station e).config.clearance = true then (s, false) else passSealed (t.spans.length + 1) e k t s) = r
        have hs : Changes s r.1 ∧ (r.1.context e).take = (s.context e).take := by
          rw [← hr]
          split
          · exact ⟨.refl, rfl⟩
          · exact passSealed_spec _ _ _ _ hn
        have h1 : (r.1.context e).take ≠ none := by rw [hs.2]; exact hn
        dsimp only
        refine .trans hs.1 ?_
        split
        · exact .refl
        · split
          · exact sendCell_changes _ _ _ _ h1
          · split
            · exact setState_changes (by simp) h1
            · refine .trans (reachNoticeIf_changes (e := e) t fun n => n == (r.1.context e).position.getD 0) ?_
              split
              · split
                · exact .trans (followTo_changes _ (by simp) (followTarget_live ‹_›)) (ih _)
                · exact .trans (detach_changes e) (endOfTakeNotice_changes _ _ _ _)
              · refine .trans (setState_changes (by simp) ?_) (endOfTakeNotice_changes _ _ _ _)
                rw [reachNoticeIf_take]; exact h1

theorem sendMarkerItem_changes (t : Take) (m : Marker) : Changes s (sendMarkerItem e t m s) := by
  unfold sendMarkerItem useCredit
  exact .countPlayback (.trans (.trans (sendPlayback_changes _ _) (updPlain_changes _)) (updPlain_changes _)) _

theorem sendBulkCell_changes (k p : Nat) (t : Take) (cell : AudioCell) (h : (s.context e).take ≠ none) :
    Changes s (sendBulkCell e k p t cell s) := by
  unfold sendBulkCell
  refine .trans (.countPlayback (.trans ?_ (setPosition_changes _ _ ?_)) _) (ifThen_changes (endOfTakeNotice_changes _ _ _ _))
  · exact .trans (sendPlayback_changes e _) (updPlain_changes _)
  · unfold useCredit sendPlayback
    rw [State.context_updContext, context_of_contexts (originate_contexts _ _)]
    exact h

theorem deliverBulk_changes (n : Nat) (s : State) : Changes s (deliverBulk n e s) := by
  induction n generalizing s with
  | zero => exact .refl
  | succ n ih =>
    rw [deliverBulk]
    split
    · exact .refl
    · rename_i k hk
      split
      · exact .refl
      · dsimp only
        split
        · exact .refl
        · split
          · split
            · exact .trans (sendMarkerItem_changes _ _) (ih _)
            · exact .refl
          · split
            · exact .trans (sendBulkCell_changes _ _ _ _ (by simp [hk])) (ih _)
            · exact .refl

theorem deliverContext_changes (e : StationId) : Changes s (deliverContext e s) := by
  unfold deliverContext
  split
  · exact .refl
  · exact .refl
  · exact deliver_changes _ _
  · exact deliver_changes _ _
  · exact deliver_changes _ _
  · exact deliverBulk_changes _ _

/-! ## The status stream -/

theorem sendStatus_changes : Changes s (sendStatus s) := by
  unfold sendStatus
  split
  · exact .refl
  · exact .countMgmt (originate_changes _ _) _

theorem statusNow_changes : Changes s (statusNow s) := .mgmt sendStatus_changes

theorem countStatusCycle_changes : Changes s (countStatusCycle s) := by
  unfold countStatusCycle
  split
  · split
    · exact statusNow_changes
    · exact .mgmt .refl
  · exact .refl

/-! ## Cycle timing -/

theorem officeSideSync_changes : Changes s (officeSideSync s) :=
  .trans (.trans (forEach_changes (fun e _ => deliverContext_changes e) _ _) countStatusCycle_changes) (releaseHeld_changes _)

theorem produceSync_changes (fr : Frame) (n : Word) : Changes s (produceSync fr n s) := .link .refl

theorem countSkipped_changes (m : Word) : Changes s (countSkipped m s) := by unfold countSkipped; exact .countLink .refl _

theorem roomsThenPlayback_changes {rooms : State → State} (h : ∀ s, Changes s (rooms s)) (order : SyncOrder) :
    Changes s (match order with
      | .roomsFirst => officeSideSync (rooms s)
      | .playbackFirst => rooms (officeSideSync s)) := by
  cases order
  · exact .trans (h _) officeSideSync_changes
  · exact .trans officeSideSync_changes (h _)

theorem captureInRepeating_changes (f : SyncFrame) (order : SyncOrder) : Changes s (captureInRepeating f order s) := by
  unfold captureInRepeating
  refine .trans ?_ (releaseHeld_changes _)
  refine .trans ?_ (roomsThenPlayback_changes (rooms := roomsTakeSync f.cycle (skippedCount s.link.previousSync f.cycle))
    (fun _ => roomsTakeSync_changes _ _) order)
  exact .trans (.link (.link (countSkipped_changes _))) (produceSync_changes _ _)

theorem captureInLocal_changes (f : SyncFrame) (order : SyncOrder) : Changes s (captureInLocal f order s) := by
  unfold captureInLocal
  refine .trans ?_ (releaseHeld_changes _)
  refine .trans ?_ (roomsThenPlayback_changes (rooms := roomsRestart f.cycle) (fun _ => roomsRestart_changes _) order)
  exact .trans (.link (.link .refl)) (produceSync_changes _ _)

theorem takeCaptureSync_changes (f : SyncFrame) (order : SyncOrder) : Changes s (takeCaptureSync f order s) := by
  unfold takeCaptureSync
  refine .trans (takenFrom_changes .capture f.src) ?_
  dsimp only
  split
  · exact captureInRepeating_changes _ _
  · exact captureInLocal_changes _ _

theorem makeLocalSync_changes : Changes s (makeLocalSync s) := by
  unfold makeLocalSync
  exact .trans (.trans (.link (.countLink (produceSync_changes _ _) _)) roomsLocalSync_changes) officeSideSync_changes

theorem loseSync_changes : Changes s (loseSync s) := by
  unfold loseSync
  refine .trans (.countLink (.trans (.trans (.link .refl) (forEach_changes (fun r _ => beginCell_changes r) _ _)) makeLocalSync_changes) _)
    (reportAlert_changes _)

/-! ## The transmitters -/

theorem sendOut_changes (p : Port) (fr : Frame) : Changes s (sendOut p fr s) := updPort_changes _ _ fun _ => ⟨rfl, rfl, rfl⟩

theorem transmitQueued_changes (p : Port) : Changes s (transmitQueued p s) := by
  have ho : ∀ fr, Changes s (sendOriginated p fr s) := fun fr =>
    .trans (.single (.port s p _ fun hb => ⟨le_trans (by simp) hb.1, hb.2⟩)) (sendOut_changes p fr)
  have hf : ∀ fr, Changes s (sendForwarded p fr s) := fun fr =>
    .trans (.single (.port s p _ fun hb => ⟨hb.1, le_trans (by simp) hb.2.1, hb.2.2⟩)) (sendOut_changes p fr)
  unfold transmitQueued
  split
  · exact either_changes (ho _) (hf _)
  · exact ho _
  · exact hf _
  · exact .refl

theorem transmitNext_changes (p : Port) : Changes s (transmitNext p s) := by
  unfold transmitNext
  split
  · exact .trans (.link .refl) (sendOut_changes _ _)
  · exact transmitQueued_changes _

end Sys2Proof.Machine
end

