-- ==== Sys2Proof/Laws/Moves.lean ====
section
/-! SUPPORT. What a whole command can do. A move is a change (Laws/Change.lean), or one of the few writes that no change makes: the clock, the
operating state, the power state, a configuration table. Every command but the two resets is a chain of moves, and every command but those
few is a chain of changes. -/

set_option Elab.async false

namespace Sys2Proof.Machine

/-- One move of the state. -/
inductive Move : State → State → Prop where
  | change (s t : State) (h : Change s t) : Move s t
  | tick (s : State) : Move s { s with clock := s.clock.addTick }
  | clock (s : State) (c : Calendar) (h : c.legal) : Move s { s with clock := c }
  | power (s : State) (p : Power) : Move s { s with power := p }
  | op (s : State) (x : OpState) : Move s { s with mgmt := { s.mgmt with op := x } }
  | ingest (s : State) (i : Nat) (x : IngestEntry) (h : x.inRange) : Move s { s with ingestMap := s.ingestMap.setIfInBounds i x }
  | roomConfig (s : State) (r : RoomId) (x : RoomConfig) (h : x.inRange) :
      Move s (s.updRoom r fun rm => { rm with config := x, assembly := emptyAssembly x.tracks })
  | stationConfig (s : State) (e : StationId) (x : StationConfig) (h : x.inRange) :
      Move s (s.updStation e fun _ => freshStation x)
  | schedule (s : State) (i : Nat) (x : ScheduleEntry) (h : x.inRange) : Move s { s with schedule := s.schedule.setIfInBounds i x }
  | statusItem (s : State) (i : Nat) (x : StatusItem) :
      Move s { s with mgmt := { s.mgmt with statusItems := s.mgmt.statusItems.setIfInBounds i x } }
  | managerNode (s : State) (i : Nat) (x : Manager) (h : x.node ≠ 255) :
      Move s { s with mgmt := { s.mgmt with managers := s.mgmt.managers.setIfInBounds i x } }
  | period (s : State) (p : CyclePeriod) : Move s { s with link := { s.link with period := p } }
  | reserve (s : State) (n : Nat) (h : n ≤ 4095) : Move s { s with store := { s.store with pageReserve := n } }
  | timeouts (s : State) (x : Timeouts) (h : x.inRange) : Move s { s with timeouts := x }

/-- A chain of moves. -/
def Moves (s t : State) : Prop := Relation.ReflTransGen Move s t

variable {s t u : State}

theorem Moves.refl : Moves s s := Relation.ReflTransGen.refl

theorem Moves.single (h : Move s t) : Moves s t := Relation.ReflTransGen.single h

theorem Moves.trans (h : Moves s t) (h' : Moves t u) : Moves s u := Relation.ReflTransGen.trans h h'

theorem Changes.moves (h : Changes s t) : Moves s t := by
  unfold Changes at h
  induction h with
  | refl => exact .refl
  | tail _ hc ih => exact .trans ih (.single (.change _ _ hc))

/-- A property kept by every move is kept by every chain of moves. -/
theorem Moves.keeps {P : State → Prop} (hP : ∀ s t, Move s t → P s → P t) (h : Moves s t) (hs : P s) : P t := by
  unfold Moves at h
  induction h with
  | refl => exact hs
  | tail _ hc ih => exact hP _ _ hc ih

/-! ## The checks every command passes first -/

/-- A relation of which every chain of changes is an instance, and which composes: changes and moves are two. -/
structure Chain (R : State → State → Prop) : Prop where
  base  : ∀ {s t}, Changes s t → R s t
  trans : ∀ {s t u}, R s t → R t u → R s u

theorem changesChain : Chain Changes := ⟨id, .trans⟩

theorem movesChain : Chain Moves := ⟨Changes.moves, .trans⟩

section Checks
variable {R : State → State → Prop} (hR : Chain R)
include hR

theorem whenOn_chain {k : State → State} (h : R s (k s)) : R s (whenOn s k) := by
  unfold whenOn
  split
  · exact h
  · exact hR.base .refl

theorem control_chain (c : Ctl) (cmd : CommandName) {k : Sender → State → State} (h : ∀ who s, R s (k who s)) :
    R s (control c cmd k s) := by
  unfold control
  refine whenOn_chain hR ?_
  dsimp only
  split
  · exact hR.base (.trans (.countMgmt (takenFrom_changes _ _) _) (respond_changes _ _ _ _))
  · exact hR.trans (hR.base (.countMgmt (takenFrom_changes _ _) _)) (h _ _)

theorem managerCommand_chain (c : Ctl) (cmd : CommandName) {k : State → State} (h : ∀ s, R s (k s)) :
    R s (managerCommand c cmd k s) := by
  unfold managerCommand
  refine control_chain hR c cmd fun who s => ?_
  split
  · split
    · exact hR.base (respond_changes _ _ _ _)
    · exact h _
  · exact hR.base (respond_changes _ _ _ _)

theorem stationCommand_chain (c : Ctl) (cmd : CommandName) {k : StationId → State → State} (h : ∀ e s, R s (k e s)) :
    R s (stationCommand c cmd k s) := by
  unfold stationCommand
  refine control_chain hR c cmd fun who s => ?_
  dsimp only
  refine hR.trans (hR.base (leaseEffect_changes cmd who)) ?_
  split
  · exact hR.base (respond_changes _ _ _ _)
  · split
    · split
      · exact hR.base (respond_changes _ _ _ _)
      · split
        · exact hR.base (respond_changes _ _ _ _)
        · split
          · exact hR.base (respond_changes _ _ _ _)
          · exact h _ _
    · exact hR.base (respond_changes _ _ _ _)

end Checks

theorem plainStationCommand_changes (c : Ctl) (cmd : CommandName) {k : StationId → State → State} (h : ∀ e s, Changes s (k e s)) :
    Changes s (plainStationCommand c cmd k s) :=
  stationCommand_chain changesChain c cmd fun _ _ => either_changes (respond_changes _ _ _ _) (h _ _)

theorem withStationTake_changes (c : Ctl) (cmd : CommandName) (x : StationState) (e : StationId) {k : Nat → State → State}
    (h : ∀ n, (s.take? n).isSome = true → Changes s (k n s)) : Changes s (withStationTake c cmd x e k s) := by
  unfold withStationTake
  split
  · rename_i n hn
    exact either_changes (h n (Option.filter_eq_some_iff.1 hn).2) (respond_changes _ _ _ _)
  · exact respond_changes _ _ _ _

theorem withAttachedTake_changes (c : Ctl) (cmd : CommandName) (e : StationId) {k : Nat → Take → State → State}
    (h : ∀ n t, (s.context e).take = some n → Changes s (k n t s)) : Changes s (withAttachedTake c cmd e k s) := by
  unfold withAttachedTake
  split
  · split
    · exact h _ _ ‹_›
    · exact respond_changes _ _ _ _
  · exact respond_changes _ _ _ _

/-- A meaning's outcome: a next state that stands in a relation to the state before. -/
def NextBy (R : State → State → Prop) (s : State) (o : Host.Outcome State Fault Refusal) : Prop := ∃ t, o = .next t ∧ R s t

theorem nextBy {R : State → State → Prop} (h : R s t) : NextBy R s (.next t) := ⟨t, rfl, h⟩

/-! ## The Proceedings Clock -/

theorem scheduleRoom_changes (r : RoomId) : Changes s (scheduleRoom r s) := by
  unfold scheduleRoom
  split
  · exact .refl
  · exact .clockCounters .refl
  · split
    · exact .clockCounters .refl
    · exact .trans (.clockCounters .refl) (requestCut_changes _ _ _)

theorem secondUpdate_changes : Changes s (secondUpdate s) := by
  unfold secondUpdate reportIfUnset evaluateSchedule
  exact either_changes (ifThen_changes (reportAlert_changes _)) (forEach_changes (fun r _ => scheduleRoom_changes r) _ _)

theorem tickStations_changes : Changes s (tickStations s) := forEach_changes (fun e _ => updStation_changes e _) _ _

theorem tickLinkAndStatus_changes : Changes s (tickLinkAndStatus s) := .quiet

theorem takeTick_moves : Moves s (takeTick s) := by
  unfold takeTick
  split
  · dsimp only
    refine .trans (.single (.tick s)) (Changes.moves ?_)
    exact .trans (.trans tickStations_changes tickLinkAndStatus_changes) (ifThen_changes secondUpdate_changes)
  · exact .single (.tick s)
  · exact .refl

theorem clockFieldsCalendar_legal {f : ClockFields} (h : clockFieldsValid f = true) : (clockFieldsCalendar f).legal := by
  simp only [clockFieldsValid, Bool.and_eq_true, decide_eq_true_eq] at h
  simp only [Calendar.legal, clockFieldsCalendar]
  omega

theorem execSetClock_moves (c : Ctl) (f : ClockFields) : NextBy Moves s (execSetClock c f s) := by
  refine nextBy (managerCommand_chain movesChain c _ fun s => ?_)
  split
  · exact .trans (.single (.clock s _ (clockFieldsCalendar_legal ‹_›))) (respond_changes _ _ _ _).moves
  · exact (respond_changes _ _ _ _).moves

theorem execReadClock_changes (c : Ctl) : NextBy Changes s (execReadClock c s) :=
  nextBy (control_chain changesChain c _ fun _ _ => either_changes (respond_changes _ _ _ _) (respond_changes _ _ _ _))

theorem execMainPowerLoss_moves (b : Bool) : NextBy Moves s (execMainPowerLoss b s) := nextBy (.single (.power s _))

end Sys2Proof.Machine
end

