-- ==== Sys2Proof/Laws/Commands.lean ====
section
/-! SUPPORT. Every command's meaning as a chain of changes, or of moves for the few that write the clock, the operating state or a table. -/

set_option Elab.async false

namespace Sys2Proof.Machine

variable {s : State}

/-! ## Configuration tables -/

theorem natOf_append (bs : List Byte) (b : Byte) : natOf (bs ++ [b]) = natOf bs * 256 + b.toNat := by simp [natOf]

theorem natOf_lt (bs : List Byte) : natOf bs < 256 ^ bs.length := by
  induction bs using List.reverseRecOn with
  | nil => simp [natOf]
  | append_singleton bs b ih =>
    rw [natOf_append, List.length_append, List.length_singleton, pow_succ]
    have := b.isLt
    omega

theorem fieldAt_lt (bs : List Byte) (i n : Nat) : fieldAt bs i n < 256 ^ n :=
  lt_of_lt_of_le (natOf_lt _) (Nat.pow_le_pow_right (by decide) (by rw [List.length_take]; exact Nat.min_le_left _ _))

theorem clampBetween_range (low high n : Nat) (h : low ≤ high) : low ≤ clampBetween low high n ∧ clampBetween low high n ≤ high := by
  unfold clampBetween
  omega

theorem ingestOfBytes_inRange {bs : List Byte} {x : IngestEntry} (h : ingestOfBytes bs = some x) : x.inRange := by
  unfold ingestOfBytes at h
  split at h
  · dsimp only at h
    split at h
    · cases h
    · cases h
      rename_i hn
      simp only [not_or] at hn
      refine ⟨hn.1, ?_, by dsimp only; omega, by dsimp only; omega⟩
      dsimp only
      split
      · simp
      · simpa using ‹_›
  · cases h

theorem roomConfigOfBytes_inRange {bs : List Byte} {x : RoomConfig} (h : roomConfigOfBytes bs = some x) : x.inRange := by
  unfold roomConfigOfBytes at h
  split at h
  · dsimp only at h
    split at h
    · cases h
    · cases h
      rename_i hn
      have h1 := fieldAt_lt bs 3 2
      have h2 := clampBetween_range 256 maxCells (fieldAt bs 5 3) (by decide)
      simp only [not_or] at hn
      exact ⟨hn.1, by dsimp only; omega, by dsimp only; omega, by dsimp only; omega, h2.1, h2.2⟩
  · cases h

theorem scheduleOfBytes_inRange {bs : List Byte} {x : ScheduleEntry} (h : scheduleOfBytes bs = some x) : x.inRange := by
  unfold scheduleOfBytes at h
  dsimp only at h
  split at h
  · cases h
  · cases h
    simp only [ScheduleEntry.inRange]
    omega

theorem timeoutsOfBytes_inRange {bs : List Byte} {x : Timeouts} (h : timeoutsOfBytes bs = some x) : x.inRange := by
  unfold timeoutsOfBytes at h
  split at h
  · cases h
    have h1 := clampBetween_range 1 255 (fieldAt bs 0 2) (by decide)
    have h2 := clampBetween_range 1 255 (fieldAt bs 2 2) (by decide)
    have h3 := clampBetween_range 1 255 (fieldAt bs 4 2) (by decide)
    have h4 := clampBetween_range 8 250 (fieldAt bs 6 2) (by decide)
    have h5 := fieldAt_lt bs 11 2
    exact ⟨h1.1, h1.2, h2.1, h2.2, h3.1, h3.2, h4.1, h4.2, by dsimp only; omega, by dsimp only; omega⟩
  · cases h

theorem defaultMixOfBytes_inRange {bs : List Byte} {m : Mix} (h : defaultMixOfBytes bs = some m) : m.inRange := by
  unfold defaultMixOfBytes at h
  split at h
  · split at h
    · cases h
    · cases h
      intro k
      simp
  · cases h

theorem stationConfigOfBytes_inRange {bs : List Byte} {old x : StationConfig} (h : stationConfigOfBytes bs old = some x) :
    x.inRange := by
  unfold stationConfigOfBytes at h
  split at h
  · rename_i cls cl mix _ _ hm
    split at h
    · rename_i pools hp
      split at h
      · cases h
      · cases h
        rename_i hn
        simp only [not_or, not_and] at hn
        refine ⟨hn.1, fun hc => by simpa using hn.2 hc, fun hc => ?_, defaultMixOfBytes_inRange hm, Nat.min_le_left _ _,
          Nat.min_le_left _ _⟩
        dsimp only at hc ⊢
        subst hc
        unfold poolSetOf at hp
        dsimp only at hp
        split at hp
        · cases hp
        · cases hp
          rename_i hb
          simp only [not_or] at hb
          intro h0
          apply hb.1
          have h1 : (byteAt bs 2).toNat % 16 = 0 := by simpa using congrArg BitVec.toNat h0
          apply BitVec.eq_of_toNat_eq
          change (byteAt bs 2).toNat = 0
          omega
    · cases h
  · cases h

theorem accepted_moves {α : Type} {x : Option α} {k : α → State} {t : State} (h : accepted x k = .ok t)
    (hk : ∀ v, x = some v → Moves s (k v)) : Moves s t := by
  cases x with
  | none => cases h
  | some v => cases h; exact hk v rfl

/-- A write that is accepted is a chain of moves (R187). -/
theorem writeTable_moves {n : TableName} {i : Nat} {bs : List Byte} {t : State} (h : writeTable n i bs s = .ok t) : Moves s t := by
  cases n with
  | ingestMap => exact accepted_moves h fun v hv => .single (.ingest s i v (ingestOfBytes_inRange hv))
  | roomConfig =>
    simp only [writeTable] at h
    split at h
    · unfold writeRoomConfig at h
      split at h
      · cases h
      · exact accepted_moves h fun v hv => .single (.roomConfig s _ v (roomConfigOfBytes_inRange hv))
    · cases h
  | stationTable =>
    simp only [writeTable] at h
    split at h
    · unfold writeStation at h
      split at h
      · cases h
      · split at h
        · cases h
        · exact accepted_moves h fun v hv =>
            .trans (.single (.stationConfig s _ v (stationConfigOfBytes_inRange hv))) (Changes.moves (updPlain_changes _))
    · cases h
  | cutSchedule => exact accepted_moves h fun v hv => .single (.schedule s i v (scheduleOfBytes_inRange hv))
  | statusItems => exact accepted_moves h fun v _ => .single (.statusItem s i v)
  | managerList =>
    simp only [writeTable, writeManager] at h
    split at h
    · cases h
    · cases h
      refine .single (.managerNode s i _ fun hb => ?_)
      rename_i hn
      apply hn
      dsimp only at hb
      rw [hb]
      rfl
  | linkProfile =>
    simp only [writeTable, writeLinkProfile] at h
    split at h
    · cases h
    · exact accepted_moves h fun v _ => .single (.period s v)
  | storeSettings =>
    cases h
    exact .trans (.single (.reserve s _ (Nat.min_le_left _ _))) checkReserves_changes.moves
  | timeouts =>
    exact accepted_moves h fun v hv => .trans (.single (.timeouts s v (timeoutsOfBytes_inRange hv))) (Changes.moves (.mgmt .refl))

theorem setCursor_changes (p : Port) (x : Cursor) : Changes s (setCursor p x s) := updPort_changes _ _ fun _ => ⟨rfl, rfl, rfl⟩

theorem execSetCursor_changes (c : Ctl) (table : Byte) (index : Word) : NextBy Changes s (execSetCursor c table index s) := by
  refine nextBy (managerCommand_chain changesChain c _ fun s => ?_)
  split
  · exact either_changes (.trans (setCursor_changes _ _) (respond_changes _ _ _ _)) (respond_changes _ _ _ _)
  · exact respond_changes _ _ _ _

theorem execReadEntry_changes (c : Ctl) : NextBy Changes s (execReadEntry c s) := by
  refine nextBy (managerCommand_chain changesChain c _ fun s => ?_)
  split
  · exact respond_changes _ _ _ _
  · exact either_changes (respond_changes _ _ _ _) (.trans (setCursor_changes _ _) (respond_changes _ _ _ _))

theorem execWriteEntry_moves (c : Ctl) (body : List Byte) : NextBy Moves s (execWriteEntry c body s) := by
  refine nextBy (control_chain movesChain c _ fun who s => ?_)
  split
  · exact (respond_changes _ _ _ _).moves
  · split
    · split
      · exact (respond_changes _ _ _ _).moves
      · unfold writeAtCursor
        split
        · exact (respond_changes _ _ _ _).moves
        · split
          · exact (respond_changes _ _ _ _).moves
          · split
            · exact (respond_changes _ _ _ _).moves
            · exact .trans (writeTable_moves ‹_›) (Changes.moves (.trans (setCursor_changes _ _) (respond_changes _ _ _ _)))
    · exact (respond_changes _ _ _ _).moves

/-! ## Management -/

theorem execRun_moves (c : Ctl) : NextBy Moves s (execRun c s) := by
  refine nextBy (managerCommand_chain movesChain c _ fun s => ?_)
  split
  · exact .trans (.single (.op s .run)) (respond_changes _ _ _ _).moves
  · exact (respond_changes _ _ _ _).moves

theorem emptyWaitList_changes : Changes s (emptyWaitList s) :=
  .updWait (forEach_changes (fun e _ => updStation_changes e _) _ _) _

theorem resetStation_changes (why : Withdrawal) (e : StationId) : Changes s (resetStation why e s) := by
  unfold resetStation
  dsimp only
  have h : ∀ k, Changes s (match s.take? k with
      | some t => (s.setTake k { t with transcription := some .pending, holder := none }).updPool t.pool fun q => k :: q
      | none => s) := fun k => by
    split
    · rename_i t ht
      exact .updPool (setTake_changes (t := t) _ ht) _ _
    · exact .refl
  split
  · exact .trans (.trans (h _) (makeIdle_changes e)) (withdrawnNotice_changes _ _ _)
  · exact .trans (.trans (h _) (makeIdle_changes e)) (withdrawnNotice_changes _ _ _)
  · exact .trans (.trans (.updArchive (updTake_changes _ _) _) (makeIdle_changes e)) (withdrawnNotice_changes _ _ _)
  · exact makeIdle_changes e
  · exact .refl
  · exact .refl
  · exact .refl

theorem resetContext_changes (why : EndReason) (w : List StationId) (e : StationId) : Changes s (resetContext why w e s) := by
  unfold resetContext
  split
  · exact .refl
  · dsimp only
    split
    · exact detach_changes e
    · exact .trans (detach_changes e) (endOfTakeNotice_changes _ _ _ _)

theorem defaultMixes_changes : Changes s (defaultMixes s) := forEach_changes (fun _ _ => updPlain_changes _) _ _

theorem handOffReset_changes (why : Withdrawal) (reason : EndReason) : Changes s (handOffReset why reason s) := by
  unfold handOffReset
  refine .trans ?_ defaultMixes_changes
  refine .trans ?_ (forEach_changes (fun e _ => resetContext_changes reason _ e) _ _)
  exact .trans emptyWaitList_changes (forEach_changes (fun e _ => resetStation_changes why e) _ _)

theorem releaseBoth_changes : Changes s (releaseBoth s) := .trans (releaseHeld_changes _) (releaseHeld_changes _)

theorem execHalt_moves (c : Ctl) : NextBy Moves s (execHalt c s) := by
  refine nextBy (managerCommand_chain movesChain c _ fun s => ?_)
  split
  · exact .trans (.trans (Changes.moves (.trans (handOffReset_changes _ _) releaseBoth_changes)) (.single (.op _ .config)))
      (Changes.moves (respond_changes _ _ _ _))
  · exact (respond_changes _ _ _ _).moves

theorem sessionResetNow_changes (src : Byte) : Changes s (sessionResetNow src s) :=
  .trans (.trans (handOffReset_changes _ _) (forEach_changes (fun r _ => closeRoomWith_changes r _ _) _ _)) releaseBoth_changes

theorem execSessionReset_changes (c : Ctl) : NextBy Changes s (execSessionReset c s) := by
  refine nextBy (managerCommand_chain changesChain c _ fun s => ?_)
  exact either_changes (respond_changes _ _ _ _)
    (either_changes (respond_changes _ _ _ _) (.trans (sessionResetNow_changes _) (respond_changes _ _ _ _)))

theorem setMode_changes (p : Port) (m : ResponseMode) : Changes s (setMode p m s) := by
  have h : Changes s (s.updPort p fun q => { q with mode := m }) := updPort_changes _ _ fun _ => ⟨rfl, rfl, rfl⟩
  cases m
  · exact .trans h (releaseHeld_changes p)
  · exact h

theorem execSetResponseMode_changes (c : Ctl) (port mode : Byte) : NextBy Changes s (execSetResponseMode c port mode s) := by
  refine nextBy (managerCommand_chain changesChain c _ fun s => ?_)
  split
  · exact .trans (setMode_changes _ _) (respond_changes _ _ _ _)
  · exact respond_changes _ _ _ _

theorem execReadAlerts_changes (c : Ctl) : NextBy Changes s (execReadAlerts c s) :=
  nextBy (managerCommand_chain changesChain c _ fun _ => .trans (.mgmt .refl) (respond_changes _ _ _ _))

theorem execReadCounters_changes (c : Ctl) : NextBy Changes s (execReadCounters c s) :=
  nextBy (managerCommand_chain changesChain c _ fun _ => respond_changes _ _ _ _)

theorem clearCounters_changes : Changes s (clearCounters s) := by
  have h : Changes s (clearRoomCounters s) := forEach_changes (fun r _ => countRoom_changes r _) _ _
  unfold clearCounters
  generalize clearRoomCounters s = u at h
  exact .trans h .quiet

theorem execClearCounters_changes (c : Ctl) : NextBy Changes s (execClearCounters c s) :=
  nextBy (managerCommand_chain changesChain c _ fun _ => .trans clearCounters_changes (respond_changes _ _ _ _))

theorem shortLeaseEffect_changes (payload : List Byte) (who : Sender) : Changes s (shortLeaseEffect payload who s) := by
  unfold shortLeaseEffect
  split
  · exact either_changes .refl (leaseEffect_changes _ _)
  · exact .refl

theorem answerFaulty_changes (p : Port) (src : Byte) (payload : List Byte) : Changes s (answerFaulty p src payload s) := by
  unfold answerFaulty
  split
  · exact .refl
  · refine .trans (takenFrom_changes p src) ?_
    dsimp only
    split
    · exact .trans (.countMgmt .refl _) (sendResponse_changes _ _)
    · exact .trans (.trans (.countMgmt .refl _) (shortLeaseEffect_changes _ _)) (sendResponse_changes _ _)

theorem execUnknownCommand_changes (p : Port) (src : Byte) (payload : List Byte) : NextBy Changes s (execUnknownCommand p src payload s) :=
  nextBy (whenOn_chain changesChain (answerFaulty_changes _ _ _))

/-! ## Manager commands on rooms, takes and the store -/

theorem openRoomIn_changes {k : Nat} (r : RoomId) (h : s.lowestFreeSlot = some k) : Changes s (openRoomIn k r s) := by
  have hk := firstUnlisted_spec h
  refine .trans (openTakeIn_changes r hk.1 (by simpa using hk.2.2.1)) (.single (.room _ r _ rfl fun _ => ?_))
  simp [Room.opened]

theorem execOpenRoom_changes (c : Ctl) (room : Byte) : NextBy Changes s (execOpenRoom c room s) := by
  refine nextBy (managerCommand_chain changesChain c _ fun s => ?_)
  split
  · exact respond_changes _ _ _ _
  · split
    · exact respond_changes _ _ _ _
    · split
      · exact respond_changes _ _ _ _
      · exact .trans (openRoomIn_changes _ ‹_›) (respond_changes _ _ _ _)

theorem execCloseRoom_changes (c : Ctl) (room : Byte) : NextBy Changes s (execCloseRoom c room s) := by
  refine nextBy (managerCommand_chain changesChain c _ fun s => ?_)
  split
  · exact respond_changes _ _ _ _
  · exact either_changes (respond_changes _ _ _ _)
      (either_changes (respond_changes _ _ _ _) (.trans (closeRoomWith_changes _ _ _) (respond_changes _ _ _ _)))

theorem execCutTake_changes (c : Ctl) (room : Byte) : NextBy Changes s (execCutTake c room s) := by
  refine nextBy (managerCommand_chain changesChain c _ fun s => ?_)
  split
  · exact respond_changes _ _ _ _
  · exact either_changes (respond_changes _ _ _ _) (.trans (requestCut_changes _ _ _) (respond_changes _ _ _ _))

theorem execReadTake_changes (c : Ctl) (n : Word) : NextBy Changes s (execReadTake c n s) := by
  refine nextBy (managerCommand_chain changesChain c _ fun s => ?_)
  split <;> exact respond_changes _ _ _ _

theorem execReadQueue_changes (c : Ctl) (q : Byte) (n : Word) : NextBy Changes s (execReadQueue c q n s) := by
  refine nextBy (managerCommand_chain changesChain c _ fun s => ?_)
  split
  · exact respond_changes _ _ _ _
  · exact either_changes (respond_changes _ _ _ _) (respond_changes _ _ _ _)

theorem moveTo_changes (p : PoolId) (k : Nat) (t : Take) : Changes s (moveTo p k t s) :=
  .updPool (.trans (.updPool .refl _ _) (updTake_changes _ _)) _ _

theorem execMoveTake_changes (c : Ctl) (n : Word) (pool : Byte) : NextBy Changes s (execMoveTake c n pool s) := by
  refine nextBy (managerCommand_chain changesChain c _ fun s => ?_)
  split
  · exact respond_changes _ _ _ _
  · split
    · exact respond_changes _ _ _ _
    · exact either_changes (.trans (.trans (moveTo_changes _ _ _) (respond_changes _ _ _ _)) (arrive_changes _))
        (respond_changes _ _ _ _)

theorem execReadMarker_changes (c : Ctl) (n : Word) (sel : Byte) (v : Word) : NextBy Changes s (execReadMarker c n sel v s) := by
  refine nextBy (managerCommand_chain changesChain c _ fun s => ?_)
  split
  · exact respond_changes _ _ _ _
  · split
    · exact respond_changes _ _ _ _
    · split <;> exact respond_changes _ _ _ _

theorem reclaimByCommand_changes (k : Nat) : Changes s (reclaimByCommand k s) := .countStore (reclaim_changes k) _

theorem execReleaseTake_changes (c : Ctl) (n : Word) : NextBy Changes s (execReleaseTake c n s) := by
  refine nextBy (managerCommand_chain changesChain c _ fun s => ?_)
  split
  · exact respond_changes _ _ _ _
  · exact either_changes (respond_changes _ _ _ _)
      (either_changes (respond_changes _ _ _ _) (.trans (reclaimByCommand_changes _) (respond_changes _ _ _ _)))

theorem execClearStore_changes (c : Ctl) : NextBy Changes s (execClearStore c s) := by
  refine nextBy (managerCommand_chain changesChain c _ fun s => ?_)
  exact either_changes (respond_changes _ _ _ _)
    (either_changes (respond_changes _ _ _ _)
      (.trans (forEach_changes (fun k _ => reclaimByCommand_changes k) _ _) (respond_changes _ _ _ _)))

/-! ## Typists' work -/

theorem execRequestWork_changes (c : Ctl) : NextBy Changes s (execRequestWork c s) := by
  refine nextBy (stationCommand_chain changesChain c _ fun e s => ?_)
  split
  · exact respond_changes _ _ _ _
  · split
    · exact .trans (offer_changes _ _) (respond_changes _ _ _ _)
    · exact .trans (.updWait (updStation_changes e _) _) (respond_changes _ _ _ _)

theorem attachAccepted_changes (e : StationId) {k : Nat} (hk : (s.take? k).isSome = true) : Changes s (attachAccepted e k s) := by
  unfold attachAccepted
  dsimp only
  split
  · rename_i h
    have hn : (s.context e).take ≠ none := by simp [h]
    exact .trans (setPosition_changes k 0 hn) (updAttached_changes _ (by rw [setPosition_take]; exact hn) fun _ => by simp)
  · exact attach_changes _ _ hk

theorem acceptOffer_changes (e : StationId) {k : Nat} (hk : (s.take? k).isSome = true) : Changes s (acceptOffer e k s) :=
  .trans (.trans (updTake_changes _ _) (updStation_changes e _)) (attachAccepted_changes e (updTake_live _ _ hk))

theorem execAccept_changes (c : Ctl) : NextBy Changes s (execAccept c s) :=
  nextBy (plainStationCommand_changes c _ fun e _ => withStationTake_changes c _ _ e fun _ h =>
    .trans (acceptOffer_changes e h) (respond_changes _ _ _ _))

theorem countDeclined_changes (n : Nat) (s : State) : Changes s (countDeclined n s) := .countHandOff .refl _

theorem countReturned_changes (n : Nat) (s : State) : Changes s (countReturned n s) := .countHandOff .refl _

theorem execDecline_changes (c : Ctl) : NextBy Changes s (execDecline c s) :=
  nextBy (stationCommand_chain changesChain c _ fun e _ => withStationTake_changes c _ _ e fun _ _ =>
    .trans (giveBack_changes e countDeclined_changes) (respond_changes _ _ _ _))

theorem execKeep_changes (c : Ctl) : NextBy Changes s (execKeep c s) :=
  nextBy (plainStationCommand_changes c _ fun e _ => withStationTake_changes c _ _ e fun _ _ => respond_changes _ _ _ _)

theorem completeHold_changes (e : StationId) (k : Nat) : Changes s (completeHold e k s) := by
  unfold completeHold
  refine .trans (.countHandOff ?_ _) (retainIfDone_changes k)
  exact .trans (.trans (.trans (updStation_changes e _) (detach_changes e)) (updTake_changes _ _)) (makeIdle_changes e)

theorem execComplete_changes (c : Ctl) : NextBy Changes s (execComplete c s) :=
  nextBy (plainStationCommand_changes c _ fun e _ => withStationTake_changes c _ _ e fun _ _ =>
    .trans (completeHold_changes e _) (respond_changes _ _ _ _))

theorem execReturnTake_changes (c : Ctl) : NextBy Changes s (execReturnTake c s) :=
  nextBy (plainStationCommand_changes c _ fun e _ => withStationTake_changes c _ _ e fun _ _ =>
    .trans (giveBack_changes e countReturned_changes) (respond_changes _ _ _ _))

/-! ## Archive transfers -/

/-- A slot found together with its take is live. -/
theorem slotWithTake_live {o : Option Nat} {k : Nat} {t : Take} (h : (o.bind fun j => (s.take? j).map fun t => (j, t)) = some (k, t)) :
    (s.take? k).isSome = true := by
  obtain ⟨_, _, h⟩ := Option.bind_eq_some_iff.1 h
  obtain ⟨_, ht, h⟩ := Option.map_eq_some_iff.1 h
  cases h
  simp [ht]

theorem assignArchive_changes (e : StationId) {k : Nat} (h : (s.take? k).isSome = true) : Changes s (assignArchive e k s) := by
  unfold assignArchive
  refine .countHandOff (.trans (.trans (.trans (.trans (.updArchive .refl _) (updTake_changes _ _)) (updStation_changes e _))
    (attach_changes e _ (updTake_live (s := s.updArchive fun q => q.filter (· != k)) _ _ h))) (setState_changes (by simp) ?_)) _
  rw [attach_context]; simp

theorem execRequestArchive_changes (c : Ctl) : NextBy Changes s (execRequestArchive c s) := by
  refine nextBy (stationCommand_chain changesChain c _ fun e s => ?_)
  split
  · exact respond_changes _ _ _ _
  · split
    · exact respond_changes _ _ _ _
    · exact .trans (assignArchive_changes _ (slotWithTake_live ‹_›)) (respond_changes _ _ _ _)

theorem confirmArchive_changes (e : StationId) (k : Nat) : Changes s (confirmArchive e k s) := by
  unfold confirmArchive
  refine .trans (.countHandOff ?_ _) (retainIfDone_changes k)
  exact .trans (.trans (.trans (updStation_changes e _) (detach_changes e)) (updTake_changes _ _)) (makeIdle_changes e)

theorem execArchived_changes (c : Ctl) : NextBy Changes s (execArchived c s) :=
  nextBy (stationCommand_chain changesChain c _ fun e _ => withStationTake_changes c _ _ e fun _ _ =>
    either_changes (respond_changes _ _ _ _) (.trans (confirmArchive_changes e _) (respond_changes _ _ _ _)))

theorem failArchive_changes (e : StationId) : Changes s (failArchive e s) := .countHandOff (giveBackTransfer_changes e) _

theorem execArchiveFailed_changes (c : Ctl) : NextBy Changes s (execArchiveFailed c s) :=
  nextBy (stationCommand_chain changesChain c _ fun e _ => withStationTake_changes c _ _ e fun _ _ =>
    .trans (failArchive_changes e) (respond_changes _ _ _ _))

theorem addCredits_changes (e : StationId) (n : Nat) : Changes s (addCredits e n s) := by
  unfold addCredits
  exact .trans (updPlain_changes _) (updStation_changes e _)

theorem execCredit_changes (c : Ctl) (n : Word) : NextBy Changes s (execCredit c n s) :=
  nextBy (plainStationCommand_changes c _ fun e _ => withStationTake_changes c _ _ e fun _ _ =>
    .trans (addCredits_changes e _) (respond_changes _ _ _ _))

theorem endUnderWay_changes (e : StationId) : Changes s (endUnderWay e s) := by
  unfold endUnderWay
  split
  · exact .refl
  · exact .refl
  · exact .updWait .refl _
  · exact giveBack_changes e countDeclined_changes
  · exact giveBack_changes e countReturned_changes
  · exact .refl
  · exact failArchive_changes e

theorem sayHello_changes (e : StationId) (b : Bool) : Changes s (sayHello e b s) :=
  .trans (.trans (endUnderWay_changes e) (detach_changes e)) (updStation_changes e _)

theorem execHello_changes (c : Ctl) (b : Byte) : NextBy Changes s (execHello c b s) := by
  refine nextBy (control_chain changesChain c _ fun who s => ?_)
  split
  · split
    · exact .trans (sayHello_changes _ _) (respond_changes _ _ _ _)
    · exact respond_changes _ _ _ _
  · exact respond_changes _ _ _ _

theorem offerLapses_changes (e : StationId) (n : Nat) (s : State) : Changes s (offerLapses e n s) :=
  .countHandOff (.trans (.trans (addMiss_changes e) (withdrawnNotice_changes _ _ _)) (reportAlert_changes _)) _

theorem leaseLapses_changes (e : StationId) (n : Nat) (s : State) : Changes s (leaseLapses e n s) :=
  .countHandOff (.trans (.trans (addMiss_changes e) (withdrawnNotice_changes _ _ _)) (reportAlert_changes _)) _

theorem execOfferExpiry_changes (e : StationId) : NextBy Changes s (execOfferExpiry e s) :=
  nextBy (whenOn_chain changesChain (ifThen_changes (giveBack_changes e (offerLapses_changes e))))

theorem execLeaseExpiry_changes (e : StationId) : NextBy Changes s (execLeaseExpiry e s) :=
  nextBy (whenOn_chain changesChain (ifThen_changes (giveBack_changes e (leaseLapses_changes e))))

theorem stallTransfer_changes (e : StationId) : Changes s (stallTransfer e s) := by
  unfold stallTransfer
  exact .countHandOff (.trans (.trans (.trans (giveBackTransfer_changes e) (addMiss_changes e)) (withdrawnNotice_changes _ _ _))
    (reportAlert_changes _)) _

theorem execStallExpiry_changes (e : StationId) : NextBy Changes s (execStallExpiry e s) :=
  nextBy (whenOn_chain changesChain (ifThen_changes (stallTransfer_changes e)))

/-! ## Playback commands -/

theorem selectTake_live {e : StationId} {ovr : Option Word} {k : Nat} {t : Take} (h : s.selectTake e ovr = .ok (k, t)) :
    (s.take? k).isSome = true := by
  unfold State.selectTake at h
  split at h
  · split at h
    · cases h; exact findTake_live ‹_›
    · cases h
  · split at h
    · split at h
      · rename_i ht; cases h; simp [ht]
      · cases h
    · cases h

theorem carryOutCue_changes (e : StationId) {k : Nat} (t : Take) (z : Resolution) (hk : (s.take? k).isSome = true) : Changes s (carryOutCue e k t z s) := by
  unfold carryOutCue
  split
  · rename_i h
    have hn : (s.context e).take ≠ none := by simp [h]
    refine .trans (writeResolution_changes k z hn) (setState_changes ?_ (by rw [writeResolution_take]; exact hn))
    unfold stateAfterCue
    split <;> first | exact playState_ne _ _ | simp
  · refine .trans (attach_changes _ _ hk) (writeResolution_changes k z ?_)
    rw [attach_context]; simp

theorem execCue_changes (c : Ctl) (f : CueFields) : NextBy Changes s (execCue c f s) := by
  refine nextBy (stationCommand_chain changesChain c _ fun e s => ?_)
  split
  · exact respond_changes _ _ _ _
  · split
    · exact respond_changes _ _ _ _
    · split
      · exact respond_changes _ _ _ _
      · exact .trans (carryOutCue_changes _ _ _ (selectTake_live ‹_›)) (respond_changes _ _ _ _)

theorem execSave_changes (c : Ctl) : NextBy Changes s (execSave c s) :=
  nextBy (plainStationCommand_changes c _ fun e _ => withAttachedTake_changes c _ e fun _ _ _ =>
    .trans (updPlain_changes _) (respond_changes _ _ _ _))

theorem startPlaying_changes (e : StationId) (k : Nat) (t : Take) (h : (s.context e).take ≠ none) :
    Changes s (startPlaying e k t s) := by
  unfold startPlaying
  refine ifThen_changes (.trans (writeResolution_changes k _ h) (setState_changes (playState_ne _ _) ?_))
  rw [writeResolution_take]; exact h

theorem execPlay_changes (c : Ctl) : NextBy Changes s (execPlay c s) :=
  nextBy (plainStationCommand_changes c _ fun e _ => withAttachedTake_changes c _ e fun _ _ h =>
    .trans (startPlaying_changes e _ _ (by simp [h])) (respond_changes _ _ _ _))

theorem execPause_changes (c : Ctl) : NextBy Changes s (execPause c s) :=
  nextBy (plainStationCommand_changes c _ fun e _ => withAttachedTake_changes c _ e fun _ _ h =>
    .trans (setState_changes (by simp) (by simp [h])) (respond_changes _ _ _ _))

theorem execStop_changes (c : Ctl) : NextBy Changes s (execStop c s) :=
  nextBy (plainStationCommand_changes c _ fun e _ =>
    either_changes (respond_changes _ _ _ _) (.trans (detach_changes e) (respond_changes _ _ _ _)))

theorem execReadPosition_changes (c : Ctl) : NextBy Changes s (execReadPosition c s) :=
  nextBy (stationCommand_chain changesChain c _ fun _ _ => respond_changes _ _ _ _)

theorem execSetNotice_changes (c : Ctl) (p : BitVec 24) : NextBy Changes s (execSetNotice c p s) :=
  nextBy (plainStationCommand_changes c _ fun e _ => withAttachedTake_changes c _ e fun _ _ _ =>
    .trans (updPlain_changes _) (respond_changes _ _ _ _))

theorem execSetMix_changes (c : Ctl) (f : MixFields) : NextBy Changes s (execSetMix c f s) := by
  refine nextBy (plainStationCommand_changes c _ fun e s => ?_)
  split
  · exact respond_changes _ _ _ _
  · exact withAttachedTake_changes c _ e fun _ _ _ => .trans (updPlain_changes _) (respond_changes _ _ _ _)

theorem attachListener_spec (e : StationId) {k : Nat} (hk : (s.take? k).isSome = true) :
    Changes s (attachListener e k s) ∧ ((attachListener e k s).context e).take = some k := by
  unfold attachListener
  split
  · exact ⟨updPlain_changes _, by simpa using ‹_›⟩
  · exact ⟨attach_changes _ _ hk, by rw [attach_context]⟩

theorem startListening_changes (e : StationId) {k : Nat} (t : Take) (hk : (s.take? k).isSome = true) :
    Changes s (startListening e k t s) := by
  unfold startListening
  have h := attachListener_spec (s := s) e hk
  have hn : ((attachListener e k s).context e).take ≠ none := by simp [h.2]
  refine .trans ?_ (updStation_changes e _)
  refine .trans (.trans h.1 (writeResolution_changes k (listenFrom s e t) hn)) ?_
  exact updAttached_changes _ (by rw [writeResolution_take]; exact hn) fun _ => playState_ne _ _

theorem execListen_changes (c : Ctl) (room : Byte) : NextBy Changes s (execListen c room s) := by
  refine nextBy (plainStationCommand_changes c _ fun e s => ?_)
  split
  · exact respond_changes _ _ _ _
  · split
    · exact respond_changes _ _ _ _
    · exact .trans (startListening_changes _ _ (slotWithTake_live ‹_›)) (respond_changes _ _ _ _)

theorem addNote_changes (c : Ctl) (code : Word) (label : List Byte) (k p : Nat) : Changes s (addNote c code label k p s) := by
  unfold addNote
  have h := placeMarker_changes (s := s) k (noteMarker s c.src code label p)
  split
  · rename_i heq
    rw [heq] at h
    exact .trans h (respond_changes _ _ _ _)
  · rename_i heq
    rw [heq] at h
    exact .trans (.trans h (loseAnnotation_changes _)) (respond_changes _ _ _ _)

theorem execAddNote_changes (c : Ctl) (code : Word) (label : List Byte) (p : BitVec 24) :
    NextBy Changes s (execAddNote c code label p s) := by
  refine nextBy (plainStationCommand_changes c _ fun e s => ?_)
  split
  · exact respond_changes _ _ _ _
  · split
    · exact respond_changes _ _ _ _
    · exact addNote_changes _ _ _ _ _

/-! ## Console marks -/

theorem execAnnotationMark_changes (kind : AnnotationKind) (m : Mark) : NextBy Changes s (execAnnotationMark kind m s) := by
  refine nextBy (takeMark_changes m fun r s => ?_)
  split
  · exact .refl
  · exact placeAnnotation_changes _ _ _ _

theorem goOff_changes (r : RoomId) (src : Byte) : Changes s (goOff r src s) := by
  unfold goOff
  exact .trans (.trans (ifThen_changes (placeStateMarker_changes _ _ _ _)) (placeStateMarker_changes _ _ _ _)) (updRoomDynamic_changes r _)

theorem execGoOffRecord_changes (m : Mark) : NextBy Changes s (execGoOffRecord m s) :=
  nextBy (takeMark_changes m fun r _ => either_changes (withEntries_changes r _ (goOff_changes r _)) (refuseMark_changes r))

theorem goOn_changes (r : RoomId) (src : Byte) : Changes s (goOn r src s) :=
  .trans (placeStateMarker_changes _ _ _ _) (updRoomDynamic_changes r _)

theorem execGoOnRecord_changes (m : Mark) : NextBy Changes s (execGoOnRecord m s) :=
  nextBy (takeMark_changes m fun r _ => either_changes (withEntries_changes r _ (goOn_changes r _)) (refuseMark_changes r))

theorem setSeal_changes (r : RoomId) (k : MarkerKind) (b : Bool) (src : Byte) : Changes s (setSeal r k b src s) :=
  .trans (placeStateMarker_changes _ _ _ _) (updRoomDynamic_changes r _)

theorem execSealRecord_changes (m : Mark) : NextBy Changes s (execSealRecord m s) :=
  nextBy (takeMark_changes m fun r _ => either_changes (withEntries_changes r _ (setSeal_changes r _ _ _)) (refuseMark_changes r))

theorem execUnsealRecord_changes (m : Mark) : NextBy Changes s (execUnsealRecord m s) :=
  nextBy (takeMark_changes m fun r _ => either_changes (withEntries_changes r _ (setSeal_changes r _ _ _)) (refuseMark_changes r))

theorem execCutNow_changes (m : Mark) : NextBy Changes s (execCutNow m s) :=
  nextBy (takeMark_changes m fun _ _ => requestCut_changes _ _ _)

/-! ## Events at the link ports -/

theorem execTransmitFrame_changes (p : Port) : NextBy Changes s (execTransmitFrame p s) :=
  nextBy (whenOn_chain changesChain (transmitNext_changes p))

theorem execAudioFrame_changes (p : Port) (src : Byte) (n : Word) (os : List AudioObject) :
    NextBy Changes s (execAudioFrame p src n os s) :=
  nextBy (whenOn_chain changesChain (.trans (takenFrom_changes p src) (takeAudio_changes src n os)))

theorem execCaptureSync_changes (f : SyncFrame) (order : SyncOrder) : NextBy Changes s (execCaptureSync f order s) :=
  nextBy (whenOn_chain changesChain (takeCaptureSync_changes f order))

theorem execSyncReturn_changes (f : SyncFrame) (order : SyncOrder) : NextBy Changes s (execSyncReturn f order s) :=
  nextBy (whenOn_chain changesChain (takeCaptureSync_changes f order))

theorem execSyncLossExpiry_changes : NextBy Changes s (execSyncLossExpiry s) :=
  nextBy (whenOn_chain changesChain (ifThen_changes loseSync_changes))

theorem execLocalSync_changes : NextBy Changes s (execLocalSync s) :=
  nextBy (whenOn_chain changesChain (ifThen_changes makeLocalSync_changes))

theorem execStatusFrame_changes : NextBy Changes s (execStatusFrame s) :=
  nextBy (whenOn_chain changesChain (ifThen_changes statusNow_changes))

/-! ## A frame arriving -/

theorem NextBy.moves {o : Host.Outcome State Fault Refusal} (h : NextBy Changes s o) : NextBy Moves s o := by
  obtain ⟨t, rfl, h⟩ := h
  exact nextBy h.moves

theorem handCommand_moves (cmd : CommandName) (c : Ctl) (bs : List Byte) : NextBy Moves s (handCommand cmd c bs s) := by
  cases cmd with
  | run => exact execRun_moves _
  | halt => exact execHalt_moves _
  | setClock => exact execSetClock_moves _ _
  | writeEntry => exact execWriteEntry_moves _ _
  | sessionReset => exact (execSessionReset_changes _).moves
  | setCursor => exact (execSetCursor_changes _ _ _).moves
  | readEntry => exact (execReadEntry_changes _).moves
  | setResponseMode => exact (execSetResponseMode_changes _ _ _).moves
  | readAlerts => exact (execReadAlerts_changes _).moves
  | readCounters => exact (execReadCounters_changes _).moves
  | clearCounters => exact (execClearCounters_changes _).moves
  | openRoom => exact (execOpenRoom_changes _ _).moves
  | closeRoom => exact (execCloseRoom_changes _ _).moves
  | cutTake => exact (execCutTake_changes _ _).moves
  | readTake => exact (execReadTake_changes _ _).moves
  | readQueue => exact (execReadQueue_changes _ _ _).moves
  | moveTake => exact (execMoveTake_changes _ _ _).moves
  | readMarker => exact (execReadMarker_changes _ _ _ _).moves
  | releaseTake => exact (execReleaseTake_changes _ _).moves
  | clearStore => exact (execClearStore_changes _).moves
  | readClock => exact (execReadClock_changes _).moves
  | hello => exact (execHello_changes _ _).moves
  | readPosition => exact (execReadPosition_changes _).moves
  | stop => exact (execStop_changes _).moves
  | requestWork => exact (execRequestWork_changes _).moves
  | accept => exact (execAccept_changes _).moves
  | decline => exact (execDecline_changes _).moves
  | keep => exact (execKeep_changes _).moves
  | complete => exact (execComplete_changes _).moves
  | returnTake => exact (execReturnTake_changes _).moves
  | cue => exact (execCue_changes _ _).moves
  | save => exact (execSave_changes _).moves
  | play => exact (execPlay_changes _).moves
  | pause => exact (execPause_changes _).moves
  | setNotice => exact (execSetNotice_changes _ _).moves
  | setMix => exact (execSetMix_changes _ _).moves
  | addNote => exact (execAddNote_changes _ _ _ _).moves
  | listen => exact (execListen_changes _ _).moves
  | requestArchive => exact (execRequestArchive_changes _).moves
  | archived => exact (execArchived_changes _).moves
  | archiveFailed => exact (execArchiveFailed_changes _).moves
  | credit => exact (execCredit_changes _ _).moves

theorem takeControl_moves (p : Port) (src : Byte) (payload : List Byte) : NextBy Moves s (takeControl p src payload s) := by
  unfold takeControl
  split
  · exact handCommand_moves _ _ _
  · exact (execUnknownCommand_changes _ _ _).moves

theorem takeMarkFrame_changes (kind : Byte) (m : Mark) : NextBy Changes s (takeMarkFrame kind m s) := by
  unfold takeMarkFrame
  split
  · exact execAnnotationMark_changes _ _
  · exact execAnnotationMark_changes _ _
  · exact execAnnotationMark_changes _ _
  · exact execAnnotationMark_changes _ _
  · exact execGoOffRecord_changes _
  · exact execGoOnRecord_changes _
  · exact execSealRecord_changes _
  · exact execUnsealRecord_changes _
  · exact execCutNow_changes _
  · exact nextBy (takeBadMark_changes _ _)

theorem takeFrame_moves (p : Port) (f : Parsed) (order : SyncOrder) : NextBy Moves s (takeFrame p f order s) := by
  have hs : NextBy Moves s (.next (countShort s)) := nextBy (Changes.moves (.countLink .refl _))
  unfold takeFrame
  split
  · split
    · exact hs
    · exact (execCaptureSync_changes _ _).moves
  · split
    · split
      · exact hs
      · exact (execAudioFrame_changes _ _ _ _).moves
    · split
      · split
        · exact hs
        · exact (takeMarkFrame_changes _ _).moves
      · exact takeControl_moves _ _ _

theorem handleFrame_moves (p : Port) (f : Parsed) (bytes : Frame) (order : SyncOrder) :
    NextBy Moves s (handleFrame p f bytes order s) := by
  unfold handleFrame
  split
  · exact takeFrame_moves _ _ _
  · obtain ⟨t, ht, h⟩ := takeFrame_moves (s := s) p f order
    rw [ht]
    exact nextBy (.trans h (forward_changes _ _).moves)
  · exact nextBy (forward_changes _ _).moves
  · exact nextBy (Changes.moves (.countLink .refl _))
  · exact nextBy (Changes.moves (.countLink .refl _))

theorem execFrameArrival_moves (p : Port) (bytes : List Byte) (order : SyncOrder) :
    NextBy Moves s (execFrameArrival p bytes order s) := by
  have hp : ∀ f : PortCounters → PortCounters, Changes s (s.updPort p fun q => { q with counters := f q.counters }) :=
    fun f => updPort_changes _ _ fun _ => ⟨rfl, rfl, rfl⟩
  unfold execFrameArrival
  split
  · exact nextBy .refl
  · split
    · exact nextBy (hp fun k => { k with crcErrors := k.crcErrors + 1 }).moves
    · rename_i f _
      have h : NextBy Moves (s.updPort p fun q => { q with counters := { q.counters with framesReceived := q.counters.framesReceived + 1 } })
          (checkAddresses p f bytes order
            (s.updPort p fun q => { q with counters := { q.counters with framesReceived := q.counters.framesReceived + 1 } })) := by
        unfold checkAddresses
        split
        · exact nextBy (Changes.moves (.countLink .refl _))
        · split
          · exact nextBy (Changes.moves (.countLink .refl _))
          · exact handleFrame_moves _ _ _ _
      obtain ⟨t, ht, h⟩ := h
      rw [ht]
      exact nextBy (.trans (hp fun k => { k with framesReceived := k.framesReceived + 1 }).moves h)

/-! ## Every command -/

/-- The two commands that set every block to its reset values. -/
def isReset : Instr → Bool
  | .powerOnReset _ _ | .hardReset _ => true
  | _ => false

/-- The commands that write the clock, the operating state, the power state or a table. A frame may carry such a command. -/
def isSpecial : Instr → Bool
  | .tickArrival | .setClock _ _ | .run _ | .halt _ | .writeEntry _ _ | .mainPowerLoss _ | .frameArrival _ _ _ => true
  | _ => false

/-- Every command but the resets and the special ones is a chain of changes. -/
theorem exec_changes (i : Instr) (hr : isReset i = false) (hs : isSpecial i = false) : NextBy Changes s (exec i s) := by
  cases i with
  | powerOnReset _ _ => cases hr
  | hardReset _ => cases hr
  | tickArrival => cases hs
  | setClock _ _ => cases hs
  | run _ => cases hs
  | halt _ => cases hs
  | writeEntry _ _ => cases hs
  | mainPowerLoss _ => cases hs
  | frameArrival _ _ _ => cases hs
  | transmitFrame _ => exact execTransmitFrame_changes _
  | audioFrame _ _ _ _ => exact execAudioFrame_changes _ _ _ _
  | captureSync _ _ => exact execCaptureSync_changes _ _
  | syncReturn _ _ => exact execSyncReturn_changes _ _
  | syncLossExpiry => exact execSyncLossExpiry_changes
  | localSync => exact execLocalSync_changes
  | statusFrame => exact execStatusFrame_changes
  | offerExpiry _ => exact execOfferExpiry_changes _
  | leaseExpiry _ => exact execLeaseExpiry_changes _
  | stallExpiry _ => exact execStallExpiry_changes _
  | annotationMark _ _ => exact execAnnotationMark_changes _ _
  | goOffRecord _ => exact execGoOffRecord_changes _
  | goOnRecord _ => exact execGoOnRecord_changes _
  | sealRecord _ => exact execSealRecord_changes _
  | unsealRecord _ => exact execUnsealRecord_changes _
  | cutNow _ => exact execCutNow_changes _
  | unknownCommand _ _ _ => exact execUnknownCommand_changes _ _ _
  | sessionReset _ => exact execSessionReset_changes _
  | setCursor _ _ _ => exact execSetCursor_changes _ _ _
  | readEntry _ => exact execReadEntry_changes _
  | setResponseMode _ _ _ => exact execSetResponseMode_changes _ _ _
  | readAlerts _ => exact execReadAlerts_changes _
  | readCounters _ => exact execReadCounters_changes _
  | clearCounters _ => exact execClearCounters_changes _
  | openRoom _ _ => exact execOpenRoom_changes _ _
  | closeRoom _ _ => exact execCloseRoom_changes _ _
  | cutTake _ _ => exact execCutTake_changes _ _
  | readTake _ _ => exact execReadTake_changes _ _
  | readQueue _ _ _ => exact execReadQueue_changes _ _ _
  | moveTake _ _ _ => exact execMoveTake_changes _ _ _
  | readMarker _ _ _ _ => exact execReadMarker_changes _ _ _ _
  | releaseTake _ _ => exact execReleaseTake_changes _ _
  | clearStore _ => exact execClearStore_changes _
  | readClock _ => exact execReadClock_changes _
  | hello _ _ => exact execHello_changes _ _
  | readPosition _ => exact execReadPosition_changes _
  | stop _ => exact execStop_changes _
  | requestWork _ => exact execRequestWork_changes _
  | accept _ => exact execAccept_changes _
  | decline _ => exact execDecline_changes _
  | keep _ => exact execKeep_changes _
  | complete _ => exact execComplete_changes _
  | returnTake _ => exact execReturnTake_changes _
  | cue _ _ => exact execCue_changes _ _
  | save _ => exact execSave_changes _
  | play _ => exact execPlay_changes _
  | pause _ => exact execPause_changes _
  | setNotice _ _ => exact execSetNotice_changes _ _
  | setMix _ _ => exact execSetMix_changes _ _
  | addNote _ _ _ _ => exact execAddNote_changes _ _ _ _
  | listen _ _ => exact execListen_changes _ _
  | requestArchive _ => exact execRequestArchive_changes _
  | archived _ => exact execArchived_changes _
  | archiveFailed _ => exact execArchiveFailed_changes _
  | credit _ _ => exact execCredit_changes _ _

/-- Every command but the resets is a chain of moves. -/
theorem exec_moves (i : Instr) (hr : isReset i = false) : NextBy Moves s (exec i s) := by
  by_cases hs : isSpecial i = true
  · cases i with
    | tickArrival => exact nextBy takeTick_moves
    | setClock _ _ => exact execSetClock_moves _ _
    | run _ => exact execRun_moves _
    | halt _ => exact execHalt_moves _
    | writeEntry _ _ => exact execWriteEntry_moves _ _
    | mainPowerLoss _ => exact execMainPowerLoss_moves _
    | frameArrival _ _ _ => exact execFrameArrival_moves _ _ _
    | _ => cases hs
  · exact (exec_changes i hr (by simpa using hs)).moves

end Sys2Proof.Machine
end

