-- ==== Sys2Proof/Laws/Checks.lean ====
section
/-! SUPPORT. Commands that pass their first checks (R88, R182, R183): the owning block's part then acts on the state that `handled` names. -/

set_option Elab.async false

namespace Sys2Proof.Machine

variable {s : State} {c : Ctl} {cmd : CommandName} {e : StationId}

/-! ## Noting the last port leaves the three tables of R182 alone -/

theorem find_congr {α : Type} {p q : α → Bool} (xs : List α) (h : ∀ x, p x = q x) : xs.find? p = xs.find? q := by
  rw [show p = q from funext h]

theorem findManager_of_nodes {s t : State} (h : ∀ m : Fin 4, t.mgmt.managers[m].node = s.mgmt.managers[m].node) (n : Byte) :
    t.findManager n = s.findManager n := by
  unfold State.findManager
  exact ite_congr rfl (fun _ => rfl) fun _ => find_congr _ fun m => by rw [h m]

theorem findStation_of_nodes {s t : State} (h : ∀ e, (t.station e).config = (s.station e).config) (n : Byte) :
    t.findStation n = s.findStation n := by
  unfold State.findStation
  exact ite_congr rfl (fun _ => rfl) fun _ => find_congr _ fun m => by rw [h m]

theorem findConsole_of_rooms {s t : State} (h : t.rooms = s.rooms) (n : Byte) : t.findConsole n = s.findConsole n := by
  unfold State.findConsole State.room
  rw [h]

theorem takenFrom_rooms (p : Port) (n : Byte) : (takenFrom p n s).rooms = s.rooms := by
  unfold takenFrom
  split
  · rfl
  · split <;> rfl

theorem takenFrom_managers (p : Port) (n : Byte) (m : Fin 4) :
    (takenFrom p n s).mgmt.managers[m].node = s.mgmt.managers[m].node := by
  unfold takenFrom
  split
  · rename_i j _
    simp only [Fin.getElem_fin, Vector.getElem_set]
    split
    · rename_i hj
      simp [hj]
    · rfl
  · split <;> rfl

theorem takenFrom_station_config (p : Port) (n : Byte) (q : StationId) :
    ((takenFrom p n s).station q).config = (s.station q).config := by
  unfold takenFrom
  split
  · rfl
  · split
    · rename_i j _
      by_cases h : j = q
      · subst h; rw [State.station_updStation]
      · rw [State.station_updStation_ne _ _ h]
    · rfl

/-- The class of a source is read from the tables as they stand when the frame is taken (R182); noting the last port changes none of it. -/
theorem sender_takenFrom (p : Port) (n m : Byte) : (takenFrom p n s).sender m = s.sender m := by
  unfold State.sender
  rw [findManager_of_nodes (takenFrom_managers p n), findStation_of_nodes (takenFrom_station_config p n),
    findConsole_of_rooms (takenFrom_rooms p n)]

/-! ## Commands that pass -/

/-- A known source's command reaches its class check on the state `handled` names, but for the lease effect of a station command. -/
theorem control_of {k : Sender → State → State} (hp : s.power = .on) (hs : s.sender c.src ≠ .unknown) :
    control c cmd k s =
      k (s.sender c.src) ((takenFrom c.port c.src s).countMgmt fun q => { q with controlTaken := q.controlTaken + 1 }) := by
  unfold control whenOn
  rw [if_pos hp]
  dsimp only
  split
  · rename_i h
    rw [sender_takenFrom] at h
    exact absurd h hs
  · rw [sender_takenFrom]

theorem handled_of_manager (h : s.sender c.src = .manager) :
    handled c cmd s = (takenFrom c.port c.src s).countMgmt fun q => { q with controlTaken := q.controlTaken + 1 } := by
  unfold handled leaseEffect
  rw [h]

/-- A manager command that passes its checks is its own part, on the state `handled` names. -/
theorem managerCommand_of {k : State → State} (h : FromManager c s) : managerCommand c cmd k s = k (handled c cmd s) := by
  obtain ⟨hp, hs, ho⟩ := h
  unfold managerCommand
  rw [control_of hp (by rw [hs]; simp), hs, handled_of_manager hs]
  dsimp only
  rw [if_neg (by simpa [zeroOverride] using ho)]

theorem takenFrom_op (p : Port) (n : Byte) : (takenFrom p n s).mgmt.op = s.mgmt.op := by
  unfold takenFrom
  split
  · rfl
  · split <;> rfl

theorem takenFrom_station (p : Port) (n : Byte) (q : StationId) :
    (takenFrom p n s).station q = { s.station q with lastPort := ((takenFrom p n s).station q).lastPort } := by
  unfold takenFrom
  split
  · rfl
  · split
    · rename_i j _
      by_cases h : j = q
      · subst h; rw [State.station_updStation]
      · rw [State.station_updStation_ne _ _ h]
    · rfl

/-- The lease effect of a command changes no station but in its timer. -/
theorem leaseEffect_station (who : Sender) (q : StationId) :
    (leaseEffect cmd who s).station q = { s.station q with timer := ((leaseEffect cmd who s).station q).timer } := by
  unfold leaseEffect restartLease
  split
  · rename_i j
    split
    · split
      · by_cases h : j = q
        · subst h; rw [State.station_updStation]
        · rw [State.station_updStation_ne _ _ h]
      · rfl
    · rfl
  · rfl

theorem leaseEffect_op (who : Sender) : (leaseEffect cmd who s).mgmt.op = s.mgmt.op := by
  unfold leaseEffect restartLease
  split
  · split
    · split <;> rfl
    · rfl
  · rfl

/-- What is handled changes no station but in its last port and its timer. -/
theorem handled_station (q : StationId) :
    ((handled c cmd s).station q).config = (s.station q).config ∧ ((handled c cmd s).station q).state = (s.station q).state ∧
      ((handled c cmd s).station q).take = (s.station q).take ∧ ((handled c cmd s).station q).misses = (s.station q).misses := by
  have h1 : ((takenFrom c.port c.src s).countMgmt fun q => { q with controlTaken := q.controlTaken + 1 }).station q =
      { s.station q with lastPort := ((takenFrom c.port c.src s).station q).lastPort } := takenFrom_station _ _ q
  have h2 := leaseEffect_station (s := (takenFrom c.port c.src s).countMgmt fun q => { q with controlTaken := q.controlTaken + 1 })
    (cmd := cmd) (s.sender c.src) q
  unfold handled
  rw [h2, h1]
  exact ⟨rfl, rfl, rfl, rfl⟩

/-- A station command that passes the checks of R88 is its own part, on the state `handled` names. -/
theorem stationCommand_of {k : StationId → State → State} (h : FromStation c cmd e s) :
    stationCommand c cmd k s = k e (handled c cmd s) := by
  obtain ⟨hp, hs, hr, hc, ho, hz⟩ := h
  unfold stationCommand
  rw [control_of hp (by rw [hs]; simp), hs]
  dsimp only
  have hh : leaseEffect cmd (.station e) ((takenFrom c.port c.src s).countMgmt fun q => { q with controlTaken := q.controlTaken + 1 }) =
      handled c cmd s := by unfold handled; rw [hs]
  rw [hh]
  have hop : (handled c cmd s).mgmt.op = .run := by
    unfold handled
    rw [leaseEffect_op]
    exact (takenFrom_op _ _).trans hr
  rw [if_neg (by simp [hop]), (handled_station e).1, if_neg (by simp [hc]), (handled_station e).2.1, if_neg ho,
    if_neg (by simpa [zeroOverride] using hz)]

theorem plainStationCommand_of {k : StationId → State → State} (h : FromStationPlain c cmd e s) :
    plainStationCommand c cmd k s = k e (handled c cmd s) := by
  unfold plainStationCommand
  rw [stationCommand_of h.1, h.2]
  rfl

/-! ## What `handled` leaves alone -/

/-- Noting the last port leaves every block but the manager list and the station table alone. -/
theorem takenFrom_same (p : Port) (n : Byte) :
    (takenFrom p n s).pending = s.pending ∧ (takenFrom p n s).power = s.power ∧ (takenFrom p n s).clock = s.clock ∧ (takenFrom p n s).schedule = s.schedule ∧ (takenFrom p n s).clockCounters = s.clockCounters ∧ (takenFrom p n s).ingestMap = s.ingestMap ∧ (takenFrom p n s).ingestCounters = s.ingestCounters ∧ (takenFrom p n s).rooms = s.rooms ∧ (takenFrom p n s).currentCycle = s.currentCycle ∧ (takenFrom p n s).notConsole = s.notConsole ∧ (takenFrom p n s).store = s.store ∧ (takenFrom p n s).takeTable = s.takeTable ∧ (takenFrom p n s).markerPool = s.markerPool ∧ (takenFrom p n s).playback = s.playback ∧ (takenFrom p n s).link = s.link ∧ (takenFrom p n s).timeouts = s.timeouts := by
  unfold takenFrom
  split
  · exact ⟨rfl, rfl, rfl, rfl, rfl, rfl, rfl, rfl, rfl, rfl, rfl, rfl, rfl, rfl, rfl, rfl⟩
  · split <;> exact ⟨rfl, rfl, rfl, rfl, rfl, rfl, rfl, rfl, rfl, rfl, rfl, rfl, rfl, rfl, rfl, rfl⟩

theorem leaseEffect_same (who : Sender) :
    (leaseEffect cmd who s).pending = s.pending ∧ (leaseEffect cmd who s).power = s.power ∧ (leaseEffect cmd who s).clock = s.clock ∧ (leaseEffect cmd who s).schedule = s.schedule ∧ (leaseEffect cmd who s).clockCounters = s.clockCounters ∧ (leaseEffect cmd who s).ingestMap = s.ingestMap ∧ (leaseEffect cmd who s).ingestCounters = s.ingestCounters ∧ (leaseEffect cmd who s).rooms = s.rooms ∧ (leaseEffect cmd who s).currentCycle = s.currentCycle ∧ (leaseEffect cmd who s).notConsole = s.notConsole ∧ (leaseEffect cmd who s).store = s.store ∧ (leaseEffect cmd who s).takeTable = s.takeTable ∧ (leaseEffect cmd who s).markerPool = s.markerPool ∧ (leaseEffect cmd who s).playback = s.playback ∧ (leaseEffect cmd who s).link = s.link ∧ (leaseEffect cmd who s).timeouts = s.timeouts := by
  unfold leaseEffect restartLease
  split
  · split
    · split <;> exact ⟨rfl, rfl, rfl, rfl, rfl, rfl, rfl, rfl, rfl, rfl, rfl, rfl, rfl, rfl, rfl, rfl⟩
    · exact ⟨rfl, rfl, rfl, rfl, rfl, rfl, rfl, rfl, rfl, rfl, rfl, rfl, rfl, rfl, rfl, rfl⟩
  · exact ⟨rfl, rfl, rfl, rfl, rfl, rfl, rfl, rfl, rfl, rfl, rfl, rfl, rfl, rfl, rfl, rfl⟩

@[simp] theorem handled_pending : (handled c cmd s).pending = s.pending :=
  (leaseEffect_same _).1.trans (takenFrom_same _ _).1

@[simp] theorem handled_power : (handled c cmd s).power = s.power :=
  (leaseEffect_same _).2.1.trans (takenFrom_same _ _).2.1

@[simp] theorem handled_clock : (handled c cmd s).clock = s.clock :=
  (leaseEffect_same _).2.2.1.trans (takenFrom_same _ _).2.2.1

@[simp] theorem handled_schedule : (handled c cmd s).schedule = s.schedule :=
  (leaseEffect_same _).2.2.2.1.trans (takenFrom_same _ _).2.2.2.1

@[simp] theorem handled_clockCounters : (handled c cmd s).clockCounters = s.clockCounters :=
  (leaseEffect_same _).2.2.2.2.1.trans (takenFrom_same _ _).2.2.2.2.1

@[simp] theorem handled_ingestMap : (handled c cmd s).ingestMap = s.ingestMap :=
  (leaseEffect_same _).2.2.2.2.2.1.trans (takenFrom_same _ _).2.2.2.2.2.1

@[simp] theorem handled_ingestCounters : (handled c cmd s).ingestCounters = s.ingestCounters :=
  (leaseEffect_same _).2.2.2.2.2.2.1.trans (takenFrom_same _ _).2.2.2.2.2.2.1

@[simp] theorem handled_rooms : (handled c cmd s).rooms = s.rooms :=
  (leaseEffect_same _).2.2.2.2.2.2.2.1.trans (takenFrom_same _ _).2.2.2.2.2.2.2.1

@[simp] theorem handled_currentCycle : (handled c cmd s).currentCycle = s.currentCycle :=
  (leaseEffect_same _).2.2.2.2.2.2.2.2.1.trans (takenFrom_same _ _).2.2.2.2.2.2.2.2.1

@[simp] theorem handled_notConsole : (handled c cmd s).notConsole = s.notConsole :=
  (leaseEffect_same _).2.2.2.2.2.2.2.2.2.1.trans (takenFrom_same _ _).2.2.2.2.2.2.2.2.2.1

@[simp] theorem handled_store : (handled c cmd s).store = s.store :=
  (leaseEffect_same _).2.2.2.2.2.2.2.2.2.2.1.trans (takenFrom_same _ _).2.2.2.2.2.2.2.2.2.2.1

@[simp] theorem handled_takeTable : (handled c cmd s).takeTable = s.takeTable :=
  (leaseEffect_same _).2.2.2.2.2.2.2.2.2.2.2.1.trans (takenFrom_same _ _).2.2.2.2.2.2.2.2.2.2.2.1

@[simp] theorem handled_markerPool : (handled c cmd s).markerPool = s.markerPool :=
  (leaseEffect_same _).2.2.2.2.2.2.2.2.2.2.2.2.1.trans (takenFrom_same _ _).2.2.2.2.2.2.2.2.2.2.2.2.1

@[simp] theorem handled_playback : (handled c cmd s).playback = s.playback :=
  (leaseEffect_same _).2.2.2.2.2.2.2.2.2.2.2.2.2.1.trans (takenFrom_same _ _).2.2.2.2.2.2.2.2.2.2.2.2.2.1

@[simp] theorem handled_link : (handled c cmd s).link = s.link :=
  (leaseEffect_same _).2.2.2.2.2.2.2.2.2.2.2.2.2.2.1.trans (takenFrom_same _ _).2.2.2.2.2.2.2.2.2.2.2.2.2.2.1

@[simp] theorem handled_timeouts : (handled c cmd s).timeouts = s.timeouts :=
  (leaseEffect_same _).2.2.2.2.2.2.2.2.2.2.2.2.2.2.2.trans (takenFrom_same _ _).2.2.2.2.2.2.2.2.2.2.2.2.2.2.2

@[simp] theorem handled_op : (handled c cmd s).mgmt.op = s.mgmt.op := (leaseEffect_op _).trans (takenFrom_op _ _)

@[simp] theorem handled_room (r : RoomId) : (handled c cmd s).room r = s.room r := by simp [State.room]

@[simp] theorem handled_context (q : StationId) : (handled c cmd s).context q = s.context q := by simp [State.context]

@[simp] theorem handled_take (k : Nat) : (handled c cmd s).take? k = s.take? k := by simp [State.take?]

@[simp] theorem handled_numberOf (k : Nat) : (handled c cmd s).numberOf k = s.numberOf k := by simp [State.numberOf]

@[simp] theorem handled_cellsOf (k : Nat) : (handled c cmd s).cellsOf k = s.cellsOf k := by simp [State.cellsOf]

@[simp] theorem handled_findTake (n : Nat) : (handled c cmd s).findTake n = s.findTake n := by simp [State.findTake]

@[simp] theorem handled_namedTake (n : Word) : (handled c cmd s).namedTake n = s.namedTake n := by simp [State.namedTake]

@[simp] theorem handled_now : (handled c cmd s).now = s.now := by simp [State.now]

@[simp] theorem handled_port (p : Port) : (handled c cmd s).port p = s.port p := by cases p <;> simp [State.port]

@[simp] theorem handled_lowestFreeSlot : (handled c cmd s).lowestFreeSlot = s.lowestFreeSlot := by simp [State.lowestFreeSlot]

@[simp] theorem handled_config (q : StationId) : ((handled c cmd s).station q).config = (s.station q).config := (handled_station q).1

@[simp] theorem handled_state (q : StationId) : ((handled c cmd s).station q).state = (s.station q).state := (handled_station q).2.1

@[simp] theorem handled_stationTake (q : StationId) : ((handled c cmd s).station q).take = (s.station q).take := (handled_station q).2.2.1

end Sys2Proof.Machine
end

