-- ==== Sys2Proof/Laws/Pages.lean ====
section
/-! SUPPORT. The chains of the Page Store: what the storing of a cell writes, what freeing a chain leaves, and when a chain is the same chain in
another page table. -/

set_option Elab.async false

namespace Sys2Proof.Machine

variable {s : State} {pages pages' : SMap Page} {k n : Nat} {first : Option Nat} {l : List Nat}

/-! ## What storing a cell writes (R29) -/

/-- The page table once a page is linked behind a take's last page. -/
def linkedPages (pages : SMap Page) (k n : Nat) (t : Take) : SMap Page :=
  mapSet n { next := none, fill := 0, owner := k, cells := [] }
    (match t.lastPage with
      | some old => match mapGet old pages with
        | some pg => mapSet old { pg with next := some n } pages
        | none => pages
      | none => pages)

/-- The page table once a cell is written to page `n`. -/
def writtenPages (pages : SMap Page) (n : Option Nat) (cell : AudioCell) : SMap Page :=
  match n with
  | some n => match mapGet n pages with
    | some pg => mapSet n { pg with fill := pg.fill + 1, cells := pg.cells ++ [cell] } pages
    | none => pages
  | none => pages

/-- Writing a cell changes the page table and its take's record, and nothing else. -/
theorem writeCell_eq {t : Take} (cell : AudioCell) (h : s.take? k = some t) :
    writeCell k cell s = { s with
      store := { s.store with pages := writtenPages s.store.pages t.lastPage cell }
      takeTable := { s.takeTable with takes := mapSet k { t with cells := t.cells + 1 } s.takeTable.takes } } := by
  unfold writeCell writtenPages
  simp only [h]
  rcases hl : t.lastPage with _ | n
  · rfl
  · have : s.page? n = mapGet n s.store.pages := rfl
    rcases hp : mapGet n s.store.pages with _ | pg <;> simp only [this, hp] <;> rfl

/-- Linking a page changes the page store and its take's record, and nothing else. -/
theorem linkPage_eq (k n : Nat) (rest : List Nat) (t : Take) (s : State) :
    linkPage k n rest t s = { s with
      store := { s.store with
        freePages := rest, pages := linkedPages s.store.pages k n t
        counters := { s.store.counters with pagesAllocated := s.store.counters.pagesAllocated + 1 } }
      takeTable := { s.takeTable with
        takes := mapSet k { t with firstPage := some (t.firstPage.getD n), lastPage := some n } s.takeTable.takes } } := rfl

theorem linkedPages_new (pages : SMap Page) (k n : Nat) (t : Take) :
    mapGet n (linkedPages pages k n t) = some { next := none, fill := 0, owner := k, cells := [] } := mapGet_mapSet_same

/-- A linked page with its first cell: what a store that needs a page changes. -/
theorem storeLinked_eq {t : Take} (cell : AudioCell) (rest : List Nat) :
    writeCell k cell (linkPage k n rest t s) = { s with
      store := { s.store with
        freePages := rest
        pages := mapSet n { next := none, fill := 1, owner := k, cells := [cell] } (linkedPages s.store.pages k n t)
        counters := { s.store.counters with pagesAllocated := s.store.counters.pagesAllocated + 1 } }
      takeTable := { s.takeTable with
        takes := mapSet k { t with firstPage := some (t.firstPage.getD n), lastPage := some n, cells := t.cells + 1 }
          (mapSet k { t with firstPage := some (t.firstPage.getD n), lastPage := some n } s.takeTable.takes) } } := by
  have h : (linkPage k n rest t s).take? k = some { t with firstPage := some (t.firstPage.getD n), lastPage := some n } :=
    mapGet_mapSet_same
  rw [writeCell_eq cell h, linkPage_eq]
  simp only [writtenPages, linkedPages_new]
  rfl

/-! ## Chains (R27) -/

/-- A chain is a chain of any page table that agrees with its own on the chain's pages, as to next and owner. -/
theorem chainIs_congr
    (h : ∀ m ∈ l, ∀ pg, mapGet m pages = some pg → ∃ pg', mapGet m pages' = some pg' ∧ pg'.next = pg.next ∧ pg'.owner = pg.owner)
    (hc : chainIs pages k first l) : chainIs pages' k first l := by
  induction l generalizing first with
  | nil => cases first <;> exact hc
  | cons m l ih =>
    cases first with
    | none => exact hc
    | some f =>
      obtain ⟨rfl, pg, hp, ho, hn⟩ := hc
      obtain ⟨pg', hp', hn', ho'⟩ := h _ (List.mem_cons_self ..) pg hp
      exact ⟨rfl, pg', hp', ho'.trans ho, hn' ▸ ih (fun x hx => h x (List.mem_cons_of_mem _ hx)) hn⟩

/-- Every page of a chain is listed and owned by the chain's slot. -/
theorem chainIs_mem (hc : chainIs pages k first l) {m : Nat} (hm : m ∈ l) : ∃ pg, mapGet m pages = some pg ∧ pg.owner = k := by
  induction l generalizing first with
  | nil => cases hm
  | cons a l ih =>
    cases first with
    | none => exact hc.elim
    | some f =>
      obtain ⟨rfl, pg, hp, ho, hn⟩ := hc
      rcases List.mem_cons.1 hm with rfl | hm
      · exact ⟨pg, hp, ho⟩
      · exact ih hn hm

/-- A chain with a page linked behind its last. -/
theorem chainIs_append (hc : chainIs pages k first l) (hd : l.Nodup) {pg : Page} (hg : mapGet n pages' = some pg) (ho : pg.owner = k)
    (hx : pg.next = none)
    (h : ∀ m ∈ l, ∀ q, mapGet m pages = some q → ∃ q', mapGet m pages' = some q' ∧ q'.owner = q.owner ∧
      q'.next = if l.getLast? = some m then some n else q.next) :
    chainIs pages' k (if l = [] then some n else first) (l ++ [n]) := by
  induction l generalizing first with
  | nil => exact ⟨rfl, pg, hg, ho, by rw [hx]; trivial⟩
  | cons a l ih =>
    cases first with
    | none => exact hc.elim
    | some f =>
      obtain ⟨rfl, q, hp, hq, hn⟩ := hc
      obtain ⟨q', hp', ho', hn'⟩ := h a (List.mem_cons_self ..) q hp
      refine ⟨rfl, q', hp', ho'.trans hq, ?_⟩
      cases l with
      | nil =>
        rw [hn', List.getLast?_singleton, if_pos rfl]
        exact ⟨rfl, pg, hg, ho, by rw [hx]; trivial⟩
      | cons b l =>
        have hne : (a :: b :: l).getLast? ≠ some a := by
          rw [List.getLast?_cons_cons]
          intro e
          exact (List.nodup_cons.1 hd).1 (List.mem_of_getLast? e)
        rw [hn', if_neg hne]
        have := ih hn (List.nodup_cons.1 hd).2 fun m hm q hq => by
          have := h m (List.mem_cons_of_mem _ hm) q hq
          rwa [List.getLast?_cons_cons] at this
        simpa using this

/-! ## Freeing a chain (R34) -/

/-- Freeing a chain takes its pages out of the page table and adds them, in chain order, to the free page queue. -/
theorem freeChain_spec {fuel : Nat} {st : Store} (hc : chainIs st.pages k first l) (hd : l.Nodup) (hf : l.length ≤ fuel) :
    freeChain fuel first st = { st with pages := l.foldl (fun m n => mapErase n m) st.pages, freePages := st.freePages ++ l } := by
  induction l generalizing first st fuel with
  | nil =>
    cases first with
    | none => cases fuel <;> simp [freeChain]
    | some f => exact hc.elim
  | cons a l ih =>
    cases first with
    | none => exact hc.elim
    | some f =>
      obtain ⟨rfl, pg, hp, ho, hn⟩ := hc
      cases fuel with
      | zero => simp at hf
      | succ fuel =>
        have ha := (List.nodup_cons.1 hd).1
        rw [freeChain]
        simp only [hp]
        rw [ih (chainIs_congr (fun m hm q hq => ⟨q, by
            show mapGet m (mapErase a st.pages) = _
            rw [mapGet_mapErase_ne (fun e : m = a => ha (e ▸ hm))]; exact hq, rfl, rfl⟩) hn) (List.nodup_cons.1 hd).2 (Nat.le_of_succ_le_succ hf)]
        simp

/-- What a page table reads once pages are taken out of it. -/
theorem mapGet_erased (l : List Nat) (pages : SMap Page) (j : Nat) :
    mapGet j (l.foldl (fun m n => mapErase n m) pages) = if j ∈ l then none else mapGet j pages := by
  induction l generalizing pages with
  | nil => simp
  | cons a l ih =>
    rw [List.foldl_cons, ih]
    by_cases hj : j = a
    · subst hj; simp
    · rw [mapGet_mapErase_ne hj]; simp [hj]

theorem mapWf_erased (l : List Nat) (h : mapWf pages) : mapWf (l.foldl (fun m n => mapErase n m) pages) := by
  induction l generalizing pages with
  | nil => exact h
  | cons a l ih => exact ih (mapWf_mapErase h)

/-! ## A slot's whole chain -/

variable {j : Nat}

/-- A slot's chain stands in another page table that lists the same pages for that slot. -/
theorem chainOf_other {t : Take} (h : ∀ n pg, pg.owner = j → (mapGet n pages' = some pg ↔ mapGet n pages = some pg))
    (hc : chainOf pages j t l) : chainOf pages' j t l := by
  obtain ⟨h1, h2, h3, h4, h5, h6, h7⟩ := hc
  have hm : ∀ m ∈ l, mapGet m pages' = mapGet m pages := fun m hm => by
    obtain ⟨pg, hp, ho⟩ := chainIs_mem h1 hm
    rw [hp, (h m pg ho).2 hp]
  have hf : ∀ m ∈ l, fillOf pages' m = fillOf pages m := fun m h => by unfold fillOf; rw [hm m h]
  refine ⟨chainIs_congr (fun m hm' pg hp => ⟨pg, (hm m hm').trans hp, rfl, rfl⟩) h1, h2, h3,
    fun n pg hn ho => h4 n pg ((h n pg ho).1 hn) ho, fun n hn => (hf n (List.mem_of_mem_dropLast hn)).trans (h5 n hn),
    fun n hn => by rw [hf n hn]; exact h6 n hn, ?_⟩
  rw [h7]; congr 1; exact List.map_congr_left fun m hm => (hf m hm).symm

/-- A chain is a chain of any record that says the same of it. -/
theorem chainOf_take {t t' : Take} (h : t'.chain = t.chain) (hc : chainOf pages j t l) : chainOf pages j t' l := by
  simp only [Take.chain, Prod.mk.injEq] at h
  unfold chainOf at *
  rw [h.1, h.2.1, h.2.2]; exact hc

/-- The chains are kept where the page table is the same and every live take's record says the same of its chain. -/
theorem chains_take {s u : State} (hp : u.store.pages = s.store.pages)
    (h : ∀ k, (u.take? k).map Take.chain = (s.take? k).map Take.chain) (hs : ChainsKept s) : ChainsKept u := by
  constructor
  · intro k t ht
    have := h k
    rw [ht] at this
    rcases ho : s.take? k with _ | t0
    · simp [ho] at this
    · rw [ho] at this
      obtain ⟨l, hl⟩ := hs.1 k t0 ho
      rw [hp]
      exact ⟨l, chainOf_take (by simpa using this) hl⟩
  · intro n pg hn
    unfold State.page? at hn
    rw [hp] at hn
    obtain ⟨a, b⟩ := hs.2 n pg hn
    refine ⟨?_, b⟩
    have := congrArg Option.isSome (h pg.owner)
    simpa using this.trans (by simpa using a)

/-- A listed key is among the keys. -/
theorem key_of_get {n : Nat} {pg : Page} (h : mapGet n pages = some pg) : n ∈ mapKeys pages := by
  by_contra hc; rw [mapGet_eq_none_iff.2 hc] at h; cases h

/-- A chain has no more pages than the page table lists. -/
theorem chain_len {t : Take} (hc : chainOf pages k t l) : l.length ≤ pages.length := by
  have : l ⊆ mapKeys pages := fun m hm => by
    obtain ⟨pg, hp, _⟩ := chainIs_mem hc.1 hm
    exact key_of_get hp
  have h2 := (List.subperm_of_subset hc.2.1 this).length_le
  simpa [mapKeys] using h2

/-- Taking pages out of a page table takes exactly their keys out. -/
theorem erased_keys (l : List Nat) (hd : l.Nodup) (hw : mapWf pages) (h : ∀ m ∈ l, m ∈ mapKeys pages) :
    (l ++ mapKeys (l.foldl (fun m n => mapErase n m) pages)).Perm (mapKeys pages) := by
  induction l generalizing pages with
  | nil => simp
  | cons a l ih =>
    have ha := h a (List.mem_cons_self ..)
    obtain ⟨v, hv⟩ : ∃ v, mapGet a pages = some v := by
      rcases hh : mapGet a pages with _ | v
      · exact absurd ha (mapGet_eq_none_iff.1 hh)
      · exact ⟨v, rfl⟩
    have hd' := List.nodup_cons.1 hd
    have key := mapKeys_mapErase_of_some hw hv
    have := ih (pages := mapErase a pages) hd'.2 (mapWf_mapErase hw) fun m hm => by
      have := key.mem_iff.1 (h m (List.mem_cons_of_mem _ hm))
      rcases List.mem_cons.1 this with rfl | h
      · exact absurd hm hd'.1
      · exact h
    exact (this.cons a).trans key.symm

end Sys2Proof.Machine
end

