-- ==== Sys2Proof/Laws/Pins.lean ====
section
/-! SUPPORT. What the move of a context between takes can do: to the contexts, to the takes' pin counts, and to the number of readers. -/

namespace Sys2Proof.Machine

variable {s : State}

/-- What a changed take reads as. -/
theorem take_updTake (k j : Nat) (f : Take → Take) (s : State) :
    (s.updTake k f).take? j = if j = k then (s.take? k).map f else s.take? j := by
  unfold State.updTake
  split
  · rename_i t h
    split
    · subst_vars; rw [h]; exact mapGet_mapSet_same
    · exact mapGet_mapSet_ne ‹_›
  · rename_i h
    split
    · subst_vars; simp [h]
    · rfl

theorem moveContext_context (e : StationId) (x : Context) (q : StationId) :
    (moveContext e x s).context q = if e = q then x else s.context q := by
  unfold moveContext pin
  dsimp only
  split <;> split <;> simp [State.context_updContext_eq]

/-- The take that the context comes to gains a pin, the take that it leaves loses one, and nothing else of a take changes (R131). -/
theorem moveContext_take (e : StationId) (x : Context) (j : Nat) :
    (moveContext e x s).take? j = (s.take? j).map fun t =>
      { t with pins := t.pins + (if x.take = some j then 1 else 0) - (if (s.context e).take = some j then 1 else 0) } := by
  unfold moveContext pin
  dsimp only
  rcases hx : x.take with _ | k <;> rcases ho : (s.context e).take with _ | o <;> dsimp only
  · simp
  · rw [take_updTake]; split
    · subst_vars; simp [State.take?, State.updContext]
    · rename_i h; simp [State.take?, State.updContext, Ne.symm h]
  · change ((s.updTake k _).take? j) = _
    rw [take_updTake]; split
    · subst_vars; simp
    · rename_i h; simp [Ne.symm h]
  · rw [take_updTake]
    change (if j = o then ((s.updTake k _).take? o).map _ else ((s.updTake k _).take? j)) = _
    rw [take_updTake, take_updTake]
    by_cases h1 : j = o <;> by_cases h2 : j = k
    · subst h1; subst h2; simp only [if_true, Option.map_map]; congr 1
    · subst h1; simp [h2, Ne.symm h2]
    · subst h2; simp [h1, Ne.symm h1]
    · simp [h1, h2, Ne.symm h1, Ne.symm h2]

/-- A count after its test has changed at one item of the list. -/
theorem countP_update {α : Type} [DecidableEq α] (l : List α) (hd : l.Nodup) (e : α) (he : e ∈ l) (p p' : α → Bool)
    (h : ∀ q, q ≠ e → p' q = p q) : l.countP p' + (if p e then 1 else 0) = l.countP p + (if p' e then 1 else 0) := by
  induction l with
  | nil => cases he
  | cons a l ih =>
    have hn := List.nodup_cons.1 hd
    rw [List.countP_cons, List.countP_cons]
    by_cases ha : a = e
    · subst ha
      have : l.countP p' = l.countP p := List.countP_congr fun x hx => by rw [h x fun e => hn.1 (e ▸ hx)]
      omega
    · have := ih hn.2 ((List.mem_cons.1 he).resolve_left (Ne.symm ha))
      rw [h a ha]
      omega

/-- The readers of a take after the move: one more where the context comes, one fewer where it leaves (R130). -/
theorem moveContext_readers (e : StationId) (x : Context) (k : Nat) :
    (moveContext e x s).readers k + (if (s.context e).take = some k then 1 else 0) =
      s.readers k + (if x.take = some k then 1 else 0) := by
  have hc := countP_update allStations (List.nodup_finRange 32) e (List.mem_finRange e) (fun q => (s.context q).take == some k)
    (fun q => ((moveContext e x s).context q).take == some k) fun q hq => by
      simp only [moveContext_context]; rw [if_neg (Ne.symm hq)]
  simpa [moveContext_context, State.readers] using hc

end Sys2Proof.Machine
end

