-- ==== Sys2Proof/WellFormed.lean ====
section
/-! DEFINITION. Which commands are well formed: the operands a frame that passed R167 to R169 can give. -/

namespace Sys2Proof

/-- A node that may stand as the source of a taken frame (R168: source 0 and 255 are discarded). -/
def sourceWf (src : Byte) : Bool := src != 0 && src != 255

/-- An object of an AUDIO frame carries at most 255 samples (11.3: its sample count is one byte). -/
def AudioObject.wf : AudioObject → Bool
  | .whole _ samples => samples.length ≤ 255
  | .cutShort => true

/-- Once an object runs past the payload, so does every object counted after it (R199). -/
def audioObjectsWf : List AudioObject → Bool
  | [] => true
  | .whole c ss :: rest => (AudioObject.whole c ss).wf && audioObjectsWf rest
  | .cutShort :: rest => rest.all (· == .cutShort)

/-- A capture sync has a destination other than 0 (R168) and a payload of at most 1024 bytes (R167). -/
def SyncFrame.wf (f : SyncFrame) : Bool := f.dst != 0 && sourceWf f.src && f.rest.length ≤ 1022

/-- A mark's label holds at most the 255 characters its length byte can count (11.3). -/
def Mark.wf (m : Mark) : Bool := sourceWf m.src && m.label.length ≤ 255

/-- A control header names a source a sound frame may carry (R168). -/
def Ctl.wf (c : Ctl) : Bool := sourceWf c.src

/-- The checks of each command's operands. -/
def Instr.wf : Instr → Bool
  | .powerOnReset _ _ => true
  | .hardReset _ => true
  | .tickArrival => true
  | .frameArrival _ _ _ => true
  | .transmitFrame _ => true
  | .audioFrame _ src _ objects => sourceWf src && objects.length ≤ 255 && audioObjectsWf objects
  | .captureSync f _ => f.wf
  | .syncReturn f _ => f.wf
  | .syncLossExpiry => true
  | .localSync => true
  | .statusFrame => true
  | .offerExpiry _ => true
  | .leaseExpiry _ => true
  | .stallExpiry _ => true
  | .annotationMark _ m => m.wf
  | .goOffRecord m => m.wf
  | .goOnRecord m => m.wf
  | .sealRecord m => m.wf
  | .unsealRecord m => m.wf
  | .cutNow m => m.wf
  | .unknownCommand _ src payload => sourceWf src && payload.length ≤ 1024
  | .run c => c.wf
  | .halt c => c.wf
  | .sessionReset c => c.wf
  | .setCursor c _ _ => c.wf
  | .writeEntry c body => c.wf && body.length ≤ 1020
  | .readEntry c => c.wf
  | .setResponseMode c _ _ => c.wf
  | .readAlerts c => c.wf
  | .readCounters c => c.wf
  | .clearCounters c => c.wf
  | .openRoom c _ => c.wf
  | .closeRoom c _ => c.wf
  | .cutTake c _ => c.wf
  | .readTake c _ => c.wf
  | .readQueue c _ _ => c.wf
  | .moveTake c _ _ => c.wf
  | .readMarker c _ _ _ => c.wf
  | .releaseTake c _ => c.wf
  | .clearStore c => c.wf
  | .setClock c _ => c.wf
  | .readClock c => c.wf
  | .hello c _ => c.wf
  | .readPosition c => c.wf
  | .stop c => c.wf
  | .requestWork c => c.wf
  | .accept c => c.wf
  | .decline c => c.wf
  | .keep c => c.wf
  | .complete c => c.wf
  | .returnTake c => c.wf
  | .cue c _ => c.wf
  | .save c => c.wf
  | .play c => c.wf
  | .pause c => c.wf
  | .setNotice c _ => c.wf
  | .setMix c _ => c.wf
  | .addNote c _ label _ => c.wf && label.length ≤ 12
  | .listen c _ => c.wf
  | .requestArchive c => c.wf
  | .archived c => c.wf
  | .archiveFailed c => c.wf
  | .credit c _ => c.wf
  | .mainPowerLoss _ => true

end Sys2Proof
end

