-- ==== Sys2Proof/Tests/Slice0.lean ====
section
/-! SUPPORT. Tests: the operand checks, the spec's worked figures and cases, and for each statement with hypotheses a state and operands that meet
them. Expected figures come from the spec's tables, named in each docstring. -/

namespace Sys2Proof.Tests

open Sys2Proof Sys2Proof.Machine

set_option Elab.async false

/-! ## Well-formed operands -/

/-- A header whose source is `n`. -/
def from_ (n : Byte) : Ctl := ⟨.office, n, 7, none⟩

/-- A mark from a node. -/
def markFrom (n : Byte) : Mark := ⟨.capture, n, 5, 14, [65, 66]⟩

/-- A capture sync of a cycle number. -/
def syncOf (n : Word) : SyncFrame := ⟨255, 5, n, [0, 2], 0⟩

theorem test_wf_accepts :
    ([.run (from_ 10), .writeEntry (from_ 10) [1], .audioFrame .capture 30 5 [.whole 0 [1], .cutShort], .captureSync (syncOf 5) .roomsFirst,
      .cutNow (markFrom 30), .addNote (from_ 20) 1 [65] 0, .unknownCommand .office 20 [9]] : List Instr).all Instr.wf = true := by decide

theorem test_wf_refuses_control_source : (Instr.run (from_ 0)).wf = false ∧ (Instr.halt (from_ 255)).wf = false := by decide

theorem test_wf_refuses_mark : (Instr.cutNow (markFrom 255)).wf = false ∧
    (Instr.sealRecord { markFrom 30 with label := List.replicate 256 65 }).wf = false := by decide +kernel

theorem test_wf_refuses_audio : (Instr.audioFrame .capture 0 5 []).wf = false ∧
    (Instr.audioFrame .capture 30 5 (List.replicate 256 .cutShort)).wf = false ∧
    (Instr.audioFrame .capture 30 5 [.whole 0 (List.replicate 256 0)]).wf = false ∧
    (Instr.audioFrame .capture 30 5 [.cutShort, .whole 0 []]).wf = false := by decide +kernel

theorem test_wf_refuses_sync : (Instr.captureSync { syncOf 5 with dst := 0 } .roomsFirst).wf = false ∧
    (Instr.syncReturn { syncOf 5 with src := 0 } .roomsFirst).wf = false ∧
    (Instr.captureSync { syncOf 5 with rest := List.replicate 1023 0 } .roomsFirst).wf = false := by decide +kernel

theorem test_wf_refuses_fields : (Instr.writeEntry (from_ 10) (List.replicate 1021 0)).wf = false ∧
    (Instr.addNote (from_ 20) 1 (List.replicate 13 65) 0).wf = false ∧
    (Instr.unknownCommand .office 0 []).wf = false ∧ (Instr.unknownCommand .office 20 (List.replicate 1025 0)).wf = false := by decide +kernel

/-- The table gives no row any bits, so no word spells a command. -/
theorem test_no_word_spells_a_command : decodeTableWord 16 0x1234 = none := rfl

/-! ## Figures of the spec -/

/-- R167: over the nine bytes 49 to 57 the CRC is 10673. -/
theorem test_crc : (crcOf [49, 50, 51, 52, 53, 54, 55, 56, 57]).toNat = 10673 := by decide +kernel

/-- The table of R158. -/
theorem test_ticks : [1, 8, 20, 250, 65535].map ticksOfMs = [2, 9, 21, 256, 67108] ∧ [10, 30, 255].map ticksOfS = [10240, 30720, 261120] ∧
    [20, 255].map ticksOfMin = [1228800, 15667200] := by decide

/-- The table of R118, each duration at the four periods. -/
theorem test_cycles_of_durations : ([1, 2, 250, 1500, 2000, 5000, 30000, 32768].map fun ms : Int =>
      [2000, 2500, 4000, 5000].map fun p => cyclesOfMs p ms) =
    [[1, 0, 0, 0], [1, 1, 1, 0], [125, 100, 63, 50], [750, 600, 375, 300], [1000, 800, 500, 400], [2500, 2000, 1250, 1000],
      [15000, 12000, 7500, 6000], [16384, 13107, 8192, 6554]] := by decide

/-- A calendar at the last tick of a day. -/
def lastTick (year month day dow : Nat) : Calendar := ⟨year, month, day, 23, 59, 59, 1023, dow, .set, .none⟩

/-- The first tick of a day. -/
def firstTick (year month day dow : Nat) : Calendar := ⟨year, month, day, 0, 0, 0, 0, dow, .set, .none⟩

/-- The rollovers of 8.11. -/
theorem test_rollovers : (lastTick 2028 2 28 1).addTick = firstTick 2028 2 29 2 ∧ (lastTick 2030 2 28 4).addTick = firstTick 2030 3 1 5 ∧
    (lastTick 2031 4 30 3).addTick = firstTick 2031 5 1 4 ∧ (lastTick 2099 12 31 7).addTick = firstTick 2000 1 1 1 := by decide

/-- The mix table of R137, a row each; the sum of each row is formed from its samples and gains. -/
theorem test_mix : mixSample (20000 * 16 + 15000 * 16 + -1000 * 8) = 32767 ∧ mixSample (-7) = -1 ∧ mixSample (-1 * 8) = -1 ∧
    mixSample (1 * 8) = 0 ∧ mixSample (-32768 * 16 * 6) = -32768 ∧ mixSample (1200 * 4 + -300 * 12) = 75 := by decide

/-- The last row of R137's table through the mono granule: tracks at 1200 and -300, gains 4 and 12. -/
theorem test_mono_granule :
    monoGranule ⟨.mono, 3, #v[4, 12, 16, 16, 16, 16]⟩ 2 1 [[1200], [BitVec.ofInt 16 (-300)]] = [75] := by decide

/-- R173's table, and its examples: 5005 after 5002, 0 after 65535. -/
theorem test_skipped_counts : skippedCount none 9 = 0 ∧ skippedCount (some 5002) 5005 = 2 ∧ skippedCount (some 65535) 0 = 0 ∧
    skippedCount (some 0) 32768 = 32767 ∧ skippedCount (some 0) 32769 = 0 ∧ renumbered (some 7) 7 = true ∧
    renumbered (some 65535) 0 = false ∧ renumbered (some 0) 32768 = false ∧ renumbered (some 0) 32769 = true := by decide

/-- 3.6: the issue counter passes over live numbers, and 65535 is followed by 1. -/
theorem test_take_numbers_wrap : nextNumber 65535 = 1 ∧ nextNumber 1 = 2 := by decide

/-! ## A small office -/

/-- A clock that has been set. -/
def setClock : Calendar := { lostCalendar with validity := .set, outage := .none }

/-- A device in CONFIG with its clock set and four pages. -/
def bench : State := { State.afterReset ⟨200, 10, 0⟩ setClock [] with store := { resetStore 4 with pageReserve := 0 } }

/-- A station-table entry with a node and class, IDLE. -/
def stationAt (node : Byte) (cls : StationClass) : Station :=
  { freshStation { defaultStationConfig with node := node, cls := cls, clearance := cls == .archive } with state := .idle }

/-- The bench in RUN: TYPIST node 20 at entry 0, READBACK 21 at 1, ARCHIVE 22 at 2, and room 0's console 30. -/
def office : State :=
  (((({ bench with mgmt := { bench.mgmt with op := .run } }.updStation 0 fun _ => stationAt 20 .typist).updStation 1 fun _ =>
    stationAt 21 .readback).updStation 2 fun _ => stationAt 22 .archive).updRoom 0 fun x => { x with config := { x.config with console := 30 } })

/-- An OPEN take of room 0 with a cell count, its chain left out. -/
def openTape (cells : Nat) : Take := { openedTake 7 0 defaultRoomConfig .us4000 setClock.stamp with cells := cells }

/-- A CLOSED take with a cell count. -/
def tape (cells : Nat) : Take :=
  { openTape cells with
    lifecycle := .closed, endStamp := some setClock.stamp, cause := some .console, transcription := some .pending, archive := some .unarchived }

/-- The office with room 0 recording the open take of slot 3. -/
def recording (cells : Nat) : State :=
  (office.setTake 3 (openTape cells)).updRoom 0 fun x => { x with state := .onRecord, openTake := some 3 }

/-- The office with the closed take of slot 3 PENDING in pool 1 and in the archive queue. -/
def pendingWork : State := ((office.setTake 3 (tape 5)).updPool 1 fun _ => [3]).updArchive fun _ => [3]

/-- A station with a take in slot 3 and a timer. -/
def withWork (e : StationId) (st : StationState) (k : TimerKind) (ticks : Nat) (s : State) : State :=
  s.updStation e fun x => { x with state := st, take := some 3, timer := some ⟨k, ticks⟩ }

/-- A context attached to slot 3 at a position. -/
def attachedAt (e : StationId) (st : ContextState) (p : Nat) (s : State) : State :=
  s.updContext e fun x => { x with state := st, take := some 3, position := some p, located := some .atEnd }

theorem test_office_senders : office.sender 10 = .manager ∧ office.sender 20 = .station 0 ∧ office.sender 21 = .station 1 ∧
    office.sender 22 = .station 2 ∧ office.sender 30 = .console ∧ office.sender 99 = .unknown := by decide

/-! ## The worked cases of 6.9 -/

/-- Take 417 of 6.9. -/
def take417 : Take :=
  { tape 868 with
    number := 417
    markers := [(MarkerKind.speaker, 120), (.objection, 400), (.speaker, 610), (.sealBegin, 700), (.sealEnd, 760)].zipIdx.map fun x =>
      { plainMarker x.1.1 x.1.2 setClock.stamp 30 with number := x.2 + 1 }
    nextMarker := 6, sealed := true }

/-- Take 433 of 6.9, case 5. -/
def take433 : Take :=
  { tape 900 with
    markers := [(MarkerKind.sealBegin, 700), (.sealEnd, 760), (.sealBegin, 760), (.sealEnd, 800)].zipIdx.map fun x =>
      { plainMarker x.1.1 x.1.2 setClock.stamp 30 with number := x.2 + 1 } }

/-- A context PAUSED at a position. -/
def pausedAt (p : Nat) : Context := { stoppedContext defaultMix with state := .paused, take := some 3, position := some p, located := some .atEnd }

/-- The position and flags that a CUE from a station without clearance comes to. -/
def cueResult (t : Take) (period : CyclePeriod) (c : Context) (q : CueRequest) : Option (Nat × CueFlags) :=
  (cueBase t c true q).map fun b => let z := resolveCue t false period b q; (z.position, z.flags)

/-- Case 1. -/
theorem test_cue_case1 : cueResult take417 .us4000 (pausedAt 650) ⟨.current, 0, -1, some .speaker, -1500⟩ = some (235, noFlags) := by decide

/-- Case 2. -/
theorem test_cue_case2 :
    cueResult take417 .us2500 (pausedAt 0) ⟨.marker, 2, 0, none, 750⟩ = some (760, { noFlags with sealedSkip := true }) := by decide

/-- Cases 3 and 4. -/
theorem test_cue_cases3_4 :
    cueResult take417 .us4000 (pausedAt 650) ⟨.current, 0, 3, some .speaker, 2000⟩ =
      some (868, { noFlags with short := true, clamped := true }) ∧
    cueResult take417 .us4000 (pausedAt 650) ⟨.marker, 1, 1, none, -4000⟩ = some (0, { noFlags with clamped := true }) := by decide

/-- Case 5, its three rows. -/
theorem test_cue_case5 :
    cueResult take433 .us4000 (pausedAt 0) ⟨.takeStart, 0, 0, none, 2880⟩ = some (800, { noFlags with sealedSkip := true }) ∧
    cueResult take433 .us4000 (pausedAt 0) ⟨.marker, 3, 0, none, -20⟩ = some (700, { noFlags with sealedSkip := true }) ∧
    cueResult take433 .us4000 (pausedAt 0) ⟨.marker, 3, 0, none, 80⟩ = some (800, { noFlags with sealedSkip := true }) := by decide

/-- Case 8: the step back from 770 by 250 ms. -/
theorem test_step_back_case8 : (let z := resolveFrom take417 false .backward .us4000 770 (-250) false; (z.position, z.flags)) =
    (700, { noFlags with sealedSkip := true }) := by decide

/-! ## Markers (4.10) -/

/-- The ring of 4.10, as far as its table gives it. -/
def ring410 : List RingEntry :=
  [⟨7146, some 88, some 2250, setClock.stamp⟩, ⟨7196, some 88, some 2300, setClock.stamp⟩, ⟨7197, some 88, none, setClock.stamp⟩,
    ⟨7198, some 88, some 2301, setClock.stamp⟩, ⟨7199, some 90, some 0, setClock.stamp⟩]

/-- The five marks of 4.10: Recorded, Recorded with NONE, Ahead, Behind, Current. -/
theorem test_mark_cases :
    (classify (some 7210) ring410 7212 = .live ∧ classify (some 7210) ring410 7100 = .behind ∧ classify (some 7210) ring410 7210 = .live) ∧
    (match classify (some 7210) ring410 7196 with
      | .recorded x newer => governedPosition x newer 88 2302 == 2300
      | _ => false) = true ∧
    (match classify (some 7210) ring410 7197 with
      | .recorded x newer => governedPosition x newer 88 2302 == 2301
      | _ => false) = true := by decide

/-! ## Commands in the small office -/

/-- The state that an outcome answers, or another. -/
def after (o : Host.Outcome State Fault Refusal) (s : State) : State :=
  match o with
  | .next t => t
  | _ => s

/-- Result code of the last frame in the Office Port's originate list (11.4: code, tag, result). -/
def lastResult (s : State) : Option Byte := s.link.officePort.originate.getLast?.bind fun q => q.frame[9]?

/-- State.reset is what POWER_ON_RESET leaves with log 1's straps and the backup lost. -/
theorem test_reset_is_power_on : exec (.powerOnReset resetStraps false) State.reset = .next State.reset := rfl

/-- R188: RUN is accepted in CONFIG and refused WRONG_STATE (4) in RUN. -/
theorem test_run : (after (exec (.run (from_ 10)) bench) bench).mgmt.op = .run ∧
    lastResult (after (exec (.run (from_ 10)) office) office) = some 4 := by decide +kernel

/-- R3, R44: the first take of a room takes slot 0 and number 1. -/
theorem test_open_room : ((after (exec (.openRoom (from_ 10) 0) office) office).take? 0).map Take.number = some 1 ∧
    ((after (exec (.openRoom (from_ 10) 0) office) office).room 0).openTake = some 0 := by decide +kernel

/-- R93, R95: the pending take is offered and leaves its pool. -/
theorem test_request_work : ((after (exec (.requestWork (from_ 20)) pendingWork) office).station 0).state = .offered ∧
    (after (exec (.requestWork (from_ 20)) pendingWork) office).pool 1 = [] := by decide +kernel

/-- R88: a READBACK station may not send REQUEST_WORK (NOT_PERMITTED, 1). -/
theorem test_wrong_class : lastResult (after (exec (.requestWork (from_ 21)) pendingWork) office) = some 1 := by decide +kernel

/-- R55: a take cut with no cell is discarded, and its number is not used again at once. -/
theorem test_cut_of_an_empty_take : ((after (exec (.cutNow (markFrom 30)) (recording 0)) office).take? 3) = none ∧
    (after (exec (.cutNow (markFrom 30)) (recording 0)) office).takeTable.counters.emptyTakes = 1 := by decide +kernel

/-- R20, R70: SEAL places SEAL_BEGIN at the cell count. -/
theorem test_seal : ((after (exec (.sealRecord (markFrom 30)) (recording 1022)) office).take? 3).map (fun t =>
    t.markers.map fun m => (m.kind, m.position, m.number)) = some [(.sealBegin, 1022, 1)] := by decide +kernel

/-- R174, R175: the loss of timing makes the source LOCAL, and local syncs begin at 0 where no number came before (09, R180's note). -/
theorem test_sync_loss :
    (let t := after (exec .syncLossExpiry { office with link := { office.link with lossTimer := some 0 } }) office
     (t.link.source, t.link.officeCycle)) = (.localSource, some 0) := by decide +kernel

/-- R167: a frame with one bit of its CRC wrong is counted; the sound frame is taken. -/
theorem test_crc_errors :
    (after (exec (.frameArrival .office [200, 10, 4, 0, 4, 0, 1, 0, 9, 0, 0] .roomsFirst) bench) office).link.officePort.counters.crcErrors = 1 ∧
    (after (exec (.frameArrival .office (mkFrame 200 10 kindControl [0, 1, 0, 9]) .roomsFirst) bench) office).mgmt.op = .run := by
  decide +kernel

/-- R143, over the touching spans of 6.9's take 433: passing from 720 to 800 moves beyond the notice point 760, and the notice is sent. -/
theorem test_notice_between_touching_spans :
    (let s := ((office.setTake 3 take433).updContext 0 fun x =>
        { x with state := .playing, take := some 3, position := some 720, notice := some 760 });
      let u := (passSealed (take433.spans.length + 1) 0 3 take433 s).1;
      ((u.context 0).position, (u.context 0).notice, u.link.officePort.originate.length)) = (some 800, none, 1) := by decide +kernel

/-- R181, R189, R191: in ON_SYNC the response of a refused HALT (in CONFIG, WRONG_STATE) is held behind the one held before it, and that of an
accepted HALT (OK, 0) leaves at once, after the one held. -/
theorem test_halt_keeps_the_order :
    let s := bench.updPort .office fun q => { q with mode := .onSync, held := [[7]], originate := [] }
    (let u := after (exec (.halt (from_ 10)) s) s;
      u.link.officePort.held.length = 2 ∧ u.link.officePort.held.head? = some [7] ∧ u.link.officePort.originate = []) ∧
    (let s := { s with mgmt := { s.mgmt with op := .run } };
      let u := after (exec (.halt (from_ 10)) s) s;
      u.link.officePort.held = [] ∧ (u.link.officePort.originate.map Queued.frame).head? = some [7] ∧
        u.link.officePort.originate.length = 2 ∧ lastResult u = some 0) := by decide +kernel

/-- R55, R190: SESSION_RESET answers the number of rooms closed, and then a take that it discarded (number 7) with the flag 1; one that held
cells is not among them. -/
theorem test_session_reset_names_discarded :
    let fields (s : State) : Option (List Byte) :=
      (after (exec (.sessionReset (from_ 10)) s) s).link.officePort.originate.getLast?.map fun q => (q.frame.drop 10).dropLast.dropLast
    fields (recording 0) = some [1, 0, 7, 1] ∧ fields (recording 5) = some [1] := by decide +kernel

/-! ## The statements' hypotheses are met -/

theorem test_step_witness : ({ bench with pending := [.tickArrival] } : State).pending = .tickArrival :: [] ∧ bench.pending = [] := by decide

/-- The office with one port's item changed. -/
def officePort (f : PortState → PortState) (s : State) : State := s.updPort .office f

theorem test_responses_witness :
    ((office.port .office).mode = .immediate ∧ (office.port .office).originate.length < 512) ∧
    (((officePort (fun q => { q with mode := .onSync, held := List.replicate 15 [] }) office).port .office).mode = .onSync ∧
      ((officePort (fun q => { q with mode := .onSync, held := List.replicate 15 [] }) office).port .office).held.length < 16 ∧
      ((CommandName.halt = .halt ∨ CommandName.halt = .sessionReset) → Result.wrongState ≠ .ok)) ∧
    (((officePort (fun q => { q with mode := .onSync, held := List.replicate 16 [] }) office).port .office).mode = .onSync ∧
      16 ≤ ((officePort (fun q => { q with mode := .onSync, held := List.replicate 16 [] }) office).port .office).held.length ∧
      ((officePort (fun q => { q with mode := .onSync, held := List.replicate 16 [] }) office).port .office).originate.length < 512) := by
  decide +kernel

/-- An originate list of 512 frames. -/
theorem test_full_list_witness : let s := officePort (fun q => { q with originate := List.replicate 512 ⟨0, []⟩ }) office;
    (s.port .office).mode = .immediate ∧ 512 ≤ (s.port .office).originate.length := by decide +kernel

theorem test_handled_witness : office.sender (from_ 20).src = .station 0 ∧ office.findManager (from_ 10).src = some 0 := by decide +kernel

theorem test_sources_witness :
    (control? (.run (from_ 99)) = some (from_ 99, .run) ∧ office.power = .on ∧ office.sender (from_ 99).src = .unknown) ∧
    (CommandName.run.managerOnly = true ∧ office.sender (from_ 20).src ≠ .unknown ∧ office.sender (from_ 20).src ≠ .manager) ∧
    (control? (.writeEntry (from_ 20) [1]) = some (from_ 20, .writeEntry) ∧ office.entryShort (from_ 20).port [1] = false) := by decide +kernel

theorem test_station_checks_witness :
    (control? (.play (from_ 20)) = some (from_ 20, .play) ∧ CommandName.play.managerOnly = false ∧ office.power = .on) ∧
    (bench.mgmt.op = .config ∧ bench.sender 10 ≠ .unknown) ∧
    (office.mgmt.op = .run ∧ office.sender 22 = .station 2 ∧ CommandName.play.permits (office.station 2).config.cls = false) ∧
    (let s := office.updStation 0 fun x => { x with state := .offline };
      s.mgmt.op = .run ∧ s.sender 20 = .station 0 ∧ CommandName.play.permits (s.station 0).config.cls = true ∧
        (s.station 0).state = .offline) := by decide +kernel

/-- Payloads: one byte, an unknown command, a CREDIT one byte short. -/
theorem test_faulty_control_witness : controlFault [1] = some .unknownCommand ∧ controlFault [0, 43, 0, 9] = some .unknownCommand ∧
    controlFault [0, 42, 0, 9, 1] = some .badParameter ∧ office.power = .on ∧ office.sender 20 ≠ .unknown ∧ office.sender 99 = .unknown ∧
    controlFault [0, 1, 0, 9] = none := by decide +kernel

theorem test_operating_states_witness : (FromManager (from_ 10) bench ∧ bench.mgmt.op = .config) ∧
    (FromManager (from_ 10) office ∧ office.mgmt.op = .run ∧ (∀ r : RoomId, (office.room r).state = .closed)) ∧
    office.closeAllNeeds ≤ office.markerPool.free ∧ ContextsCoherent office := by
  unfold ContextsCoherent; decide +kernel

/-- HALT with a room open, and SESSION_RESET with one marker entry fewer than a sealed room's close needs. -/
theorem test_refused_ends_witness : (FromManager (from_ 10) (recording 5) ∧ ∃ r : RoomId, ((recording 5).room r).state ≠ .closed) ∧
    (let s := (recording 5).updRoom 0 fun x => { x with sealed := true };
      let s := { s with markerPool := { s.markerPool with free := 0 } };
      FromManager (from_ 10) s ∧ s.mgmt.op = .run ∧ s.markerPool.free < s.closeAllNeeds) := by decide +kernel

/-- A port's cursor at the last entry of a table. -/
def withCursor (t : TableName) (i : Nat) (s : State) : State := setCursor .office ⟨t, i⟩ s

theorem test_cursor_witness : (FromManager (from_ 10) office ∧ tableOfCode 0 = some .ingestMap ∧ (63 : Word).toNat < TableName.ingestMap.size) ∧
    (FromManager (from_ 10) (withCursor .stationTable 31 office) ∧
      ((withCursor .stationTable 31 office).port .office).cursor = some ⟨.stationTable, 31⟩ ∧ 31 < TableName.stationTable.size) := by
  decide +kernel

/-- A write accepted, one whose entry the table refuses, and each of the four other refusals. -/
theorem test_write_entry_witness :
    (FromManager (from_ 10) office ∧ office.entryZeroOverride (from_ 10) [1] = false ∧ (office.port .office).cursor = none) ∧
    (let s := withCursor .managerList 3 office;
      (s.port .office).cursor = some ⟨.managerList, 3⟩ ∧ s.entryZeroOverride (from_ 10) [11] = false ∧
        TableName.managerList.entryLength ≤ [11].length ∧
        (match writeTable .managerList 3 [11] (handled (from_ 10) .writeEntry s) with
          | .ok _ => true
          | .error _ => false) = true ∧
        (match writeTable .managerList 3 [255] (handled (from_ 10) .writeEntry s) with
          | .ok _ => false
          | .error r => r == .badParameter) = true) ∧
    (let s := withCursor .managerList 4 office;
      (s.port .office).cursor = some ⟨.managerList, 4⟩ ∧ TableName.managerList.size ≤ 4) ∧
    (let s := withCursor .roomConfig 0 (recording 5);
      FromManager (from_ 10) s ∧ (s.port .office).cursor = some ⟨.roomConfig, (0 : RoomId).val⟩ ∧ (s.room 0).state ≠ .closed ∧
        s.entryZeroOverride (from_ 10) (List.replicate 8 0) = false ∧ TableName.roomConfig.entryLength ≤ (List.replicate 8 (0 : Byte)).length) ∧
    (let s := withCursor .stationTable 0 office;
      (s.port .office).cursor = some ⟨.stationTable, (0 : StationId).val⟩ ∧ (s.station 0).state ≠ .offline ∧
        s.entryZeroOverride (from_ 10) (List.replicate 16 0) = false ∧
        TableName.stationTable.entryLength ≤ (List.replicate 16 (0 : Byte)).length) ∧
    (let s := withCursor .linkProfile 0 office;
      (s.port .office).cursor = some ⟨.linkProfile, 0⟩ ∧ s.mgmt.op = .run ∧ s.entryZeroOverride (from_ 10) [2, 0] = false ∧
        TableName.linkProfile.entryLength ≤ [2, 0].length) := by
  decide +kernel

/-- A room entry one byte short, from the manager and from a typist. -/
theorem test_short_entry_witness : ∀ n ∈ [(10 : Byte), 20], let s := withCursor .roomConfig 0 office;
    s.power = .on ∧ s.sender (from_ n).src ≠ .unknown ∧ (s.port (from_ n).port).cursor = some ⟨.roomConfig, 0⟩ ∧
      (List.replicate 7 (0 : Byte)).length < TableName.roomConfig.entryLength := by decide +kernel

/-- R183, log 15: that entry is refused BAD_PARAMETER (3), whoever sends it. -/
theorem test_short_entry : ([10, 20].map fun n : Byte => let s := withCursor .roomConfig 0 office;
    lastResult (after (exec (.writeEntry (from_ n) (List.replicate 7 0)) s) s)) = [some 3, some 3] := by decide +kernel

theorem test_management_reads_witness : FromManager (from_ 10) office ∧ portOfCode 1 = some .office ∧
    responseModeOfCode 0 = some .immediate ∧ responseModeOfCode 1 = some .onSync ∧
    (let s := officePort (fun q => { q with mode := .onSync, held := [[1], [2]] }) office;
      FromManager (from_ 10) s ∧ (s.port .office).originate.length + (s.port .office).held.length ≤ 512) := by decide +kernel

theorem test_rooms_witness :
    (FromManager (from_ 10) office ∧ roomOfByte 15 = some 15 ∧ office.mgmt.op = .run ∧ (office.room 15).state = .closed ∧
      office.lowestFreeSlot = some 0) ∧
    (let s := recording 5;
      FromManager (from_ 10) s ∧ roomOfByte 0 = some 0 ∧ (s.room 0).state ≠ .closed ∧ (s.room 0).openTake = some 3 ∧
        s.take? 3 = some (openTape 5) ∧ (s.room 0).closeNeeds ≤ s.markerPool.free) := by decide +kernel

/-- A take with cells and one without. -/
theorem test_cuts_witness : ∀ n ∈ [0, 5], let s := recording n;
    s.power = .on ∧ (s.room 0).state ≠ .closed ∧ (s.room 0).deferred = none ∧ (s.room 0).openTake = some 3 ∧
      s.take? 3 = some (openTape n) ∧ s.lowestFreeSlot = some 0 ∧ FromManager (from_ 10) s ∧ roomOfByte 0 = some 0 ∧ s.mgmt.op = .run ∧
      (s.room 0).cutNeeds .manager ≤ s.markerPool.free ∧ FromConsole (markFrom 30) 0 s ∧
      (s.room 0).cutNeeds .console ≤ s.markerPool.free := by decide +kernel

/-- The recording office with the typist waiting, eligible for the take of room 0, or with none waiting. -/
theorem test_queues_witness : (recording 5).firstWaiting (openTape 5) = none ∧
    ((((recording 5).updStation 0 fun x => { x with state := .waiting }).updWait fun _ => [0]).firstWaiting (openTape 5) = some 0) := by
  decide +kernel

/-- R56, R94: a closed take joins the archive queue and its pool behind the take there, or goes to the station that waits. -/
theorem test_closed_take_enters_queues : ([[], [(0 : StationId)]].map fun w =>
      let s := (((recording 5).updPool 1 fun _ => [9]).updArchive fun _ => [9]).updWait fun _ => w;
      let u := (requestCut 0 .manager 10 s).1;
      (u.pool 1, u.handOff.archive, (u.take? 3).bind Take.transcription, (u.station 0).take)) =
    [([9, 3], [9, 3], some .pending, none), ([9], [9, 3], some .offered, some 3)] := by decide +kernel

/-- A sealed room, and one off the record, with the two entries that a cut by LENGTH and by DEFERRED needs beside the end marker. -/
theorem test_cut_causes_witness : ∀ x ∈ [(RoomState.onRecord, true), (.offRecord, false)], ∀ n ∈ [0, 5],
    let s := (({ recording n with markerPool := { free := 3 } } : State).updRoom 0 fun y => { y with state := x.1, sealed := x.2 });
    s.power = .on ∧ (s.room 0).state ≠ .closed ∧ (s.room 0).deferred = none ∧ (s.room 0).openTake = some 3 ∧
      s.take? 3 = some (openTape n) ∧ s.lowestFreeSlot = some 0 ∧ (s.room 0).cutNeeds .length ≤ s.markerPool.free ∧
      (s.room 0).cutNeeds .deferred ≤ s.markerPool.free := by decide +kernel

theorem test_cut_now_witness : (let s := recording 5
      FromConsole (markFrom 30) 0 s ∧ (s.room 0).state ≠ .closed) ∧
    (let s := (recording 5).updRoom 0 fun x => { x with deferred := some .length };
      FromConsole (markFrom 30) 0 s ∧ (s.room 0).state ≠ .closed ∧ (s.room 0).deferred ≠ none) := by decide +kernel

/-- The office recording with every take slot in use. -/
def fullTable : State := { recording 5 with takeTable := { (recording 5).takeTable with takes := (List.range 1024).map fun k => (k, openTape 5) } }

theorem firstUnlisted_none {m : SMap Take} (n k : Nat) (h : ∀ j, k ≤ j → j < k + n → j ∈ mapKeys m) : firstUnlisted m n k = none := by
  induction n generalizing k with
  | zero => rfl
  | succ n ih =>
    have hk : mapGet k m ≠ none := fun hn => mapGet_eq_none_iff.1 hn (h k (le_refl k) (by omega))
    rw [firstUnlisted, if_pos (Option.isSome_iff_ne_none.2 hk)]
    exact ih _ fun j h1 h2 => h j (by omega) (by omega)

theorem test_deferred_cut_witness : FromConsole (markFrom 30) 0 fullTable ∧ (fullTable.room 0).state ≠ .closed ∧
    (fullTable.room 0).deferred = none ∧ (fullTable.room 0).openTake = some 3 ∧ fullTable.lowestFreeSlot = none :=
  ⟨by decide +kernel, by decide +kernel, by decide +kernel, by decide +kernel,
    firstUnlisted_none _ _ fun j _ h => by simpa [fullTable, mapKeys, Config.takeSlots] using h⟩

/-- CUT_TAKE in a sealed room with one entry free, and with a deferred cut already there. -/
theorem test_cut_take_deferred_witness : ∀ x ∈ [(none : Option CutCause), some .schedule],
    let s := { (recording 5).updRoom 0 fun y => { y with sealed := true, deferred := x } with markerPool := { free := 1 } };
    FromManager (from_ 10) s ∧ roomOfByte 0 = some 0 ∧ s.mgmt.op = .run ∧ (s.room 0).state ≠ .closed ∧ (s.room 0).openTake = some 3 ∧
      s.take? 3 = some (openTape 5) ∧ (s.room 0).deferred = x ∧ s.markerPool.free < (s.room 0).cutNeeds .manager := by decide +kernel

/-- R60: the DEFERRED outcome (1) of take 7 with the kept cause MANAGER (3) and NO_MARKERS (1), and absorbed with SCHEDULE (0) and no reason. -/
theorem test_cut_take_deferred : ([(none : Option CutCause), some .schedule].map fun x =>
      let s := { (recording 5).updRoom 0 fun y => { y with sealed := true, deferred := x } with markerPool := { free := 1 } };
      (after (exec (.cutTake (from_ 10) 0) s) s).link.officePort.originate.getLast?.map fun q => (q.frame.drop 10).take 5) =
    [some [1, 0, 7, 3, 1], some [1, 0, 7, 0, 255]] := by decide +kernel

/-- A take of slot 3 with one marker. -/
def markedTape : Take := (tape 5).withMarker (plainMarker .speaker 2 setClock.stamp 30)

theorem test_take_reads_witness :
    (FromManager (from_ 10) pendingWork ∧ pendingWork.namedTake 7 = .ok (3, tape 5)) ∧
    (pendingWork.queueEntries 6 = some [] ∧ pendingWork.queueEntries 1 = some [[0, 7]] ∧ (1023 : Word).toNat ≤ 1023) ∧
    (let s := office.setTake 3 markedTape;
      s.namedTake 7 = .ok (3, markedTape) ∧ boolOfCode 0 = some false ∧ boolOfCode 1 = some true ∧
        (selectMarker markedTape.markers false 1).isSome = true ∧ (selectMarker markedTape.markers true 0).isSome = true) := by
  decide +kernel

/-- A take that is RETAINED. -/
def retainedTape : Take := { tape 5 with lifecycle := .retained, transcription := some .typed, archive := some .archived }

theorem test_take_commands_witness :
    (FromManager (from_ 10) pendingWork ∧ poolOfByte 1 = some 1 ∧ poolOfByte 3 = some 3 ∧ pendingWork.namedTake 7 = .ok (3, tape 5) ∧
      pendingWork.take? 3 = some (tape 5) ∧ (tape 5).transcription = some .pending ∧ pendingWork.handOff.wait = []) ∧
    (let s := office.setTake 3 retainedTape;
      FromManager (from_ 10) s ∧ s.namedTake 7 = .ok (3, retainedTape) ∧ s.take? 3 = some retainedTape ∧
        retainedTape.lifecycle = .retained ∧ retainedTape.pins = 0) ∧
    (let s := { bench.setTake 3 retainedTape with store := { bench.store with retention := [3] } };
      FromManager (from_ 10) s ∧ s.mgmt.op = .config ∧ s.someUnarchived = false ∧ s.clearable = [3] ∧ s.clearable.Nodup) ∧
    (let s := (pendingWork.updStation 0 fun x => { x with state := .waiting }).updWait fun _ => [0];
      FromManager (from_ 10) s ∧ s.namedTake 7 = .ok (3, tape 5) ∧ s.take? 3 = some (tape 5) ∧
        s.firstWaiting { tape 5 with pool := 1 } = some 0) := by decide +kernel

/-- One page too few free, with a RETAINED take to reclaim and an unarchived one to keep; and both reserves met. -/
theorem test_reserve_witness :
    (let s := { (bench.setTake 3 retainedTape).setTake 4 (tape 1) with store := { bench.store with retention := [3], pageReserve := 5 } };
      s.reserveUnmet = true ∧ s.store.retention.Nodup ∧ s.clearable = [3] ∧ s.take? 4 = some (tape 1) ∧ (tape 1).reclaimable = false) ∧
    bench.reserveUnmet = false := by decide +kernel

theorem test_clock_commands_witness :
    FromManager (from_ 10) office ∧ clockFieldsValid ⟨28, 2, 29, 23, 59, 59, 7⟩ = true ∧ clockFieldsValid ⟨27, 2, 29, 0, 0, 0, 1⟩ = false ∧
    office.power = .on ∧ office.sender (from_ 30).src ≠ .unknown ∧ (from_ 30).ovr ≠ some 0 := by decide +kernel

theorem test_tick_witness : (office.power = .on ∧ office.clock.tick ≠ 1023) ∧ ({ office with power := .backup } : State).power = .backup ∧
    ({ office with power := .dead } : State).power = .dead := by decide +kernel

/-- The recording room named by a schedule entry for the first second of 2000-01-02, with 255 cells (short) and with 256. -/
theorem test_schedule_witness : ({ office with clock := { office.clock with tick := 1023, validity := .unset } } : State).clock.tick = 1023 ∧
    ∀ n ∈ [255, 256], let s := { recording n with
        clock := lastTick 2000 1 1 1, schedule := (recording n).schedule.set 0 ⟨some 0, none, 0, 1⟩ };
      s.clock.tick = 1023 ∧ s.clock.validity = .set ∧ s.power = .on ∧
        (∀ q : RoomId, (s.schedule.toList.any fun x => x.matches s.clock.addTick && x.mask.getLsbD q.val) = decide (q = 0)) ∧
        (s.room 0).state = .onRecord ∧ (s.room 0).openTake = some 3 ∧ s.take? 3 = some (openTape n) ∧
        (s.room 0).config.minCells = 256 := by decide +kernel

/-- At a second update: a clock not set, no entry that matches, and the one matched room OFF_RECORD and CLOSED. -/
theorem test_second_update_witness :
    (let s := { office with clock := { lastTick 2000 1 1 1 with validity := .unset } };
      s.power = .on ∧ s.clock.tick = 1023 ∧ s.clock.validity = .unset) ∧
    (let s := { office with clock := lastTick 2000 1 1 1 };
      s.clock.validity = .set ∧ ∀ q : RoomId, ∀ x ∈ s.schedule.toList, x.matches s.clock.addTick = true → x.mask.getLsbD q.val = false) ∧
    (∀ st ∈ [RoomState.offRecord, .closed], let s := { (office.updRoom 0 fun x => { x with state := st }) with
        clock := lastTick 2000 1 1 1, schedule := office.schedule.set 0 ⟨some 0, none, 0, 1⟩ };
      (∀ q : RoomId, (s.schedule.toList.any fun x => x.matches s.clock.addTick && x.mask.getLsbD q.val) = decide (q = 0)) ∧
        (s.room 0).state = st) := by decide +kernel

theorem test_calendar_witness : (lastTick 2028 2 28 1).legal ∧ (lastTick 2099 12 31 7).legal := by decide

theorem test_power_witness : (office.power ≠ .dead ∧ office.clock.validity = .set) ∧ office.power = .on ∧
    (({ office with power := .dead } : State).power ≠ .on ∧ worksUnpowered (.run (from_ 10)) = false) ∧
    (let s := { office with clock := { office.clock with validity := .unset } };
      s.power = .on ∧ s.power ≠ .dead ∧ s.clock.validity = .unset) := by decide +kernel

/-- R154: an UNSET clock whose backup held counts on, with outage HELD, and CLOCK_UNSET is latched and sent to the bootstrap manager. -/
theorem test_unset_clock_at_power_on :
    (let s := { office with power := .backup, clock := { lastTick 2031 4 30 3 with validity := .unset, outage := .lost } };
      let u := after (exec (.powerOnReset resetStraps true) s) s;
      ((u.clock.year, u.clock.validity, u.clock.outage), u.latched .clockUnset, u.link.officePort.originate.length)) =
    ((2031, .unset, .held), true, 1) := by decide +kernel

/-- HELLO while WAITING, ARCHIVING, OFFERED and HOLDING. -/
theorem test_hello_witness : (let s := (office.updStation 0 fun x => { x with state := .waiting }).updWait fun _ => [0]
      s.power = .on ∧ s.sender (from_ 20).src = .station 0 ∧ (from_ 20).ovr ≠ some 0 ∧ boolOfCode 0 = some false ∧ boolOfCode 1 = some true ∧
        (s.station 0).state = .waiting) ∧
    (let s := withWork 2 .archiving .stall 5 pendingWork;
      s.power = .on ∧ s.sender (from_ 22).src = .station 2 ∧ (s.station 2).state = .archiving ∧ (s.station 2).take = some 3 ∧
        s.take? 3 = some (tape 5) ∧ (tape 5).lifecycle = .closed) ∧
    (∀ x ∈ [(StationState.offered, TimerKind.offer), (.holding, .lease)], let s := withWork 0 x.1 x.2 5 pendingWork;
      s.power = .on ∧ s.sender (from_ 20).src = .station 0 ∧ (s.station 0).state = x.1 ∧ (s.station 0).take = some 3 ∧
        s.take? 3 = some (tape 5) ∧ s.handOff.wait = []) := by decide +kernel

theorem test_work_witness :
    (FromStation (from_ 20) .requestWork 0 pendingWork ∧ (pendingWork.station 0).state = .idle ∧
      pendingWork.searchWork (pendingWork.station 0) = some 3 ∧ pendingWork.take? 3 = some (tape 5)) ∧
    (FromStation (from_ 20) .requestWork 0 office ∧ (office.station 0).state = .idle ∧ office.searchWork (office.station 0) = none) ∧
    (let s := withWork 0 .offered .offer 5 pendingWork;
      FromStationPlain (from_ 20) .accept 0 s ∧ (s.station 0).state = .offered ∧ (s.station 0).take = some 3 ∧ s.take? 3 = some (tape 5)) := by
  decide +kernel

theorem test_hold_ends_witness :
    (let s := withWork 0 .offered .offer 5 pendingWork;
      (s.station 0).take = some 3 ∧ s.take? 3 = some (tape 5) ∧ (tape 5).lifecycle = .closed ∧ s.handOff.wait = [] ∧
        FromStation (from_ 20) .decline 0 s ∧ (s.station 0).state = .offered) ∧
    (let s := withWork 0 .holding .lease 5 pendingWork;
      (s.station 0).take = some 3 ∧ FromStationPlain (from_ 20) .returnTake 0 s ∧ FromStationPlain (from_ 20) .complete 0 s ∧
        (s.station 0).state = .holding ∧ (tape 5).archive ≠ some .archived) ∧
    (let t := { tape 5 with archive := some .archived };
      let s := (withWork 0 .holding .lease 5 pendingWork).setTake 3 t;
      FromStationPlain (from_ 20) .complete 0 s ∧ s.take? 3 = some t ∧ t.lifecycle = .closed ∧ s.reserveUnmet = false ∧
        mapWf s.takeTable.takes) := by decide +kernel

theorem test_archive_witness :
    (FromStation (from_ 22) .requestArchive 2 pendingWork ∧ (pendingWork.station 2).state = .idle ∧ pendingWork.handOff.archive = 3 :: [] ∧
      pendingWork.take? 3 = some (tape 5) ∧ (tape 5).lifecycle = .closed) ∧
    (let s := attachedAt 2 .bulk 5 (withWork 2 .archiving .stall 5 pendingWork);
      (s.station 2).state = .archiving ∧ (s.station 2).take = some 3 ∧ s.take? 3 = some (tape 5) ∧ FromStation (from_ 22) .archived 2 s ∧
        (tape 5).cells ≤ (s.context 2).position.getD 0 ∧ (tape 5).transcription ≠ some .typed ∧
        FromStation (from_ 22) .archiveFailed 2 s) ∧
    (let t := { tape 5 with transcription := some .typed, archive := some .archiving };
      let s := (attachedAt 2 .bulk 5 (withWork 2 .archiving .stall 5 pendingWork)).setTake 3 t;
      (s.station 2).state = .archiving ∧ (s.station 2).take = some 3 ∧ s.take? 3 = some t ∧ t.lifecycle = .closed ∧
        FromStation (from_ 22) .archived 2 s ∧ t.cells ≤ (s.context 2).position.getD 0 ∧ t.transcription = some .typed ∧
        s.reserveUnmet = false ∧ mapWf s.takeTable.takes) := by decide +kernel

theorem test_timer_restarts_witness :
    (let s := withWork 0 .holding .lease 5 pendingWork;
      (s.station 0).take = some 3 ∧ s.take? 3 = some (tape 5) ∧ FromStationPlain (from_ 20) .keep 0 s ∧ (s.station 0).state = .holding) ∧
    (let s := withWork 2 .archiving .stall 5 pendingWork;
      (s.station 2).take = some 3 ∧ s.take? 3 = some (tape 5) ∧ FromStationPlain (from_ 22) .credit 2 s ∧
        (s.station 2).state = .archiving) := by decide +kernel

theorem test_expiries_witness :
    (∀ x ∈ [(StationState.offered, TimerKind.offer), (.holding, .lease), (.archiving, .stall)],
      let s := withWork 0 x.1 x.2 0 pendingWork;
      s.power = .on ∧ (s.station 0).take = some 3 ∧ s.take? 3 = some (tape 5) ∧ (tape 5).lifecycle = .closed ∧ s.handOff.wait = [] ∧
        (s.station 0).state = x.1 ∧ (s.station 0).timer = some ⟨x.2, 0⟩) ∧
    (let s := withWork 0 .offered .offer 1 pendingWork;
      (s.station 0).timer ≠ some ⟨.offer, 0⟩ ∧ (s.station 0).timer ≠ some ⟨.lease, 0⟩ ∧ (s.station 0).timer ≠ some ⟨.stall, 0⟩ ∧
        s.link.lossTimer ≠ some 0 ∧ s.statusDue = false) := by decide +kernel

/-- The typist PAUSED at position 2 of slot 3. -/
def paused : State := attachedAt 0 .paused 2 (withWork 0 .holding .lease 5 pendingWork)

theorem test_context_writes_witness : (paused.context 0).take = some 3 ∧ paused.take? 3 = some (tape 5) ∧
    FromStationPlain (from_ 20) .save 0 paused ∧ FromStationPlain (from_ 20) .pause 0 paused ∧ FromStationPlain (from_ 20) .setNotice 0 paused ∧
    FromStationPlain (from_ 20) .setMix 0 paused ∧ mixModeOfCode 1 = some .mono := by decide +kernel

/-- A CUE of base TAKE_START, plus 8 ms. -/
def cueStart : CueFields := ⟨0, 0, 0, 0, 8⟩

theorem test_cue_witness : ∀ s ∈ [paused, withWork 0 .holding .lease 5 pendingWork],
    FromStation (from_ 20) .cue 0 s ∧ cueRequest cueStart none = some ⟨.takeStart, 0, 0, none, 8⟩ ∧
      s.selectTake 0 none = .ok (3, tape 5) ∧ s.take? 3 = some (tape 5) ∧
      cueBase (tape 5) (s.context 0) ((s.context 0).take == some 3) ⟨.takeStart, 0, 0, none, 8⟩ = some 0 := by decide +kernel

theorem test_cue_attachments : (paused.context 0).take = some 3 ∧ ((withWork 0 .holding .lease 5 pendingWork).context 0).take ≠ some 3 := by
  decide +kernel

/-- The spans a CUE may meet: closed with sound cells after it, closed with another touching it, and still open. -/
theorem test_cue_spans_witness : (take417.spanAt 720).map (fun x => (x.first, x.stop)) = some (700, some 760) ∧ take417.spanAt 760 = none ∧
    (take433.spanAt 759).map (fun x => (x.first, x.stop)) = some (700, some 760) ∧
    (take433.spanAt 760).map (fun x => (x.first, x.stop)) = some (760, some 800) ∧
    (((openTape 5).withMarker (plainMarker .sealBegin 2 setClock.stamp 30)).spanAt 4).map (fun x => (x.first, x.stop)) = some (2, none) := by
  decide +kernel

theorem test_play_witness : (FromStationPlain (from_ 20) .play 0 paused ∧ (paused.context 0).take = some 3 ∧ paused.take? 3 = some (tape 5) ∧
      (paused.context 0).state = .paused) ∧
    (let s := attachedAt 0 .playing 2 paused;
      FromStationPlain (from_ 20) .play 0 s ∧ (s.context 0).state ≠ .paused) := by decide +kernel

theorem test_stop_witness : (FromStationPlain (from_ 20) .stop 0 office ∧ (office.context 0).take = none ∧ (office.context 0).state ≠ .bulk) ∧
    (FromStationPlain (from_ 20) .stop 0 paused ∧ (paused.context 0).take ≠ none ∧ (paused.context 0).state ≠ .bulk) ∧
    (let s := attachedAt 2 .bulk 2 (withWork 2 .archiving .stall 5 pendingWork);
      FromStationPlain (from_ 22) .stop 2 s ∧ (s.context 2).state = .bulk) ∧ FromStation (from_ 20) .readPosition 0 paused := by
  decide +kernel

theorem test_listen_witness : let s := recording 5;
    FromStationPlain (from_ 21) .listen 1 s ∧ roomOfByte 0 = some 0 ∧ (s.room 0).openTake = some 3 ∧ s.take? 3 = some (openTape 5) := by
  decide +kernel

/-- With 33 entries free, and with 32. -/
theorem test_add_note_witness : ∀ n ∈ [33, 32], let s := { paused with markerPool := { free := n } };
    FromStationPlain (from_ 20) .addNote 0 s ∧ s.defaultTake 0 = some 3 ∧ s.take? 3 = some (tape 5) ∧
      notePosition s 0 3 (tape 5) 5 = some 5 ∧ notePosition s 0 3 (tape 5) 16777215 = some 2 ∧ s.markerPool.free = n := by decide +kernel

theorem test_annotation_witness : ∀ n ∈ [33, 32], let s := { recording 5 with markerPool := { free := n }, currentCycle := some 5 };
    FromConsole (markFrom 30) 0 s ∧ (s.room 0).state ≠ .closed ∧ (s.room 0).openTake = some 3 ∧ s.take? 3 = some (openTape 5) ∧
      classify s.currentCycle (s.room 0).ring (markFrom 30).cycle = .live ∧
      classify (some 6) (s.room 0).ring (markFrom 30).cycle = .behind ∧ s.markerPool.free = n := by decide +kernel

/-- The recording room with a ring around the mark's cycle 5, and a cycle that makes the mark Recorded or Between. -/
def ringed (ring : List RingEntry) (free : Nat) : State :=
  { (recording 5).updRoom 0 fun x => { x with ring := ring } with markerPool := { free := free }, currentCycle := some 9 }

/-- Recorded with a position and without, Between, and Recorded in a take that is gone. -/
theorem test_governed_marks_witness :
    (∀ p ∈ [some 3, none], let x : RingEntry := ⟨5, some 3, p, setClock.stamp⟩;
      let s := ringed [⟨4, some 3, some 2, setClock.stamp⟩, x, ⟨6, some 3, some 4, setClock.stamp⟩] 33;
      FromConsole (markFrom 30) 0 s ∧ (s.room 0).state ≠ .closed ∧ (s.room 0).openTake = some 3 ∧ s.take? 3 = some (openTape 5) ∧
        classify s.currentCycle (s.room 0).ring 5 = .recorded x [⟨6, some 3, some 4, setClock.stamp⟩] ∧ 32 < s.markerPool.free) ∧
    (let s := ringed [⟨4, some 3, some 2, setClock.stamp⟩, ⟨6, some 3, some 4, setClock.stamp⟩] 33;
      classify s.currentCycle (s.room 0).ring 5 = .between ⟨6, some 3, some 4, setClock.stamp⟩ []) ∧
    (let s := ringed [⟨5, none, none, setClock.stamp⟩] 33;
      classify s.currentCycle (s.room 0).ring 5 = .recorded ⟨5, none, none, setClock.stamp⟩ [] ∧
        ((⟨5, none, none, setClock.stamp⟩ : RingEntry).slot.bind s.take?) = none) := by decide +kernel

/-- The recording room off the record, or sealed. -/
def roomIs (st : RoomState) (sealed : Bool) (free : Nat) : State :=
  { (recording 5).updRoom 0 fun x => { x with state := st, sealed := sealed } with markerPool := { free := free } }

theorem test_state_marks_witness :
    ∀ x ∈ [(RoomState.onRecord, false, 1), (.onRecord, true, 2), (.offRecord, false, 1), (.onRecord, true, 1)],
      let s := roomIs x.1 x.2.1 x.2.2;
      FromConsole (markFrom 30) 0 s ∧ (s.room 0).openTake = some 3 ∧ s.take? 3 = some (openTape 5) ∧ (s.room 0).state = x.1 ∧
        (s.room 0).sealed = x.2.1 ∧ s.markerPool.free = x.2.2 := by decide +kernel

theorem test_refused_marks_witness : office.power = .on ∧ office.findConsole (markFrom 99).src = none ∧
    office.findConsole (markFrom 30).src = some 0 ∧ (office.room 0).state = .closed ∧
    ((roomIs .offRecord false 1).room 0).state = .offRecord ∧ ((roomIs .onRecord false 1).room 0).state = .onRecord ∧
    ((roomIs .onRecord true 1).room 0).sealed = true ∧ (roomIs .onRecord true 1).findConsole (markFrom 30).src = some 0 := by decide +kernel

/-- State marks that the room takes, with one entry too few. -/
theorem test_mark_refused_witness : ∀ x ∈ [(RoomState.onRecord, false, 0), (.onRecord, true, 1), (.offRecord, false, 0), (.onRecord, true, 0)],
    let s := roomIs x.1 x.2.1 x.2.2;
    s.power = .on ∧ s.findConsole (markFrom 30).src = some 0 ∧ (s.room 0).state = x.1 ∧ (s.room 0).sealed = x.2.1 ∧
      s.markerPool.free = x.2.2 := by decide +kernel

/-- Whether a frame parses, to given addresses and kind. -/
def parsesTo (fr : Frame) (dst src kind : Byte) : Bool :=
  match parseFrame fr with
  | some f => f.dst == dst && f.src == src && f.kind == kind
  | none => false

theorem test_bad_frames_witness : parseFrame [1, 2, 3] = none ∧ parsesTo (mkFrame 0 10 4 []) 0 10 4 = true ∧
    parsesTo (mkFrame 200 255 4 []) 200 255 4 = true ∧ parsesTo (mkFrame 200 200 4 []) 200 200 4 = true ∧ office.link.node = 200 := by
  decide +kernel

theorem test_office_sync_witness : parsesTo (mkFrame 255 5 kindSync [0, 1]) 255 5 kindSync = true ∧
    parsesTo (mkFrame 255 200 kindSync [0, 1]) 255 200 kindSync = true ∧ office.power = .on := by decide +kernel

/-- The forward queue toward the Office Port with 31 frames, and with 32. -/
theorem test_forwarding_witness : parsesTo (mkFrame 40 10 kindNotice []) 40 10 kindNotice = true ∧
    parsesTo (mkFrame 200 10 kindNotice []) 200 10 kindNotice = true ∧
    (∀ n ∈ [31, 32], let s := officePort (fun q => { q with forward := List.replicate n ⟨0, []⟩ }) office;
      (s.port (oppositePort .capture)).forward.length = n) := by decide +kernel

/-- AUDIO and MARK frames for another node, for the device and broadcast; a SYNC; and one of each too short. -/
theorem test_taken_frames_witness :
    (∀ kind ∈ [kindAudio, kindMark], ∀ dst ∈ [40, 200, 255], parsesTo (mkFrame dst 30 kind [1, 0, 5, 0, 14]) dst 30 kind = true) ∧
    parsesTo (mkFrame 255 5 kindSync [0, 1]) 255 5 kindSync = true ∧
    (Parsed.short ⟨255, 5, kindSync, [0], 0⟩ = true ∧ Parsed.short ⟨200, 30, kindMark, [1, 0, 5, 0], 0⟩ = true ∧
      Parsed.short ⟨200, 30, kindAudio, [0, 5], 0⟩ = true ∧ Parsed.short ⟨255, 5, kindSync, [0, 1], 0⟩ = false) := by decide +kernel

theorem test_control_frame_witness : parsesTo (mkFrame 200 10 kindControl [0, 1, 0, 9]) 200 10 kindControl = true ∧
    ForDevice ⟨200, 10, kindControl, [0, 1, 0, 9], 0⟩ office ∧ controlFault [0, 1, 0, 9] = none ∧
    commandOfCode (controlHeader [0, 1, 0, 9]).1 = some .run := by decide +kernel

theorem test_frames_read_back_witness : ([] : List Byte).length ≤ 1024 ∧ (List.replicate 1024 (0 : Byte)).length ≤ 1024 := by decide +kernel

/-- Waiting syncs, and heads of equal and of different serial numbers. -/
theorem test_transmit_witness : ({ office with link := { office.link with syncs := [[1]] } } : State).link.syncs = [1] :: [] ∧
    office.link.syncs = [] ∧ (office.port .capture).originate = [] ∧ (office.port .capture).forward = [] ∧
    (∀ x ∈ [(1, 2), (2, 2)], let s := officePort (fun q => { q with originate := [⟨x.1, []⟩], forward := [⟨x.2, []⟩] }) office;
      (s.port .office).originate = ⟨x.1, []⟩ :: [] ∧ (s.port .office).forward = ⟨x.2, []⟩ :: []) := by decide +kernel

/-- The recording room with entry 0 of the ingest map naming its one track. -/
def mapped : State :=
  { recording 5 with currentCycle := some 5, ingestMap := (recording 5).ingestMap.set 0 ⟨.map, 30, some 0, 0, 1⟩ }

theorem test_audio_witness : mapped.power = .on ∧ mapped.link.source = .repeating ∧ mapped.currentCycle = some 5 ∧
    (List.replicate 32 (0 : Word)).length = mapped.link.period.samples ∧ mapped.ingestMatch 30 0 = some ⟨.map, 30, some 0, 0, 1⟩ ∧
    (mapped.room 0).state ≠ .closed ∧ 1 ≤ (mapped.room 0).config.tracks ∧ (mapped.room 0).assembly[1 - 1]?.join = none ∧
    mapped.currentCycle ≠ some 6 := by decide +kernel

/-- The granule slot filled, the room CLOSED, a track it has not, a channel no entry maps, and a frame that answers a next state. -/
theorem test_audio_refused_witness :
    ((mapped.updRoom 0 fun x => { x with assembly := [some []] }).room 0).assembly[1 - 1]?.join ≠ none ∧
    ((mapped.updRoom 0 fun x => { x with state := .closed }).room 0).state = .closed ∧
    (let s := { mapped with ingestMap := mapped.ingestMap.set 0 ⟨.map, 30, some 0, 0, 2⟩ };
      s.ingestMatch 30 0 = some ⟨.map, 30, some 0, 0, 2⟩ ∧ (s.room 0).config.tracks < 2) ∧
    mapped.ingestMatch 30 1 = none ∧ ([] : List Word).length ≠ mapped.link.period.samples ∧
    exec (.audioFrame .capture 30 6 []) mapped = .next (after (exec (.audioFrame .capture 30 6 []) mapped) mapped) :=
  ⟨by decide +kernel, by decide +kernel, by decide +kernel, by decide +kernel, by decide +kernel, rfl⟩

theorem test_capture_sync_witness : office.power = .on ∧ office.link.source = .repeating ∧ office.link.previousSync = none ∧
    ({ office with link := { office.link with previousSync := some 5002 } } : State).link.previousSync = some 5002 ∧
    ((5003 : Word) - 5002).toNat = 1 ∧ ((5005 : Word) - 5002).toNat = 3 ∧ ((5002 : Word) - 5002).toNat = 0 ∧
    32769 ≤ ((5001 : Word) - 5002).toNat ∧ office.currentCycle = none ∧ mapped.currentCycle = some 5 ∧
    ({ office with link := { office.link with source := .localSource } } : State).link.source = .localSource := by decide +kernel

/-- Room 0 recording on page 0, which holds one cell, with page 1 next in the free page queue. -/
def onPage (fill cells : Nat) : State :=
  { (recording cells).setTake 3 { openTape cells with firstPage := some 0, lastPage := some 0 } with
    store := { (recording cells).store with
      freePages := [1, 2, 3], pages := [(0, ⟨none, fill, 3, List.replicate fill []⟩)] } }

theorem test_cell_witness :
    (let s := onPage 255 255;
      (s.room 0).openTake = some 3 ∧ s.take? 3 = some { openTape 255 with firstPage := some 0, lastPage := some 0 } ∧
        (s.room 0).deferred = none ∧ (s.room 0).state = .onRecord ∧ 255 + 1 < (s.room 0).config.lengthLimit ∧ (s.room 0).gap = 0 ∧
        s.page? 0 = some ⟨none, 255, 3, List.replicate 255 []⟩ ∧ (List.replicate 255 ([] : AudioCell)).length = 255) ∧
    (let s := onPage 256 256;
      s.page? 0 = some ⟨none, 256, 3, List.replicate 256 []⟩ ∧ 256 + 1 < (s.room 0).config.lengthLimit ∧
        s.store.freePages = 1 :: [2, 3] ∧ s.store.pageReserve ≤ [2, 3].length ∧ Config.slotReserve ≤ s.freeSlots ∧
        mapWf s.takeTable.takes) ∧
    (let s := recording 0;
      (openTape 0).firstPage = none ∧ (openTape 0).lastPage = none ∧ 0 + 1 < (s.room 0).config.lengthLimit ∧
        s.store.freePages = 0 :: [1, 2, 3] ∧ s.store.pageReserve ≤ [1, 2, 3].length ∧ Config.slotReserve ≤ s.freeSlots ∧
        mapWf s.takeTable.takes) ∧
    (let s := { onPage 256 256 with store := { (onPage 256 256).store with freePages := [] } };
      (s.room 0).state = .onRecord ∧ 256 < (s.room 0).config.lengthLimit ∧ s.store.freePages = [] ∧ (s.room 0).overrun = none ∧
        s.page? 0 = some ⟨none, 256, 3, List.replicate 256 []⟩) ∧
    (let s := recording 225000;
      (s.room 0).state = .onRecord ∧ (s.room 0).openTake = some 3 ∧ s.take? 3 = some (openTape 225000) ∧ (s.room 0).deferred = none ∧
        (s.room 0).config.lengthLimit ≤ (openTape 225000).cells ∧ (s.room 0).overrun = none) ∧
    ((roomIs .offRecord false 1).room 0).state = .offRecord := by decide +kernel

/-- A gap waiting with an entry free and with none, a store that reaches the length limit, and a deferred cut that can and cannot be made. -/
theorem test_cell_events_witness :
    (∀ free ∈ [1, 0], let s := { (onPage 255 255).updRoom 0 fun x => { x with gap := 2 } with markerPool := { free := free } };
      0 < (s.room 0).gap ∧ (s.room 0).openTake = some 3 ∧ (s.room 0).deferred = none ∧ 255 + 1 < (s.room 0).config.lengthLimit ∧
        s.take? 3 = some { openTape 255 with firstPage := some 0, lastPage := some 0 } ∧ s.markerPool.free = free) ∧
    (∀ free ∈ [1, 0], let s := { (onPage 255 255).updRoom 0 fun x => { x with config := { x.config with lengthLimit := 256 } } with
        markerPool := { free := free } };
      (s.room 0).state = .onRecord ∧ (s.room 0).config.lengthLimit = 255 + 1 ∧ (s.room 0).gap = 0 ∧ (s.room 0).deferred = none ∧
        s.lowestFreeSlot = some 0 ∧ (s.room 0).cutNeeds .length = 1 ∧ s.markerPool.free = free) ∧
    (∀ free ∈ [1, 0], let s := { (onPage 255 255).updRoom 0 fun x => { x with deferred := some .schedule } with markerPool := { free := free } };
      (s.room 0).deferred = some .schedule ∧ (s.room 0).state = .onRecord ∧ s.lowestFreeSlot = some 0 ∧ (s.room 0).cutNeeds .deferred = 1 ∧
        s.markerPool.free = free ∧ 1 < (s.room 0).config.lengthLimit ∧
        (free = 1 → (tryCut 0 .deferred s.link.node s).1.store.freePages = 1 :: [2, 3])) := by decide +kernel

/-- R58, R11, R13: a deferred cut made at the close puts the cell in the successor; one not made leaves it in the open take; the store that
reaches the limit cuts with LENGTH and CONTINUED carries the number. -/
theorem test_cell_events :
    ([1, 0].map fun free =>
      let s := { (onPage 255 255).updRoom 0 fun x => { x with deferred := some .schedule } with markerPool := { free := free } };
      let u := closeCell 5 0 0 s;
      ((u.room 0).deferred, (u.take? 0).map Take.cells, (u.take? 3).map Take.cells, u.takeTable.counters.deferredCuts)) =
      [(none, some 1, some 255, 0), (some .schedule, none, some 256, 0)] ∧
    (let s := (onPage 255 255).updRoom 0 fun x => { x with config := { x.config with lengthLimit := 256 } };
      let u := closeCell 5 0 0 s;
      ((u.take? 3).bind Take.cause, (u.take? 0).map fun t => t.markers.map fun m => (m.kind, m.code))) =
      (some .length, some [(.continued, 7)]) ∧
    (let u := closeCell 5 0 0 ((onPage 255 255).updRoom 0 fun x => { x with gap := 2 });
      ((u.room 0).gap, (u.take? 3).map fun t => t.markers.map fun m => (m.kind, m.position, m.gapCycles))) =
      (0, some [(.gap, 255, 2)]) := by decide +kernel

/-- The typist in a state at position 1 of an open or closed take on page 0. -/
def playingOnPage (st : ContextState) (p : Nat) (t : Take) : State :=
  (((onPage 2 2).setTake 3 t).updContext 0 fun x =>
    { x with state := st, take := some 3, position := some p, located := some (.page 0 0) })

theorem test_delivery_witness :
    (let t := { openTape 2 with firstPage := some 0, lastPage := some 0 };
      (∀ st ∈ [ContextState.playing, .heldLive, .heldSealed], let s := playingOnPage st 1 t;
        (s.context 0).take = some 3 ∧ s.take? 3 = some t ∧ (s.context 0).position = some 1 ∧ (s.context 0).notice = none ∧
          t.spanAt 1 = none ∧ 1 < t.cells ∧ (s.context 0).located = some (.page 0 0) ∧ s.readCell 3 0 (1 % 256) = some [] ∧
          s.link.officePort.originate.length < 512) ∧
      (t.spanAt 2 = none ∧ 2 = t.cells ∧ t.lifecycle = .open)) ∧
    ((tape 2).spanAt 2 = none ∧ 2 = (tape 2).cells ∧ (tape 2).lifecycle ≠ .open ∧
      ((playingOnPage .playing 2 (tape 2)).context 0).follow = false ∧ (playingOnPage .playing 2 (tape 2)).take? 3 = some (tape 2)) ∧
    (let s := playingOnPage .bulk 1 (tape 2);
      (s.context 0).state = .bulk ∧ (s.context 0).credits = 0) := by decide +kernel

/-- A context located at the end of its chain, at a cell on page 0, with a notice point at that cell, before it and at the end; and one of a
station with clearance in a sealed span. -/
theorem test_cells_sent_witness :
    (∀ nt ∈ [some 1, some 0, some 2, none], let t := { openTape 2 with firstPage := some 0, lastPage := some 0 };
      let s := (playingOnPage .heldLive 1 t).updContext 0 fun x => { x with located := some .atEnd, notice := nt };
      (s.context 0).take = some 3 ∧ s.take? 3 = some t ∧ (s.context 0).position = some 1 ∧ t.spanAt 1 = none ∧
        (s.context 0).state = .heldLive ∧ 1 < t.cells ∧ (s.context 0).located = some .atEnd ∧ s.locate 3 1 = .page 0 0 ∧
        s.readCell 3 0 (1 % 256) = some [] ∧ (s.context 0).notice = nt ∧ (∀ q ∈ [Port.capture, .office], (s.port q).originate.length < 511)) ∧
    (let t := { openTape 2 with firstPage := some 0, lastPage := some 0 }.withMarker (plainMarker .sealBegin 1 setClock.stamp 30);
      let s := (playingOnPage .playing 1 t).updStation 0 fun x => { x with config := { x.config with clearance := true } };
      (s.station 0).config.clearance = true ∧ (t.spanAt 1).isSome = true ∧ s.take? 3 = some t ∧ (s.context 0).take = some 3 ∧
        (s.context 0).position = some 1 ∧ s.readCell 3 0 (1 % 256) = some []) ∧
    (∀ nt ∈ [some 2, some 1, none], let s := (playingOnPage .playing 2 (tape 2)).updContext 0 fun x => { x with notice := nt };
      (s.context 0).notice = nt ∧ (s.context 0).state = .playing ∧ (s.context 0).take = some 3 ∧ s.take? 3 = some (tape 2) ∧
        (s.context 0).position = some 2 ∧ (s.context 0).follow = false ∧
        (s.port (s.station 0).lastPort).originate.length < 511) := by decide +kernel

/-- R132, R143: the cell at the notice point is sent and then NOTICE_POINT (kind 3) of take 7; at the end it comes before END_OF_TAKE (4). -/
theorem test_notice_points :
    ([(1, { openTape 2 with firstPage := some 0, lastPage := some 0 }), (2, tape 2)].map fun x : Nat × Take =>
      let s := (playingOnPage .playing x.1 x.2).updContext 0 fun y => { y with notice := some x.1 };
      let u := deliverContext 0 s;
      ((u.context 0).notice, (u.context 0).position, u.link.officePort.originate.map fun q => (q.frame[2]?, q.frame[5]?))) =
    [(none, some 2, [(some 7, some 0), (some 6, some 3)]), (none, some 2, [(some 6, some 3), (some 6, some 4)])] := by decide +kernel

/-- The end of a take in follow, its link naming a take of slot 5 with a cell on page 1: closed, open, and beginning with an open span. -/
theorem test_follow_on_witness :
    ∀ t' ∈ [{ tape 1 with number := 8, firstPage := some 1, lastPage := some 1 },
        { openTape 1 with number := 8, firstPage := some 1, lastPage := some 1 },
        { openTape 1 with number := 8, firstPage := some 1, lastPage := some 1 }.withMarker (plainMarker .sealBegin 0 setClock.stamp 30)],
      let s0 := ((playingOnPage .playing 2 (tape 2)).setTake 5 t').updContext 0 fun y => { y with follow := true, link := some 8 };
      let s := { s0 with store := { s0.store with pages := mapSet 1 ⟨none, 1, 5, [[]]⟩ s0.store.pages } };
      (s.context 0).take = some 3 ∧ s.take? 3 = some (tape 2) ∧ (s.context 0).position = some 2 ∧ (tape 2).spanAt 2 = none ∧
        2 = (tape 2).cells ∧ (tape 2).lifecycle = .closed ∧ (s.context 0).state = .playing ∧ (s.context 0).follow = true ∧
        (s.context 0).link = some 8 ∧ s.findTake 8 = some (5, t') ∧ s.take? 5 = some t' ∧ t'.room = (tape 2).room ∧ 0 < t'.cells ∧
        s.locate 5 0 = .page 1 0 ∧ s.readCell 5 1 0 = some [] ∧ s.reserveUnmet = false ∧ mapWf s.takeTable.takes ∧
        (s.station 0).config.clearance = false ∧ (∀ q ∈ [Port.capture, .office], (s.port q).originate.length < 511) ∧
        (t'.spanAt 0 = none ∨ (t'.spanAt 0).map Span.stop = some none) := by decide +kernel

/-- The end of a take in follow, its link naming the open take of slot 5 of the same room, of another room, and no take. -/
theorem test_follow_witness : ∀ x ∈ [((8 : Nat), (0 : RoomId)), (8, 1), (9, 0)],
    let t' : Take := { openTape 0 with number := 8, room := x.2 };
    let s := ((playingOnPage .playing 2 (tape 2)).setTake 5 t').updContext 0 fun y => { y with follow := true, link := some x.1 };
    (s.context 0).take = some 3 ∧ s.take? 3 = some (tape 2) ∧ (s.context 0).position = some 2 ∧ (s.context 0).notice = none ∧
      (s.context 0).follow = true ∧ (s.context 0).link = some x.1 ∧ t'.lifecycle = .open ∧ t'.cells = 0 ∧ t'.spanAt 0 = none ∧
      s.take? 5 = some t' ∧ s.findTake x.1 = (if x.1 = 8 then some (5, t') else none) := by decide +kernel

/-- A transfer with one credit: a marker to send, the last cell to send, and one that is not the last. -/
theorem test_bulk_witness : ∀ x ∈ [(markedTape, 1), (tape 2, 1), (tape 2, 0)],
    let s := (playingOnPage .bulk x.2 x.1).updContext 0 fun y => { y with credits := 1 };
    (s.context 0).state = .bulk ∧ (s.context 0).take = some 3 ∧ s.take? 3 = some x.1 ∧ (s.context 0).position = some x.2 ∧
      (s.context 0).credits = 1 ∧ x.2 < x.1.cells ∧ (s.context 0).markersSent = 0 ∧ (s.context 0).located = some (.page 0 0) ∧
      s.readCell 3 0 (x.2 % 256) = some [] ∧ s.link.officePort.originate.length < 512 ∧
      ((x.1.markers.find? fun m => m.number == 0 + 1).isSome = (x.1.markers.length == 1)) := by decide +kernel

theorem test_local_sync_witness :
    (office.power = .on ∧ office.link.source = .repeating ∧
      ({ office with link := { office.link with lossTimer := some 0 } } : State).link.lossTimer = some 0) ∧
    ({ office with link := { office.link with source := .localSource } } : State).link.source = .localSource ∧
    ({ office with mgmt := { office.mgmt with statusCount := some (.ticks 0) } } : State).statusDue = true ∧
    office.timeouts.statusDest = 0 ∧ ({ office.timeouts with statusDest := 10 } : Timeouts).statusDest ≠ 0 ∧
    (office.port office.timeouts.statusPort).originate.length < 512 := by decide +kernel

/-- Take 417 with a context at 720, in its closed span, and a take whose span is open. -/
theorem test_sealed_passing_witness :
    (let s := (office.setTake 3 take417).updContext 0 fun x => { x with state := .playing, take := some 3, position := some 720 };
      (s.context 0).take = some 3 ∧ (s.context 0).position = some 720 ∧
        (passSealed (take417.spans.length + 1) 0 3 take417 s).2 = false ∧ (s.context 0).notice = none) ∧
    (∀ n ∈ [720, 759, 760],
      let s := (office.setTake 3 take417).updContext 0 fun x => { x with take := some 3, position := some 720, notice := some n };
      (s.context 0).notice = some n ∧ (((passSealed (take417.spans.length + 1) 0 3 take417 s).1.context 0).position = some 760) ∧
        (s.port (s.station 0).lastPort).originate.length < 512) ∧
    (let t := (openTape 5).withMarker (plainMarker .sealBegin 2 setClock.stamp 30);
      let s := (office.setTake 3 t).updContext 0 fun x => { x with state := .playing, take := some 3, position := some 4 };
      (passSealed (t.spans.length + 1) 0 3 t s).2 = true) := by decide +kernel

/-- Delivery to a station without clearance: at a position in an open span, and in a closed one whose end is stored, with and without a notice
point outside the passing. -/
theorem test_passing_delivery_witness :
    (let t := { openTape 2 with firstPage := some 0, lastPage := some 0 }.withMarker (plainMarker .sealBegin 0 setClock.stamp 30);
      let s := playingOnPage .playing 1 t;
      (s.context 0).take = some 3 ∧ s.take? 3 = some t ∧ (s.context 0).position = some 1 ∧ (s.station 0).config.clearance = false ∧
        (s.context 0).state = .playing ∧ (t.spanAt 1).map Span.stop = some none ∧ (passSealed (t.spans.length + 1) 0 3 t s).2 = true) ∧
    (∀ nt ∈ [none, some 0], let t := ({ openTape 2 with firstPage := some 0, lastPage := some 0 }.withMarker
        (plainMarker .sealBegin 0 setClock.stamp 30)).withMarker (plainMarker .sealEnd 1 setClock.stamp 30);
      let s := (playingOnPage .playing 0 t).updContext 0 fun x => { x with notice := nt };
      (s.context 0).take = some 3 ∧ s.take? 3 = some t ∧ (s.context 0).position = some 0 ∧ (s.station 0).config.clearance = false ∧
        (t.spanAt 0).map Span.stop = some (some 1) ∧ t.spanAt 1 = none ∧ 1 < t.cells ∧ s.locate 3 1 = .page 0 0 ∧
        s.readCell 3 0 (1 % 256) = some [] ∧ (∀ n ∈ (s.context 0).notice, n ≤ 0 ∨ 1 < n) ∧
        (passSealed (t.spans.length + 1) 0 3 t s).2 = false ∧ s.link.officePort.originate.length < 512) := by decide +kernel

/-- R133, R135: a station with clearance is sent the cell of an open span with SEALED (flag bit 0); one without is HELD_SEALED. -/
theorem test_sealed_delivery : ([true, false].map fun clear =>
      let t := { openTape 2 with firstPage := some 0, lastPage := some 0 }.withMarker (plainMarker .sealBegin 0 setClock.stamp 30);
      let s := (playingOnPage .playing 1 t).updStation 0 fun x => { x with config := { x.config with clearance := clear } };
      let u := deliverContext 0 s;
      ((u.context 0).state, (u.context 0).position, u.link.officePort.originate.map fun q => (q.frame[2]?, q.frame[10]?))) =
    [(.playing, some 2, [(some 7, some 3)]), (.heldSealed, some 0, [])] := by decide +kernel

/-- A take of one page of 255 cells, its page at the chain's head, the other three pages free. -/
theorem test_pages_kept_witness : PagesKept (onPage 255 255) ∧ MarkersKept (onPage 255 255) := by
  have hp : ∀ n pg, (onPage 255 255).page? n = some pg → n = 0 ∧ pg = ⟨none, 255, 3, List.replicate 255 []⟩ := fun n pg h => by
    have := mapGet_mem (m := (onPage 255 255).store.pages) h
    rwa [show (onPage 255 255).store.pages = [(0, ⟨none, 255, 3, List.replicate 255 []⟩)] from rfl, List.mem_singleton,
      Prod.mk.injEq] at this
  have ht : ∀ k t, (onPage 255 255).take? k = some t →
      k = 3 ∧ t = { openTape 255 with firstPage := some 0, lastPage := some 0 } := fun k t h => by
    have := mapGet_mem (m := (onPage 255 255).takeTable.takes) h
    rwa [show (onPage 255 255).takeTable.takes = [(3, { openTape 255 with firstPage := some 0, lastPage := some 0 })] from rfl,
      List.mem_singleton, Prod.mk.injEq] at this
  have h0 : mapGet 0 (onPage 255 255).store.pages = some ⟨none, 255, 3, List.replicate 255 []⟩ := rfl
  refine ⟨⟨by decide +kernel, by decide +kernel, fun k t h => ?_, fun n pg h => ?_⟩, by unfold MarkersKept; decide +kernel⟩
  · obtain ⟨rfl, rfl⟩ := ht k t h
    exact ⟨[0], ⟨rfl, _, h0, rfl, trivial⟩, by decide, rfl, fun n pg hn _ => by simp [(hp n pg hn).1], by simp,
      by decide +kernel, by decide +kernel⟩
  · obtain ⟨rfl, rfl⟩ := hp n pg h
    exact ⟨rfl, by decide +kernel⟩

theorem test_lists_ordered_witness : ListsOrdered (office.setTake 3 markedTape) := by
  unfold ListsOrdered Take.listed; decide +kernel

theorem test_coherent_witness : ContextsCoherent paused ∧ WithinCapacity paused := by
  unfold ContextsCoherent WithinCapacity; decide +kernel

/-- The typist's context attached to a take with one pin. -/
theorem test_pins_kept_witness : PinsKept (paused.setTake 3 { tape 5 with pins := 1 }) := by
  have ht : ∀ k t, (paused.setTake 3 { tape 5 with pins := 1 }).take? k = some t → k = 3 ∧ t = { tape 5 with pins := 1 } := fun k t h => by
    have := mapGet_mem (m := (paused.setTake 3 { tape 5 with pins := 1 }).takeTable.takes) h
    rwa [show (paused.setTake 3 { tape 5 with pins := 1 }).takeTable.takes = [(3, { tape 5 with pins := 1 })] from rfl,
      List.mem_singleton, Prod.mk.injEq] at this
  refine ⟨fun e k h => ?_, fun k t h => ?_⟩
  · have hk : ∀ e : StationId, ((paused.setTake 3 { tape 5 with pins := 1 }).context e).take = none ∨
        ((paused.setTake 3 { tape 5 with pins := 1 }).context e).take = some 3 := by decide +kernel
    rcases hk e with h' | h'
    · rw [h'] at h; cases h
    · rw [h'] at h; cases h; rfl
  · obtain ⟨rfl, rfl⟩ := ht k t h
    decide +kernel

theorem test_tables_witness : TablesInRange office ∧ office.clock.legal := by
  unfold TablesInRange; decide +kernel

/-- The invariants' states step: with no command waiting the device idles (log 4). -/
theorem test_idle_steps : step office = .next office ∧ step paused = .next paused ∧
    step (office.setTake 3 markedTape) = .next (office.setTake 3 markedTape) := ⟨rfl, rfl, rfl⟩

theorem test_configuration_witness : exec .localSync office = .next office ∧ office.writesTables .localSync = false ∧
    office.changesOpState .localSync = false ∧
    (let fr := mkFrame 200 10 kindControl [0, 8, 0, 9];
      office.carried fr = some .readAlerts ∧ office.writesTables (.frameArrival .office fr .roomsFirst) = false ∧
        office.changesOpState (.frameArrival .office fr .roomsFirst) = false) := ⟨rfl, rfl, rfl, by decide +kernel⟩

theorem test_stations_act_witness : control? (.keep (from_ 20)) = some (from_ 20, .keep) ∧ office.sender (from_ 20).src = .station 0 ∧
    (1 : StationId) ≠ 0 ∧ exec (.keep (from_ 20)) office = .next (after (exec (.keep (from_ 20)) office) office) :=
  ⟨rfl, by decide +kernel, by decide, rfl⟩

theorem test_paths_witness : control? (.run (from_ 10)) = some (from_ 10, .run) ∧
    exec (.run (from_ 10)) bench = .next (after (exec (.run (from_ 10)) bench) bench) := ⟨rfl, rfl⟩

end Sys2Proof.Tests
end

/-! ## Keeping an invariant from step to step -/

namespace Sys2Proof.Machine

variable {s t : State}

/-- A step idles, or takes the front command on the state with the rest of the queue. -/
theorem step_cases (h : step s = .next t) :
    t = s ∨ ∃ i rest, s.pending = i :: rest ∧ exec i { s with pending := rest } = .next t := by
  unfold step at h
  split at h
  · exact .inl (Host.Outcome.next.inj h).symm
  · exact .inr ⟨_, _, ‹_›, h⟩

/-- A reset leaves the state as it is for want of power, or makes changes to the state with every block at its reset values; the clock then is
the one before, but perhaps for its outage record, or the backup-lost one (R154, R180). -/
theorem reset_cases {i : Instr} (hi : isReset i = true) (h : exec i s = .next t) :
    t = s ∨ ∃ straps clock, (clock = s.clock ∨ clock = { s.clock with outage := .held } ∨ clock = lostCalendar) ∧
      Changes (State.afterReset straps clock s.pending) t := by
  have hc : ∀ u : State, Changes u (reportIfUnset u) := fun u => ifThen_changes (reportAlert_changes _)
  cases i with
  | powerOnReset straps b =>
    cases h
    refine .inr ⟨straps, s.powerOnClock b, .inr ?_, hc _⟩
    unfold State.powerOnClock
    split
    · exact .inl rfl
    · exact .inr rfl
  | hardReset straps =>
    cases h
    unfold whenOn
    split
    · exact .inr ⟨straps, s.clock, .inl rfl, hc _⟩
    · exact .inl rfl
  | _ => cases hi

/-- What every change and every other move keeps, what does not read the queue, and what holds of the reset values, is kept by every step. -/
theorem step_keeps {P : State → Prop} (hmove : ∀ s t, Move s t → P s → P t) (hqueue : ∀ s l, P s → P { s with pending := l })
    (hreset : ∀ s straps clock, P s → (clock = s.clock ∨ clock = { s.clock with outage := .held } ∨ clock = lostCalendar) →
      P (State.afterReset straps clock s.pending))
    (hs : P s) (h : step s = .next t) : P t := by
  rcases step_cases h with rfl | ⟨i, rest, _, he⟩
  · exact hs
  · have hq := hqueue s rest hs
    by_cases hi : isReset i = true
    · rcases reset_cases hi he with rfl | ⟨straps, clock, hk, hc⟩
      · exact hq
      · exact hc.moves.keeps hmove (hreset _ straps clock hq hk)
    · obtain ⟨u, hu, hm⟩ := exec_moves (s := { s with pending := rest }) i (by simpa using hi)
      cases he.symm.trans hu
      exact hm.keeps hmove hq

/-! ## Capacities -/

/-- A move of a context changes the takes' pins and that context alone (R131). -/
theorem moveContext_keeps {β : Type} {g : State → β} (hc : ∀ s e f, g (State.updContext s e f) = g s) (ht : ∀ s k t, g (State.setTake s k t) = g s)
    (e : StationId) (x : Context) (s : State) : g (moveContext e x s) = g s := by
  have hu : ∀ (s : State) k f, g (s.updTake k f) = g s := fun s k f => by
    unfold State.updTake
    split
    · exact ht _ _ _
    · rfl
  unfold moveContext pin
  split <;> dsimp only <;> split <;> simp only [hc, hu]

/-- The capacities read the lists of the two ports and the rooms. -/
theorem WithinCapacity.of_same (h : WithinCapacity s) (hc : t.shape.capture = s.shape.capture) (ho : t.shape.office = s.shape.office)
    (hr : t.rooms = s.rooms) : WithinCapacity t := by
  simp only [State.shape, Prod.mk.injEq] at hc ho
  obtain ⟨c1, c2, c3⟩ := hc
  obtain ⟨o1, o2, o3⟩ := ho
  unfold WithinCapacity PortState.bounded State.room at *
  rw [c1, c2, c3, o1, o2, o3, hr]
  exact h

theorem Change.withinCapacity (hc : Change s t) (h : WithinCapacity s) : WithinCapacity t := by
  cases hc with
  | quiet _ hq => exact h.of_same (congrArg Shape.capture hq) (congrArg Shape.office hq) (congrArg Shape.rooms hq)
  | room r f _ hr =>
    refine ⟨h.1, h.2.1, fun q => ?_⟩
    rw [State.room_updRoom_eq]
    split
    · subst_vars; exact hr (h.2.2 _)
    · exact h.2.2 q
  | port p f hb =>
    have hroom : ∀ q, (s.updPort p f).room q = s.room q := fun q => by simp
    cases p with
    | capture => exact ⟨hb h.1, h.2.1, fun q => hroom q ▸ h.2.2 q⟩
    | office => exact ⟨h.1, hb h.2.1, fun q => hroom q ▸ h.2.2 q⟩
  | moved e x _ _ =>
    exact h.of_same (moveContext_keeps (g := fun s => s.shape.capture) (fun _ _ _ => rfl) (fun _ _ _ => rfl) e x s)
      (moveContext_keeps (g := fun s => s.shape.office) (fun _ _ _ => rfl) (fun _ _ _ => rfl) e x s)
      (moveContext_keeps (g := State.rooms) (fun _ _ _ => rfl) (fun _ _ _ => rfl) e x s)
  | linked k n rest t cell _ _ _ => rw [storeLinked_eq]; exact h.of_same rfl rfl rfl
  | wrote k t cell ht _ => rw [writeCell_eq cell ht]; exact h.of_same rfl rfl rfl
  | station _ _ _ => exact h.of_same rfl rfl rfl
  | manager _ _ => exact h.of_same rfl rfl rfl
  | context _ _ _ _ => exact h.of_same rfl rfl rfl
  | take _ _ _ _ _ _ _ _ => exact h.of_same rfl rfl rfl
  | place _ _ _ _ _ => exact h.of_same rfl rfl rfl
  | opened _ _ _ _ _ _ _ _ => exact h.of_same rfl rfl rfl
  | freed _ _ _ _ => exact h.of_same rfl rfl rfl

theorem Move.withinCapacity (hm : Move s t) (h : WithinCapacity s) : WithinCapacity t := by
  cases hm with
  | change _ hc => exact hc.withinCapacity h
  | roomConfig r x _ =>
    refine ⟨h.1, h.2.1, fun q => ?_⟩
    rw [State.room_updRoom_eq]
    split <;> exact h.2.2 q
  | _ => exact h.of_same rfl rfl rfl

theorem afterReset_withinCapacity (straps : Straps) (clock : Calendar) (l : List Instr) :
    WithinCapacity (State.afterReset straps clock l) := by
  have hp : resetPort.bounded := by decide
  refine ⟨hp, hp, fun r => ?_⟩
  simp [State.afterReset, State.room, resetRoom]

end Sys2Proof.Machine

/-- Settles O55: each kind of change keeps the capacities, so every command does; the resets empty the lists. -/
theorem queuesStayWithinCapacity : Obligations.QueuesStayWithinCapacity := fun _ _ hs h =>
  Sys2Proof.Machine.step_keeps (fun _ _ hm => hm.withinCapacity) (fun _ _ h => h)
    (fun s straps clock _ _ => Sys2Proof.Machine.afterReset_withinCapacity straps clock s.pending) hs h

namespace Sys2Proof.Machine

variable {s t u : State}

/-! ## Configuration tables and clock -/

/-- The configuration tables, the manager nodes and the clock are the same in two states. -/
structure SameTables (s t : State) : Prop where
  room     : ∀ r, (t.room r).config = (s.room r).config
  station  : ∀ e, (t.station e).config = (s.station e).config
  ingest   : t.ingestMap = s.ingestMap
  schedule : t.schedule = s.schedule
  manager  : ∀ i : Fin 4, t.mgmt.managers[i].node = s.mgmt.managers[i].node
  timeouts : t.timeouts = s.timeouts
  reserve  : t.store.pageReserve = s.store.pageReserve
  clock    : t.clock = s.clock

theorem SameTables.refl : SameTables s s := ⟨fun _ => rfl, fun _ => rfl, rfl, rfl, fun _ => rfl, rfl, rfl, rfl⟩

theorem SameTables.trans (h : SameTables s t) (h' : SameTables t u) : SameTables s u :=
  ⟨fun r => (h'.room r).trans (h.room r), fun e => (h'.station e).trans (h.station e), h'.ingest.trans h.ingest,
    h'.schedule.trans h.schedule, fun i => (h'.manager i).trans (h.manager i), h'.timeouts.trans h.timeouts,
    h'.reserve.trans h.reserve, h'.clock.trans h.clock⟩

/-- Freeing a chain touches the page table and the free page queue alone (R34). -/
theorem freeChain_pageReserve (n : Nat) (first : Option Nat) (st : Store) : (freeChain n first st).pageReserve = st.pageReserve := by
  induction n generalizing first st with
  | zero => rfl
  | succ n ih =>
    cases first with
    | none => rfl
    | some f =>
      rw [freeChain]
      split
      · rfl
      · exact ih _ _

/-- No change writes a configuration table or the clock. -/
theorem Change.sameTables (hc : Change s t) : SameTables s t := by
  cases hc with
  | quiet _ hq =>
    have hrooms : t.rooms = s.rooms := congrArg Shape.rooms hq
    have hstations : t.handOff.stations = s.handOff.stations := congrArg Shape.stations hq
    have hmanagers : t.mgmt.managers = s.mgmt.managers := congrArg Shape.managers hq
    exact ⟨fun r => by rw [State.room, hrooms]; rfl, fun e => by rw [State.station, hstations]; rfl, congrArg Shape.ingestMap hq,
      congrArg Shape.schedule hq, fun i => by rw [hmanagers], congrArg Shape.timeouts hq, congrArg Shape.pageReserve hq,
      congrArg Shape.clock hq⟩
  | room r f hf _ =>
    refine { SameTables.refl with room := fun q => ?_ }
    rw [State.room_updRoom_eq]
    split
    · subst_vars; exact hf
    · rfl
  | station e f hf =>
    refine { SameTables.refl with station := fun q => ?_ }
    rw [State.station_updStation_eq]
    split
    · subst_vars; exact hf
    · rfl
  | manager m p =>
    refine { SameTables.refl with manager := fun i => ?_ }
    simp only [Fin.getElem_fin, Vector.getElem_set]
    split
    · simp [*]
    · rfl
  | port p f _ => cases p <;> exact { SameTables.refl with }
  | moved e x _ _ =>
    have keeps {β : Type} (g : State → β) := moveContext_keeps (g := g) (e := e) (x := x) (s := s)
    exact ⟨fun r => keeps (fun s => (s.room r).config) (fun _ _ _ => rfl) fun _ _ _ => rfl,
      fun q => keeps (fun s => (s.station q).config) (fun _ _ _ => rfl) fun _ _ _ => rfl,
      keeps State.ingestMap (fun _ _ _ => rfl) fun _ _ _ => rfl, keeps State.schedule (fun _ _ _ => rfl) fun _ _ _ => rfl,
      fun i => keeps (fun s => s.mgmt.managers[i].node) (fun _ _ _ => rfl) fun _ _ _ => rfl,
      keeps State.timeouts (fun _ _ _ => rfl) fun _ _ _ => rfl,
      keeps (fun s => s.store.pageReserve) (fun _ _ _ => rfl) fun _ _ _ => rfl,
      keeps State.clock (fun _ _ _ => rfl) fun _ _ _ => rfl⟩
  | freed k t _ _ => exact { SameTables.refl with reserve := freeChain_pageReserve _ _ _ }
  | linked k n rest t cell _ _ _ => rw [storeLinked_eq]; exact { SameTables.refl with }
  | wrote k t cell ht _ => rw [writeCell_eq cell ht]; exact { SameTables.refl with }
  | context _ _ _ _ => exact { SameTables.refl with }
  | take _ _ _ _ _ _ _ _ => exact { SameTables.refl with }
  | place _ _ _ _ _ => exact { SameTables.refl with }
  | opened _ _ _ _ _ _ _ _ => exact { SameTables.refl with }

theorem Changes.sameTables (h : Changes s t) : SameTables s t := by
  unfold Changes at h
  induction h with
  | refl => exact .refl
  | tail _ hc ih => exact ih.trans hc.sameTables

theorem SameTables.inRange (h : SameTables s t) (hs : TablesInRange s) : TablesInRange t := by
  obtain ⟨hr, he, hi, hd, hm, ht, hp⟩ := hs
  exact ⟨fun r => h.room r ▸ hr r, fun e => h.station e ▸ he e, h.ingest ▸ hi, h.schedule ▸ hd, fun i => h.manager i ▸ hm i,
    h.timeouts ▸ ht, h.reserve ▸ hp⟩

theorem monthLength_range (y m : Nat) : 28 ≤ monthLength y m ∧ monthLength y m ≤ 31 := by
  unfold monthLength
  repeat' split
  all_goals omega

/-- A midnight keeps the calendar legal, into the next month, year or century (R153). -/
theorem Calendar.nextDay_legal {c : Calendar} (h : c.legal) : c.nextDay.legal := by
  obtain ⟨hy1, hy2, hm1, hm2, hd1, hd2, hh, hmin, hs, ht, hw1, hw2⟩ := h
  have hw : 1 ≤ (if c.dow = 7 then 1 else c.dow + 1) ∧ (if c.dow = 7 then 1 else c.dow + 1) ≤ 7 := by split <;> omega
  have hl (y m : Nat) : 1 ≤ monthLength y m := le_trans (by decide) (monthLength_range y m).1
  unfold Calendar.nextDay
  dsimp only
  split
  · exact ⟨hy1, hy2, hm1, hm2, by dsimp only; omega, by dsimp only; omega, hh, hmin, hs, ht, hw⟩
  · split
    · exact ⟨hy1, hy2, by dsimp only; omega, by dsimp only; omega, le_refl _, hl _ _, hh, hmin, hs, ht, hw⟩
    · refine ⟨?_, ?_, le_refl _, by simp, le_refl _, hl _ _, hh, hmin, hs, ht, hw⟩ <;> dsimp only <;> split <;> omega

/-- A tick arrival keeps the calendar legal, whatever it rolls over (R152, R153). -/
theorem Calendar.addTick_legal {c : Calendar} (h : c.legal) : c.addTick.legal := by
  obtain ⟨hy1, hy2, hm1, hm2, hd1, hd2, hh, hmin, hs, ht, hw1, hw2⟩ := h
  unfold Calendar.addTick
  split
  · unfold Calendar.nextSecond
    dsimp only
    split
    · exact ⟨hy1, hy2, hm1, hm2, hd1, hd2, hh, hmin, by dsimp only; omega, by dsimp only; omega, hw1, hw2⟩
    · split
      · exact ⟨hy1, hy2, hm1, hm2, hd1, hd2, hh, by dsimp only; omega, by simp, by simp, hw1, hw2⟩
      · split
        · exact ⟨hy1, hy2, hm1, hm2, hd1, hd2, by dsimp only; omega, by simp, by simp, by simp, hw1, hw2⟩
        · exact Calendar.nextDay_legal
            ⟨hy1, hy2, hm1, hm2, hd1, hd2, Nat.zero_le _, Nat.zero_le _, Nat.zero_le _, Nat.zero_le _, hw1, hw2⟩
  · rename_i hl
    simp only [Calendar.atLastTick, beq_iff_eq] at hl
    exact ⟨hy1, hy2, hm1, hm2, hd1, hd2, hh, hmin, hs, by dsimp only; omega, hw1, hw2⟩

/-- A table entry set in a vector, in range when the entry and the others are. -/
theorem setIfInBounds_all {α : Type} {n : Nat} {P : α → Prop} {v : Vector α n} (h : ∀ i : Fin n, P v[i]) {x : α} (hx : P x) (k : Nat)
    (i : Fin n) : P (v.setIfInBounds k x)[i] := by
  simp only [Fin.getElem_fin, Vector.getElem_setIfInBounds]
  split
  · exact hx
  · exact h i

/-- Every move keeps the tables in range and the clock legal: a table is written with checked values only (R187). -/
theorem Move.tablesInRange (hm : Move s t) (h : TablesInRange s ∧ s.clock.legal) : TablesInRange t ∧ t.clock.legal := by
  obtain ⟨hs, hl⟩ := h
  have ⟨hr, he, hi, hd, hn, ht, hp⟩ := hs
  cases hm with
  | change _ hc => exact ⟨hc.sameTables.inRange hs, hc.sameTables.clock ▸ hl⟩
  | tick => exact ⟨hs, Calendar.addTick_legal hl⟩
  | clock _ hc => exact ⟨hs, hc⟩
  | power _ => exact ⟨hs, hl⟩
  | op _ => exact ⟨hs, hl⟩
  | ingest i x hx => exact ⟨⟨hr, he, setIfInBounds_all hi hx i, hd, hn, ht, hp⟩, hl⟩
  | schedule i x hx => exact ⟨⟨hr, he, hi, setIfInBounds_all hd hx i, hn, ht, hp⟩, hl⟩
  | managerNode i x hx => exact ⟨⟨hr, he, hi, hd, setIfInBounds_all (P := fun m : Manager => m.node ≠ 255) hn hx i, ht, hp⟩, hl⟩
  | statusItem i x => exact ⟨hs, hl⟩
  | period _ => exact ⟨hs, hl⟩
  | reserve _ hb => exact ⟨⟨hr, he, hi, hd, hn, ht, hb⟩, hl⟩
  | timeouts _ hx => exact ⟨⟨hr, he, hi, hd, hn, hx, hp⟩, hl⟩
  | roomConfig r x hx =>
    refine ⟨⟨fun q => ?_, he, hi, hd, hn, ht, hp⟩, hl⟩
    rw [State.room_updRoom_eq]
    split
    · exact hx
    · exact hr q
  | stationConfig e x hx =>
    refine ⟨⟨hr, fun q => ?_, hi, hd, hn, ht, hp⟩, hl⟩
    rw [State.station_updStation_eq]
    split
    · exact hx
    · exact he q

/-- The reset values are in range, with any straps (R166, R184). -/
theorem afterReset_tablesInRange (straps : Straps) (clock : Calendar) (l : List Instr) :
    TablesInRange (State.afterReset straps clock l) := by
  have hnode : strapNode straps.mgr ≠ 255 := by
    unfold strapNode
    split
    · decide
    · simp_all
  have hroom : defaultRoomConfig.inRange := by decide
  have hstation : defaultStationConfig.inRange := by decide
  have hingest : defaultIngest.inRange := by decide
  have hschedule : defaultSchedule.inRange := by decide
  have htimeouts : defaultTimeouts.inRange := by decide
  refine ⟨fun r => ?_, fun e => ?_, fun i => ?_, fun i => ?_, fun i => ?_, htimeouts, by simp [State.afterReset, resetStore]⟩
  · simpa [State.afterReset, State.room, resetRoom] using hroom
  · simpa [State.afterReset, State.station, resetHandOff, freshStation] using hstation
  · simpa [State.afterReset] using hingest
  · simpa [State.afterReset] using hschedule
  · simp only [State.afterReset, resetMgmt, resetManagers, Fin.getElem_fin, Vector.getElem_set, Vector.getElem_replicate]
    split
    · exact hnode
    · decide

end Sys2Proof.Machine

/-- Settles O56: a change leaves the tables and the clock alone, each other move writes a value in range, and so do the resets. -/
theorem tablesStayInRange : Obligations.TablesStayInRange := fun _ _ hs h =>
  Sys2Proof.Machine.step_keeps (P := fun s => Sys2Proof.Machine.TablesInRange s ∧ s.clock.legal)
    (fun _ _ hm => hm.tablesInRange) (fun _ _ h => h)
    (fun s straps clock hs hk => ⟨Sys2Proof.Machine.afterReset_tablesInRange straps clock s.pending, by
      rcases hk with rfl | rfl | rfl
      · exact hs.2
      · exact hs.2
      · show Sys2Proof.Machine.lostCalendar.legal; decide⟩) hs h

/-! ## What is told: frames out and alerts -/

namespace Sys2Proof.Machine

variable {s t u : State}

/-- From `s` to `t` only frames were sent and alerts reported: the Link Interface and the Management Unit may differ, no other block. -/
def Told (s t : State) : Prop := t = { s with link := t.link, mgmt := t.mgmt }

theorem Told.refl : Told s s := rfl

theorem Told.trans (h : Told s t) (h' : Told t u) : Told s u := by
  unfold Told at *
  rw [h', h]

theorem forEach_told {α : Type} {f : α → State → State} (h : ∀ x s, Told s (f x s)) (xs : List α) (s : State) :
    Told s (forEach xs f s) := by
  induction xs generalizing s with
  | nil => exact .refl
  | cons x xs ih => exact (h x s).trans (ih _)

theorem Told.rooms (h : Told s t) : t.rooms = s.rooms := by rw [h]
theorem Told.room (h : Told s t) (r : RoomId) : t.room r = s.room r := by rw [h]; rfl
theorem Told.takeTable (h : Told s t) : t.takeTable = s.takeTable := by rw [h]
theorem Told.take (h : Told s t) (k : Nat) : t.take? k = s.take? k := by rw [h]; rfl
theorem Told.store (h : Told s t) : t.store = s.store := by rw [h]
theorem Told.markerPool (h : Told s t) : t.markerPool = s.markerPool := by rw [h]
theorem Told.handOff (h : Told s t) : t.handOff = s.handOff := by rw [h]
theorem Told.station (h : Told s t) (e : StationId) : t.station e = s.station e := by rw [h]; rfl
theorem Told.playback (h : Told s t) : t.playback = s.playback := by rw [h]
theorem Told.context (h : Told s t) (e : StationId) : t.context e = s.context e := by rw [h]; rfl
theorem Told.clock (h : Told s t) : t.clock = s.clock := by rw [h]
theorem Told.timeouts (h : Told s t) : t.timeouts = s.timeouts := by rw [h]

theorem originate_told (p : Port) (fr : Frame) (s : State) : Told s (originate p fr s) := by
  unfold originate Told
  split <;> cases p <;> rfl

theorem stationNotice_told (e : StationId) (b : List Byte) (s : State) : Told s (stationNotice e b s) := originate_told _ _ _

theorem alertManager_told (a : Alert) (m : Manager) (s : State) : Told s (alertManager a m s) := by
  unfold alertManager
  split
  · exact .refl
  · exact (originate_told _ _ s).trans rfl

theorem reportAlert_told (a : Alert) (s : State) : Told s (reportAlert a s) := by
  unfold reportAlert
  split
  · exact .refl
  · exact Told.trans (t := { s with mgmt := { s.mgmt with latches := s.mgmt.latches ||| alertBit a } }) rfl
      (forEach_told (fun m s => alertManager_told a m s) _ _)

theorem sendResponse_told (p : Port) (fr : Frame) (s : State) : Told s (sendResponse p fr s) := by
  unfold sendResponse
  split
  · exact originate_told _ _ _
  · split
    · cases p <;> rfl
    · exact (originate_told _ _ s).trans rfl

theorem respond_told (c : Ctl) (cmd : CommandName) (r : Result) (b : List Byte) (s : State) : Told s (respond c cmd r b s) := by
  unfold respond
  dsimp only
  split
  · exact originate_told _ _ _
  · exact sendResponse_told _ _ _

theorem originate_mgmt (p : Port) (fr : Frame) (s : State) : (originate p fr s).mgmt = s.mgmt := by
  unfold originate
  split <;> simp

theorem alertManager_latches (a : Alert) (m : Manager) (s : State) : (alertManager a m s).mgmt.latches = s.mgmt.latches := by
  unfold alertManager
  split
  · rfl
  · simp [State.countMgmt, originate_mgmt]

/-- What a report latches: its own alert beside those latched before (R193). -/
theorem reportAlert_latches (a : Alert) (s : State) :
    (reportAlert a s).mgmt.latches = if s.latched a then s.mgmt.latches else s.mgmt.latches ||| alertBit a := by
  unfold reportAlert
  split
  · rfl
  · exact forEach_keeps (g := fun s => s.mgmt.latches) (fun m s => alertManager_latches a m s) _ _

theorem getLsbD_alertBit (a : Alert) : (alertBit a).getLsbD a.code = true := by cases a <;> decide

/-- A reported alert is latched (R193). -/
theorem reportAlert_latched (a : Alert) (s : State) : (reportAlert a s).latched a = true := by
  unfold State.latched
  rw [reportAlert_latches]
  split
  · assumption
  · rw [BitVec.getLsbD_or, getLsbD_alertBit, Bool.or_true]

/-! ## Noting the last port -/

/-- Noting the last port writes the manager list or the station table, and nothing else (R85, R184). -/
theorem takenFrom_eq (p : Port) (n : Byte) (s : State) :
    takenFrom p n s = { s with mgmt := (takenFrom p n s).mgmt, handOff := (takenFrom p n s).handOff } := by
  unfold takenFrom
  split
  · rfl
  · split <;> rfl

section
variable (p : Port) (n : Byte)

@[simp] theorem takenFrom_power : (takenFrom p n s).power = s.power := by rw [takenFrom_eq]
@[simp] theorem takenFrom_room (r : RoomId) : (takenFrom p n s).room r = s.room r := by rw [takenFrom_eq]; rfl
@[simp] theorem takenFrom_takeTable : (takenFrom p n s).takeTable = s.takeTable := by rw [takenFrom_eq]
@[simp] theorem takenFrom_take (k : Nat) : (takenFrom p n s).take? k = s.take? k := by rw [takenFrom_eq]; rfl
@[simp] theorem takenFrom_cellsOf (k : Nat) : (takenFrom p n s).cellsOf k = s.cellsOf k := by rw [takenFrom_eq]; rfl
@[simp] theorem takenFrom_numberOf (k : Nat) : (takenFrom p n s).numberOf k = s.numberOf k := by rw [takenFrom_eq]; rfl
@[simp] theorem takenFrom_lowestFreeSlot : (takenFrom p n s).lowestFreeSlot = s.lowestFreeSlot := by rw [takenFrom_eq]; rfl
@[simp] theorem takenFrom_markerPool : (takenFrom p n s).markerPool = s.markerPool := by rw [takenFrom_eq]
@[simp] theorem takenFrom_store : (takenFrom p n s).store = s.store := by rw [takenFrom_eq]
@[simp] theorem takenFrom_playback : (takenFrom p n s).playback = s.playback := by rw [takenFrom_eq]
@[simp] theorem takenFrom_link : (takenFrom p n s).link = s.link := by rw [takenFrom_eq]
@[simp] theorem takenFrom_now : (takenFrom p n s).now = s.now := by rw [takenFrom_eq]; rfl
@[simp] theorem takenFrom_notConsole : (takenFrom p n s).notConsole = s.notConsole := by rw [takenFrom_eq]
@[simp] theorem takenFrom_ingestCounters : (takenFrom p n s).ingestCounters = s.ingestCounters := by rw [takenFrom_eq]
@[simp] theorem takenFrom_currentCycle : (takenFrom p n s).currentCycle = s.currentCycle := by rw [takenFrom_eq]
@[simp] theorem takenFrom_timeouts : (takenFrom p n s).timeouts = s.timeouts := by rw [takenFrom_eq]
@[simp] theorem takenFrom_ingestMatch (src channel : Byte) : (takenFrom p n s).ingestMatch src channel = s.ingestMatch src channel := by
  rw [takenFrom_eq]; rfl
@[simp] theorem takenFrom_findConsole (m : Byte) : (takenFrom p n s).findConsole m = s.findConsole m :=
  findConsole_of_rooms (takenFrom_rooms p n) m

end

/-! ## Reading a take -/

theorem numberOf_of {k : Nat} {t : Take} (h : s.take? k = some t) : s.numberOf k = t.number := by simp [State.numberOf, h]

theorem cellsOf_of {k : Nat} {t : Take} (h : s.take? k = some t) : s.cellsOf k = t.cells := by simp [State.cellsOf, h]

theorem openTakeInfo_of {r : RoomId} {k : Nat} {t : Take} (ho : (s.room r).openTake = some k) (h : s.take? k = some t) :
    s.openTakeInfo r = (t.number, t.cells) := by
  simp [State.openTakeInfo, ho, numberOf_of h, cellsOf_of h]

/-! ## Marks at a room (R17) -/

section
variable {m : Mark} {r : RoomId} {k : RoomId → State → State}

/-- A mark from no console only adds to NOT_CONSOLE (R17). -/
theorem takeMark_notConsole (hp : s.power = .on) (h : s.findConsole m.src = none) :
    takeMark m k s = { takenFrom m.port m.src s with notConsole := s.notConsole + 1 } := by
  simp [takeMark, whenOn, hp, h]

/-- A CLOSED room refuses every mark (R17). -/
theorem takeMark_closed (h : FromConsole m r s) (hc : (s.room r).state = .closed) :
    takeMark m k s = refuseMark r (takenFrom m.port m.src s) := by
  simp [takeMark, whenOn, h.1, h.2, hc]

/-- A mark at a room that is not CLOSED is carried out on the state with the last port noted (R17). -/
theorem takeMark_of (h : FromConsole m r s) (hc : (s.room r).state ≠ .closed) :
    takeMark m k s = k r (takenFrom m.port m.src s) := by
  simp [takeMark, whenOn, h.1, h.2, hc]

end

/-! ## Cut requests that are not made (R16, R50, R51) -/

section
variable {r : RoomId} {cause : CutCause} {source : Byte}

/-- A cut request at a room with a deferred cut is absorbed (R16). -/
theorem requestCut_absorbed (hc : (s.room r).state ≠ .closed) (h : (s.room r).deferred ≠ none) :
    requestCut r cause source s = (s, .absorbed) := by
  simp [requestCut, hc, Option.isSome_iff_ne_none, h]

/-- Why a cut is deferred, NO_SLOT before NO_MARKERS (R51). -/
def State.deferReason (s : State) : DeferReason := if s.lowestFreeSlot = none then .noSlot else .noMarkers

/-- A cut for which there is no FREE slot, or not the marker entries, is left undone (R50, R51). -/
theorem tryCut_short {k : Nat} (ho : (s.room r).openTake = some k)
    (h : s.lowestFreeSlot = none ∨ s.markerPool.free < (s.room r).cutNeeds cause) :
    tryCut r cause source s = (s, .deferred s.deferReason) := by
  unfold tryCut State.deferReason
  cases hl : s.lowestFreeSlot with
  | none => simp [ho]
  | some k' => simp [ho, h.resolve_left (by simp [hl])]

/-- The state once a cut at a room is deferred (R51). -/
def cutDeferred (r : RoomId) (cause : CutCause) (s : State) : State :=
  reportAlert .cutDeferred ((s.countTakes fun k => { k with deferredCuts := k.deferredCuts + 1 }).updRoom r fun x =>
    { x with deferred := some cause })

theorem requestCut_short {k : Nat} (hc : (s.room r).state ≠ .closed) (hd : (s.room r).deferred = none)
    (ho : (s.room r).openTake = some k) (h : s.lowestFreeSlot = none ∨ s.markerPool.free < (s.room r).cutNeeds cause) :
    requestCut r cause source s = (cutDeferred r cause s, .deferred s.deferReason) := by
  simp [requestCut, hc, hd, tryCut_short ho h, cutDeferred]

/-- What a deferral leaves: the cause kept in the room, DEFERRED_CUTS raised, CUT_DEFERRED latched, takes and markers as before (R51, R64). -/
theorem cutDeferred_spec (r : RoomId) (cause : CutCause) (s : State) :
    (cutDeferred r cause s).room r = { s.room r with deferred := some cause } ∧
      (cutDeferred r cause s).takeTable.takes = s.takeTable.takes ∧ (cutDeferred r cause s).markerPool = s.markerPool ∧
      (cutDeferred r cause s).takeTable.counters.deferredCuts = s.takeTable.counters.deferredCuts + 1 ∧
      (cutDeferred r cause s).latched .cutDeferred = true := by
  have ht := reportAlert_told .cutDeferred
    ((s.countTakes fun k => { k with deferredCuts := k.deferredCuts + 1 }).updRoom r fun x => { x with deferred := some cause })
  unfold cutDeferred
  exact ⟨(ht.room r).trans (by simp), by rw [ht.takeTable]; rfl, by rw [ht.markerPool]; rfl, by rw [ht.takeTable]; rfl, reportAlert_latched _ _⟩

end

end Sys2Proof.Machine

namespace Sys2Proof.Machine

variable {s : State}

/-- An accepted CUT_TAKE makes its request and answers what came of it (R60). -/
theorem execCutTake_of {c : Ctl} {b : Byte} {r : RoomId} (hf : FromManager c s) (hr : roomOfByte b = some r) (hop : s.mgmt.op = .run)
    (hc : (s.room r).state ≠ .closed) :
    exec (.cutTake c b) s = .next (respond c .cutTake .ok
      (cutFields (requestCut r .manager c.src (handled c .cutTake s)).1 r (requestCut r .manager c.src (handled c .cutTake s)).2)
      (requestCut r .manager c.src (handled c .cutTake s)).1) :=
  congrArg Host.Outcome.next ((managerCommand_of hf).trans (by simp [hr, hop, hc]))

end Sys2Proof.Machine

open Sys2Proof.Machine in
/-- Settles O14: the mark reaches the cut request, which a deferred cut absorbs. -/
theorem cutNowRequestsAConsoleCut : Obligations.CutNowRequestsAConsoleCut := by
  intro m r s hm hc
  have he : exec (.cutNow m) s = .next (requestCut r .console m.src (takenFrom m.port m.src s)).1 :=
    congrArg Host.Outcome.next (takeMark_of hm hc)
  refine ⟨he, fun hd => ?_⟩
  rw [he, requestCut_absorbed (by simpa using hc) (by simpa using hd)]

open Sys2Proof.Machine in
/-- Settles O15: the request finds the cut short of what it needs, by CUT_NOW and by CUT_TAKE, or absorbed. -/
theorem cutWithoutASlotIsDeferred : Obligations.CutWithoutASlotIsDeferred := by
  refine ⟨fun m r k s hm hc hd ho hs => ?_, fun c b r k t s hf hr hop hc ho ht => ?_⟩
  · have he := (cutNowRequestsAConsoleCut m r s hm hc).1
    rw [requestCut_short (k := k) (by simpa using hc) (by simpa using hd) (by simpa using ho) (by simpa using hs)] at he
    obtain ⟨hroom, htakes, hpool, hcount, hlatched⟩ := cutDeferred_spec r .console (takenFrom m.port m.src s)
    exact ⟨_, he, by simpa using hroom, by simpa using hcount, by simpa using htakes, hlatched⟩
  · have he := execCutTake_of hf hr hop hc
    refine ⟨fun hd hs => ?_, fun cause hd => ?_⟩
    · rw [requestCut_short (k := k) (by simpa using hc) (by simpa using hd) (by simpa using ho) (by simpa using hs)] at he
      obtain ⟨hroom, htakes, hpool, hcount, hlatched⟩ := cutDeferred_spec r .manager (handled c .cutTake s)
      refine ⟨_, he.trans ?_, by simpa using hroom, by simpa using htakes, by simpa using hpool, by simpa using hcount, hlatched⟩
      have hi := openTakeInfo_of (r := r) (k := k) (t := t) (s := cutDeferred r .manager (handled c .cutTake s))
        (by rw [hroom]; simpa using ho) (by rw [State.take?, htakes]; simpa [State.take?] using ht)
      simp only [cutFields, deferredFields, hi, hroom, State.deferReason, handled_lowestFreeSlot, enumBytes, Option.map_some,
        Option.getD_some]
      split <;> rfl
    · rw [requestCut_absorbed (by simpa using hc) (by simp [hd])] at he
      simpa [cutFields, deferredFields, hd, openTakeInfo_of (r := r) (k := k) (t := t) (s := handled c .cutTake s) (by simpa using ho)
        (by simpa using ht), enumBytes] using he

/-! ## State marks (R17 to R20) -/

namespace Sys2Proof.Machine

variable {s : State}

/-- A marker placed in the take of a slot, with one entry the fewer free. -/
def State.placed (s : State) (k : Nat) (t : Take) (m : Marker) : State :=
  { s.setTake k (t.withMarker m) with markerPool := { s.markerPool with free := s.markerPool.free - 1 } }

@[simp] theorem State.placed_take (s : State) (k : Nat) (t : Take) (m : Marker) : (s.placed k t m).take? k = some (t.withMarker m) :=
  mapGet_mapSet_same

@[simp] theorem State.placed_room (s : State) (k : Nat) (t : Take) (m : Marker) (r : RoomId) : (s.placed k t m).room r = s.room r := rfl

@[simp] theorem State.placed_now (s : State) (k : Nat) (t : Take) (m : Marker) : (s.placed k t m).now = s.now := rfl

@[simp] theorem State.placed_markerPool (s : State) (k : Nat) (t : Take) (m : Marker) :
    (s.placed k t m).markerPool = { s.markerPool with free := s.markerPool.free - 1 } := rfl

@[simp] theorem withMarker_cells (t : Take) (m : Marker) : (t.withMarker m).cells = t.cells := rfl

/-- A state or system marker is placed while an entry is free (R70). -/
theorem placeMarker_of {k : Nat} {t : Take} {m : Marker} (h : s.take? k = some t) (ha : m.kind.isAnnotation = false)
    (hf : 0 < s.markerPool.free) : placeMarker k m s = (s.placed k t m, some t.nextMarker) := by
  simp [placeMarker, h, State.grants, ha, hf, State.placed]

theorem placeCounted_of {k : Nat} {t : Take} {m : Marker} (h : s.take? k = some t) (ha : m.kind.isAnnotation = false)
    (hf : 0 < s.markerPool.free) : placeCounted k m s = s.placed k t m := congrArg Prod.fst (placeMarker_of h ha hf)

/-- A state marker stands at the live position of the room's open take (R77). -/
theorem placeStateMarker_of {r : RoomId} {kind : MarkerKind} {source : Byte} {n k : Nat} {t : Take} (ho : (s.room r).openTake = some k)
    (h : s.take? k = some t) (ha : kind.isAnnotation = false) (hf : 0 < s.markerPool.free) :
    placeStateMarker r kind source n s = s.placed k t { plainMarker kind t.cells s.now source with offCycles := n } := by
  simp only [placeStateMarker, ho, cellsOf_of h]
  exact placeCounted_of h ha hf

theorem placeStateMarker_plain {r : RoomId} {kind : MarkerKind} {source : Byte} {k : Nat} {t : Take} (ho : (s.room r).openTake = some k)
    (h : s.take? k = some t) (ha : kind.isAnnotation = false) (hf : 0 < s.markerPool.free) :
    placeStateMarker r kind source 0 s = s.placed k t (plainMarker kind t.cells s.now source) := placeStateMarker_of ho h ha hf

/-- A state mark with the entries it needs is carried out (R17). -/
theorem withEntries_of {r : RoomId} {n : Nat} {k : State → State} (h : n ≤ s.markerPool.free) : withEntries r n k s = k s :=
  if_neg (by omega)

/-- A state mark short of entries is refused, and MARK_REFUSED reported (R17). -/
theorem withEntries_short {r : RoomId} {n : Nat} {k : State → State} (h : s.markerPool.free < n) :
    withEntries r n k s = reportAlert .markRefused (refuseMark r s) := if_pos h

/-- What a room's going off the record leaves, its seal open (R18). -/
theorem goOff_open {r : RoomId} {k : Nat} {t : Take} (source : Byte) (ho : (s.room r).openTake = some k) (h : s.take? k = some t)
    (hs : (s.room r).sealed = false) (hf : 1 ≤ s.markerPool.free) :
    goOff r source s = (s.placed k t (plainMarker .offRecordBegin t.cells s.now source)).updRoom r fun x =>
      { x with state := .offRecord, sealed := false, offCycles := 0 } := by
  simp only [goOff, hs, Bool.false_eq_true, if_false]
  rw [placeStateMarker_plain ho h rfl hf]

/-- What a sealed room's going off the record leaves (R18). -/
theorem goOff_sealed {r : RoomId} {k : Nat} {t : Take} (source : Byte) (ho : (s.room r).openTake = some k) (h : s.take? k = some t)
    (hs : (s.room r).sealed = true) (hf : 2 ≤ s.markerPool.free) :
    goOff r source s =
      ((s.placed k t (plainMarker .sealEnd t.cells s.now source)).placed k (t.withMarker (plainMarker .sealEnd t.cells s.now source))
        (plainMarker .offRecordBegin t.cells s.now source)).updRoom r fun x =>
          { x with state := .offRecord, sealed := false, offCycles := 0 } := by
  simp only [goOff, hs, if_true]
  rw [placeStateMarker_plain ho h rfl (by omega), placeStateMarker_plain (by simpa using ho) (State.placed_take _ _ _ _) rfl
    (by simp only [State.placed_markerPool]; omega)]
  rfl

theorem goOn_of {r : RoomId} {k : Nat} {t : Take} (source : Byte) (ho : (s.room r).openTake = some k) (h : s.take? k = some t)
    (hf : 1 ≤ s.markerPool.free) :
    goOn r source s = (s.placed k t { plainMarker .offRecordEnd t.cells s.now source with offCycles := (s.room r).offCycles }).updRoom r
      fun x => { x with state := .onRecord, offCycles := 0 } := by
  rw [goOn, placeStateMarker_of ho h rfl hf]

theorem setSeal_of {r : RoomId} {k : Nat} {t : Take} {kind : MarkerKind} (b : Bool) (source : Byte) (ho : (s.room r).openTake = some k)
    (h : s.take? k = some t) (ha : kind.isAnnotation = false) (hf : 1 ≤ s.markerPool.free) :
    setSeal r kind b source s = (s.placed k t (plainMarker kind t.cells s.now source)).updRoom r fun x => { x with sealed := b } := by
  rw [setSeal, placeStateMarker_plain ho h ha hf]

/-- A mark at a room that is not CLOSED comes to what its own part makes of the state with the last port noted. -/
theorem exec_mark_of {i : Instr} {m : Mark} {r : RoomId} {f : RoomId → State → State} {u : State} (hm : FromConsole m r s)
    (hc : (s.room r).state ≠ .closed) (he : exec i s = .next (takeMark m f s)) (hu : f r (takenFrom m.port m.src s) = u) :
    exec i s = .next u := by
  rw [he, takeMark_of hm hc, hu]

end Sys2Proof.Machine

namespace Sys2Proof.Machine

variable {s : State} {m : Mark} {r : RoomId}

theorem exec_goOffRecord_of (hm : FromConsole m r s) (hst : (s.room r).state = .onRecord)
    (hf : (if (s.room r).sealed then 2 else 1) ≤ s.markerPool.free) :
    exec (.goOffRecord m) s = .next (goOff r m.src (takenFrom m.port m.src s)) :=
  exec_mark_of hm (by simp [hst]) rfl ((if_pos (by simpa using hst)).trans (withEntries_of (by simpa using hf)))

theorem exec_goOnRecord_of (hm : FromConsole m r s) (hst : (s.room r).state = .offRecord) (hf : 1 ≤ s.markerPool.free) :
    exec (.goOnRecord m) s = .next (goOn r m.src (takenFrom m.port m.src s)) :=
  exec_mark_of hm (by simp [hst]) rfl ((if_pos (by simpa using hst)).trans (withEntries_of (by simpa using hf)))

theorem exec_sealRecord_of (hm : FromConsole m r s) (hst : (s.room r).state = .onRecord) (hs : (s.room r).sealed = false)
    (hf : 1 ≤ s.markerPool.free) :
    exec (.sealRecord m) s = .next (setSeal r .sealBegin true m.src (takenFrom m.port m.src s)) :=
  exec_mark_of hm (by simp [hst]) rfl ((if_pos (by simpa [hs] using hst)).trans (withEntries_of (by simpa using hf)))

theorem exec_unsealRecord_of (hm : FromConsole m r s) (hst : (s.room r).state = .onRecord) (hs : (s.room r).sealed = true)
    (hf : 1 ≤ s.markerPool.free) :
    exec (.unsealRecord m) s = .next (setSeal r .sealEnd false m.src (takenFrom m.port m.src s)) :=
  exec_mark_of hm (by simp [hst]) rfl ((if_pos (by simpa [hs] using hst)).trans (withEntries_of (by simpa using hf)))

end Sys2Proof.Machine

open Sys2Proof Sys2Proof.Machine in
/-- Settles O35: each mark reaches its room's change, and its markers are granted. -/
theorem stateMarksComplete : Obligations.StateMarksComplete := by
  intro m r k t s hm ho ht
  have ho' : ((takenFrom m.port m.src s).room r).openTake = some k := by simpa using ho
  have ht' : (takenFrom m.port m.src s).take? k = some t := by simpa using ht
  refine ⟨fun hst hse hf => ⟨_, exec_goOffRecord_of hm hst (by simpa [hse] using hf), ?_⟩,
    fun hst hse hf => ⟨_, exec_goOffRecord_of hm hst (by simpa [hse] using hf), ?_⟩,
    fun hst hf => ⟨_, exec_goOnRecord_of hm hst hf, ?_⟩,
    fun hst hse hf => ⟨_, exec_sealRecord_of hm hst hse hf, ?_⟩,
    fun hst hse hf => ⟨_, exec_unsealRecord_of hm hst hse hf, ?_⟩⟩
  · rw [goOff_open m.src ho' ht' (by simpa using hse) (by simpa using hf)]; simp
  · rw [goOff_sealed m.src ho' ht' (by simpa using hse) (by simpa using hf)]; simp [Nat.sub_sub]
  · rw [goOn_of m.src ho' ht' (by simpa using hf)]; simp
  · rw [setSeal_of true m.src ho' ht' rfl (by simpa using hf)]; simp
  · rw [setSeal_of false m.src ho' ht' rfl (by simpa using hf)]; simp

namespace Sys2Proof.Machine

variable {s : State}

/-- Every mark's command is a mark at a room, with a part of its own (R17). -/
theorem mark_takeMark {i : Instr} {m : Mark} (h : (∃ kind, i = .annotationMark kind m) ∨ i = .goOffRecord m ∨ i = .goOnRecord m ∨
    i = .sealRecord m ∨ i = .unsealRecord m ∨ i = .cutNow m) :
    ∃ f : RoomId → State → State, ∀ s, exec i s = .next (takeMark m f s) := by
  rcases h with ⟨kind, rfl⟩ | rfl | rfl | rfl | rfl | rfl <;> exact ⟨_, fun _ => rfl⟩

/-- What a state mark short of its entries leaves: the refusal counted and MARK_REFUSED latched, all else of the room, the take and the Marker
Pool as before (R17, R25). -/
theorem refuseMark_reported (r : RoomId) (s : State) :
    (reportAlert .markRefused (refuseMark r s)).latched .markRefused = true ∧
      (reportAlert .markRefused (refuseMark r s)).takeTable = s.takeTable ∧
      (reportAlert .markRefused (refuseMark r s)).markerPool = s.markerPool ∧
      (reportAlert .markRefused (refuseMark r s)).room r = { s.room r with
        counters := { (s.room r).counters with marksRefused := (s.room r).counters.marksRefused + 1 } } := by
  have ht := reportAlert_told .markRefused (refuseMark r s)
  refine ⟨reportAlert_latched _ _, ht.takeTable.trans rfl, ht.markerPool.trans rfl, (ht.room r).trans ?_⟩
  simp [refuseMark, State.countRoom]

end Sys2Proof.Machine

open Sys2Proof Sys2Proof.Machine in
/-- Settles O36: the console, the room's state and then the entries are checked in that order. -/
theorem marksAreRefused : Obligations.MarksAreRefused := by
  intro i m s hp hi
  obtain ⟨f, hf⟩ := mark_takeMark hi
  refine ⟨fun hn => by rw [hf, takeMark_notConsole hp hn], fun r hr hcase => ?_, fun r hr hcase => ?_⟩
  · by_cases hc : (s.room r).state = .closed
    · rw [hf, takeMark_closed ⟨hp, hr⟩ hc]; rfl
    · rcases hcase.resolve_left hc with ⟨rfl, hs⟩ | ⟨rfl, hs⟩ | ⟨rfl, hs⟩ | ⟨rfl, hs⟩
      · exact exec_mark_of ⟨hp, hr⟩ hc rfl (if_neg (by simp [hs]))
      · exact exec_mark_of ⟨hp, hr⟩ hc rfl (if_neg (by simp [hs]))
      · exact exec_mark_of ⟨hp, hr⟩ hc rfl (if_neg (by rcases hs with hs | hs <;> simp [hs]))
      · exact exec_mark_of ⟨hp, hr⟩ hc rfl (if_neg (by rcases hs with hs | hs <;> simp [hs]))
  · have hc : (s.room r).state ≠ .closed := by rcases hcase with ⟨_, hs, _⟩ | ⟨_, hs, _⟩ | ⟨_, hs, _⟩ | ⟨_, hs, _⟩ <;> simp [hs]
    have hu := refuseMark_reported r (takenFrom m.port m.src s)
    refine ⟨_, rfl, ?_, by simpa [refuseMark] using hu⟩
    rcases hcase with ⟨rfl, hs, he⟩ | ⟨rfl, hs, he⟩ | ⟨rfl, hs, hse, he⟩ | ⟨rfl, hs, hse, he⟩
    · exact exec_mark_of ⟨hp, hr⟩ hc rfl ((if_pos (by simpa using hs)).trans (withEntries_short (by simpa using he)))
    · exact exec_mark_of ⟨hp, hr⟩ hc rfl ((if_pos (by simpa using hs)).trans (withEntries_short (by simp [he])))
    · exact exec_mark_of ⟨hp, hr⟩ hc rfl ((if_pos (by simpa [hse] using hs)).trans (withEntries_short (by simp [he])))
    · exact exec_mark_of ⟨hp, hr⟩ hc rfl ((if_pos (by simpa [hse] using hs)).trans (withEntries_short (by simp [he])))

/-! ## AUDIO frames (R6 to R9) -/

namespace Sys2Proof.Machine

variable {s t u : State} {src : Byte}

/-- From `s` to `t` only objects of AUDIO frames were taken: the rooms and the Ingest Mapper's counters may differ, no other block (R7). -/
def Heard (s t : State) : Prop := t = { s with rooms := t.rooms, ingestCounters := t.ingestCounters }

theorem Heard.trans (h : Heard s t) (h' : Heard t u) : Heard s u := by
  unfold Heard at *
  rw [h', h]

theorem takeObject_heard (src : Byte) (o : AudioObject) (s : State) : Heard s (takeObject src o s) := by
  unfold takeObject
  split
  · rfl
  · split
    · rfl
    · split
      · split
        · unfold placeGranule
          dsimp only
          split
          · rfl
          · split <;> rfl
        · rfl
      · rfl

theorem takeObjects_heard (src : Byte) (os : List AudioObject) (s : State) : Heard s (forEach os (takeObject src) s) := by
  induction os generalizing s with
  | nil => rfl
  | cons o os ih => exact (takeObject_heard src o s).trans (ih _)

theorem takeAudio_heard (src : Byte) (n : Word) (os : List AudioObject) (s : State) : Heard s (takeAudio src n os s) := by
  unfold takeAudio
  split
  · exact takeObjects_heard src os s
  · rfl

theorem Heard.inCycle (h : Heard s t) (n : Word) : t.inCycle n = s.inCycle n := by rw [h]; rfl

/-- Noting the same port twice is noting it once. -/
theorem takenFrom_idem (p : Port) (n : Byte) (s : State) : takenFrom p n (takenFrom p n s) = takenFrom p n s := by
  have hm : (takenFrom p n s).findManager n = s.findManager n := findManager_of_nodes (takenFrom_managers p n) n
  have hs : (takenFrom p n s).findStation n = s.findStation n := findStation_of_nodes (takenFrom_station_config p n) n
  rw [takenFrom, hm, hs]
  unfold takenFrom
  split
  · simp
  · split
    · simp [State.updStation, State.station]
    · rfl

/-- A state whose sender's last port is noted keeps it while objects are taken. -/
theorem Heard.takenFrom_fix (h : Heard s t) {p : Port} {n : Byte} (hs : takenFrom p n s = s) : takenFrom p n t = t := by
  have hc : takenFrom p n { s with rooms := t.rooms, ingestCounters := t.ingestCounters } =
      { takenFrom p n s with rooms := t.rooms, ingestCounters := t.ingestCounters } := by
    have hm : ({ s with rooms := t.rooms, ingestCounters := t.ingestCounters } : State).findManager n = s.findManager n := rfl
    have he : ({ s with rooms := t.rooms, ingestCounters := t.ingestCounters } : State).findStation n = s.findStation n := rfl
    unfold takenFrom
    rw [hm, he]
    split
    · rfl
    · split <;> rfl
  rw [h, hc, hs]

/-- Objects in a row are taken one after another, within the current cycle and outside it (R7). -/
theorem takeAudio_append (src : Byte) (n : Word) (os os' : List AudioObject) (s : State) :
    takeAudio src n (os ++ os') s = takeAudio src n os' (takeAudio src n os s) := by
  have hc := (takeAudio_heard src n os s).inCycle n
  rw [takeAudio, takeAudio.eq_1 src n os' (takeAudio src n os s), hc]
  split
  · rename_i hn
    simp [takeAudio, hn, forEach]
  · rename_i hn
    simp [takeAudio, hn, State.countIngest, BitVec.ofNat_add, add_assoc]

/-- One object in the current cycle is taken by itself. -/
theorem takeAudio_one {n : Word} (o : AudioObject) (hs : s.link.source = .repeating) (hc : s.currentCycle = some n) :
    takeAudio src n [o] s = takeObject src o s := by
  simp [takeAudio, State.inCycle, hs, hc, forEach]

theorem exec_audioFrame {p : Port} {n : Word} (os : List AudioObject) (hp : s.power = .on) :
    exec (.audioFrame p src n os) s = .next (takeAudio src n os (takenFrom p src s)) :=
  congrArg Host.Outcome.next (if_pos hp)

/-- A mapped object of the right size is a granule for its room (R7). -/
theorem takeObject_mapped {channel : Byte} {samples : List Word} {x : IngestEntry} (hl : samples.length = s.link.period.samples)
    (hx : s.ingestMatch src channel = some x) (ha : x.action = .map) :
    takeObject src (.whole channel samples) s = placeGranule x.room x.track samples s := by
  simp [takeObject, hl, hx, ha]

end Sys2Proof.Machine

open Sys2Proof Sys2Proof.Machine in
/-- Settles O43: each object is taken as its first matching reason has it, and objects in a row one after another. -/
theorem audioFrameCompletes : Obligations.AudioFrameCompletes := by
  intro p src cycle s hp
  have one (o : AudioObject) (hs : s.link.source = .repeating) (hc : s.currentCycle = some cycle) :
      exec (.audioFrame p src cycle [o]) s = .next (takeObject src o (takenFrom p src s)) := by
    rw [exec_audioFrame _ hp, takeAudio_one o (by simpa using hs) (by simpa using hc)]
  refine ⟨fun channel samples x hs hc hl hx ha => ?_, fun o hs hc ho => ?_, fun channel samples hs hc hl hx => ?_,
    fun os os' u hu => ?_, fun os ho => ?_⟩
  · have hm := takeObject_mapped (s := takenFrom p src s) (by simpa using hl) (by simpa using hx) ha
    rw [one _ hs hc, hm, placeGranule]
    simp only [takenFrom_room]
    refine ⟨fun hr ht he => ?_, fun hr => ?_, fun hr ht he => ?_⟩
    · rw [if_neg (by simp [hr, ht]), he]
    · rw [if_pos hr]; simp [State.countIngest]
    · obtain ⟨g, hg⟩ := Option.ne_none_iff_exists'.1 he
      rw [if_neg (by simp [hr, ht]), hg]; simp [State.countIngest]
  · rw [one o hs hc]
    rcases ho with rfl | ⟨channel, samples, rfl, hl⟩
    · simp [takeObject, State.countIngest]
    · simp [takeObject, hl, State.countIngest]
  · rw [one _ hs hc]
    cases hm : s.ingestMatch src channel with
    | none => simp [takeObject, hl, hm, State.countIngest]
    | some x => simp [takeObject, hl, hm, hx x hm, State.countIngest]
  · rw [exec_audioFrame _ hp] at hu ⊢
    cases hu
    have hh := takeAudio_heard src cycle os (takenFrom p src s)
    have hpow : (takeAudio src cycle os (takenFrom p src s)).power = .on := by rw [hh]; simpa using hp
    rw [exec_audioFrame _ hpow, hh.takenFrom_fix (takenFrom_idem p src s), takeAudio_append]
  · rw [exec_audioFrame _ hp, takeAudio, if_neg (by rcases ho with h | h <;> simp [State.inCycle, h])]
    simp [State.countIngest]

/-! ## Writes that leave the cycle path alone -/

namespace Sys2Proof.Machine

variable {rooms ports : Bool} {s t u : State}

/-- Frames have joined a port's originate list, said where it did not fill up (R171), and none its held-response queue (R192). -/
def PortState.Grown (q q' : PortState) : Prop :=
  q'.held = q.held ∧ (q'.originate.length < 512 → ∃ added, q'.originate.map Queued.frame = q.originate.map Queued.frame ++ added)

theorem PortState.Grown.refl (q : PortState) : q.Grown q := ⟨rfl, fun _ => ⟨[], by simp⟩⟩

theorem PortState.Grown.trans {q q' q'' : PortState} (h : q.Grown q') (h' : q'.Grown q'') : q.Grown q'' := by
  obtain ⟨hh, hg⟩ := h
  obtain ⟨hh', hg'⟩ := h'
  refine ⟨hh'.trans hh, fun hl => ?_⟩
  obtain ⟨added', ha'⟩ := hg' hl
  have hlen := congrArg List.length ha'
  simp only [List.length_map, List.length_append] at hlen
  obtain ⟨added, ha⟩ := hg (by omega)
  exact ⟨added ++ added', by rw [ha', ha, List.append_assoc]⟩

/-- What lies off the cycle path may differ: the blocks of takes, pages, markers, stations, playback and management, the tables, the rooms and
the ports. Power, the clock, the cycle numbers, the syncs and their source, and the counters of the rest stay (R171 to R178). -/
def OffPath (s t : State) : Prop :=
  t = { s with
    schedule := t.schedule, ingestMap := t.ingestMap, rooms := t.rooms, store := t.store, takeTable := t.takeTable,
    markerPool := t.markerPool, handOff := t.handOff, playback := t.playback, timeouts := t.timeouts, mgmt := t.mgmt
    link := { s.link with
      period := t.link.period, capturePort := t.link.capturePort, officePort := t.link.officePort, nextSerial := t.link.nextSerial } }

/-- A room but for its history ring. -/
def Room.bare (x : Room) : Room := { x with ring := [] }

theorem Room.eq_of_bare {x y : Room} (h : x.bare = y.bare) : { x with ring := y.ring } = y :=
  congrArg (fun z : Room => { z with ring := y.ring }) h

/-- Writes off the cycle path. Rooms keep all but their rings unless `rooms` is set; the ports keep forward queues and last frames, and, unless
`ports` is set, only gain frames of their own. -/
structure Writes (rooms ports : Bool) (s t : State) : Prop where
  path  : OffPath s t
  room  : rooms = false → ∀ r, (t.room r).bare = (s.room r).bare
  way   : ∀ p, (t.port p).forward = (s.port p).forward ∧ (t.port p).lastSent = (s.port p).lastSent
  grown : ports = false → ∀ p, (s.port p).Grown (t.port p)

theorem Writes.refl : Writes rooms ports s s :=
  ⟨rfl, fun _ _ => rfl, fun _ => ⟨rfl, rfl⟩, fun _ _ => .refl _⟩

theorem Writes.trans (h : Writes rooms ports s t) (h' : Writes rooms ports t u) : Writes rooms ports s u where
  path := by
    have hp := h.path
    have hp' := h'.path
    unfold OffPath at *
    rw [hp', hp]
  room hf r := (h'.room hf r).trans (h.room hf r)
  way p := ⟨(h'.way p).1.trans (h.way p).1, (h'.way p).2.trans (h.way p).2⟩
  grown hf p := (h.grown hf p).trans (h'.grown hf p)

/-- A write to blocks other than rooms and ports. -/
theorem Writes.off (hp : OffPath s t := by exact rfl) (hr : t.rooms = s.rooms := by rfl) (hq : ∀ p, t.port p = s.port p := by intro p; cases p <;> rfl)  :
    Writes rooms ports s t where
  path := hp
  room _ r := by unfold State.room; rw [hr]
  way p := by rw [hq]; exact ⟨rfl, rfl⟩
  grown _ p := by rw [hq]; exact .refl _

theorem Writes.then (h : Writes rooms ports s t) (hp : OffPath t u := by exact rfl) (hr : u.rooms = t.rooms := by rfl)
    (hq : ∀ p, u.port p = t.port p := by intro p; cases p <;> rfl) : Writes rooms ports s u := h.trans (.off hp hr hq)

theorem Writes.after (h : Writes rooms ports t u) (hp : OffPath s t := by exact rfl) (hr : t.rooms = s.rooms := by rfl)
    (hq : ∀ p, t.port p = s.port p := by intro p; cases p <;> rfl) : Writes rooms ports s u := .trans (.off hp hr hq) h

section Postfix
variable (h : Writes rooms ports s t)
include h

theorem Writes.updStation {e : StationId} {f : Station → Station} : Writes rooms ports s (t.updStation e f) := h.then

theorem Writes.updContext {e : StationId} {f : Context → Context} : Writes rooms ports s (t.updContext e f) := h.then

theorem Writes.updPool {p : PoolId} {f : List Nat → List Nat} : Writes rooms ports s (t.updPool p f) := h.then

theorem Writes.updArchive {f : List Nat → List Nat} : Writes rooms ports s (t.updArchive f) := h.then

theorem Writes.setTake {k : Nat} {x : Take} : Writes rooms ports s (t.setTake k x) := h.then

theorem Writes.updTake {k : Nat} {f : Take → Take} : Writes rooms ports s (t.updTake k f) := h.trans (by
  unfold State.updTake
  split
  · exact .off
  · exact .refl)

theorem Writes.countHandOff {f : HandOffCounters → HandOffCounters} : Writes rooms ports s (t.countHandOff f) := h.then

theorem Writes.countPlayback {f : PlaybackCounters → PlaybackCounters} : Writes rooms ports s (t.countPlayback f) := h.then

theorem Writes.countTakes {f : TakeCounters → TakeCounters} : Writes rooms ports s (t.countTakes f) := h.then

theorem Writes.countStore {f : StoreCounters → StoreCounters} : Writes rooms ports s (t.countStore f) := h.then

theorem Writes.countMgmt {f : MgmtCounters → MgmtCounters} : Writes rooms ports s (t.countMgmt f) := h.then

theorem Writes.mgmt {x : Mgmt} : Writes rooms ports s { t with mgmt := x } := h.then

theorem Writes.updWait {f : List StationId → List StationId} : Writes rooms ports s (t.updWait f) := h.then

theorem Writes.setPosition {e : StationId} {k p : Nat} : Writes rooms ports s (setPosition e k p t) := h.then

theorem Writes.becomeListening {e : StationId} : Writes rooms ports s (becomeListening e t) := by
  unfold Machine.becomeListening
  split
  · exact h.updStation
  · exact h

theorem Writes.makeIdle {e : StationId} : Writes rooms ports s (makeIdle e t) := h.updStation

end Postfix

theorem ifThen_writes {p : Prop} [Decidable p] (h : Writes rooms ports s t) : Writes rooms ports s (if p then t else s) := by
  split
  · exact h
  · exact .refl

theorem either_writes {p : Prop} [Decidable p] (h : Writes rooms ports s t) (h' : Writes rooms ports s u) :
    Writes rooms ports s (if p then t else u) := by
  split
  · exact h
  · exact h'

theorem forEach_writes {α : Type} {f : α → State → State} (h : ∀ x s, Writes rooms ports s (f x s)) (xs : List α) (s : State) :
    Writes rooms ports s (forEach xs f s) := by
  induction xs generalizing s with
  | nil => exact .refl
  | cons x xs ih => exact (h x s).trans (ih _)

/-! ## Ops -/

theorem updRoom_writes (r : RoomId) (f : Room → Room) : Writes true ports s (s.updRoom r f) where
  path := rfl
  room hf := by cases hf
  way p := by cases p <;> exact ⟨rfl, rfl⟩
  grown _ p := by cases p <;> exact .refl _

theorem updRing_writes (r : RoomId) (f : Room → Room) (h : ∀ x, (f x).bare = x.bare := by intro _; rfl) :
    Writes rooms ports s (s.updRoom r f) where
  path := rfl
  room _ q := by
    rw [State.room_updRoom_eq]
    split
    · exact h _
    · rfl
  way p := by cases p <;> exact ⟨rfl, rfl⟩
  grown _ p := by cases p <;> exact .refl _

/-- A port written anew. -/
theorem updPort_writes (p : Port) (f : PortState → PortState)
    (hw : (f (s.port p)).forward = (s.port p).forward ∧ (f (s.port p)).lastSent = (s.port p).lastSent)
    (hg : ports = false → (s.port p).Grown (f (s.port p))) : Writes rooms ports s (s.updPort p f) where
  path := by cases p <;> rfl
  room _ r := by rw [State.updPort_room]
  way q := by cases p <;> cases q <;> first | exact hw | exact ⟨rfl, rfl⟩
  grown h q := by cases p <;> cases q <;> first | exact hg h | exact .refl _

theorem updTake_writes (k : Nat) (f : Take → Take) : Writes rooms ports s (s.updTake k f) := Writes.refl.updTake

theorem originate_writes (p : Port) (fr : Frame) : Writes rooms ports s (originate p fr s) := by
  unfold originate
  split
  · exact Writes.then (updPort_writes p _ ⟨rfl, rfl⟩ fun _ => ⟨rfl, fun _ => ⟨[fr], List.map_append⟩⟩) (by cases p <;> rfl) (by cases p <;> rfl)
      (by intro q; cases p <;> cases q <;> rfl)
  · exact updPort_writes p _ ⟨rfl, rfl⟩ fun _ => ⟨rfl, fun _ => ⟨[], (List.append_nil _).symm⟩⟩

theorem stationNotice_writes (e : StationId) (b : List Byte) : Writes rooms ports s (stationNotice e b s) := originate_writes _ _

theorem withdrawnNotice_writes (e : StationId) (n : Nat) (w : Withdrawal) : Writes rooms ports s (withdrawnNotice e n w s) :=
  stationNotice_writes _ _

theorem endOfTakeNotice_writes (e : StationId) (n p : Nat) (w : EndReason) : Writes rooms ports s (endOfTakeNotice e n p w s) :=
  (stationNotice_writes e _).countPlayback

/-! ## Flags and Operands -/

theorem alertManager_writes (a : Alert) (m : Manager) : Writes rooms ports s (alertManager a m s) := by
  unfold alertManager
  split
  · exact .refl
  · exact (originate_writes _ _).countMgmt

theorem reportAlert_writes (a : Alert) : Writes rooms ports s (reportAlert a s) := by
  unfold reportAlert
  split
  · exact .refl
  · exact Writes.after (forEach_writes (fun m _ => alertManager_writes a m) _ _)

theorem takenFrom_writes (p : Port) (n : Byte) : Writes rooms ports s (takenFrom p n s) := by
  unfold takenFrom
  split
  · exact .off
  · split
    · exact .off
    · exact .refl

theorem sendResponse_writes (p : Port) (fr : Frame) : Writes rooms true s (sendResponse p fr s) := by
  unfold sendResponse
  split
  · exact originate_writes _ _
  · split
    · exact updPort_writes p _ ⟨rfl, rfl⟩ (fun h => by cases h)
    · exact (originate_writes _ _).countMgmt

theorem respond_writes (c : Ctl) (cmd : CommandName) (r : Result) (b : List Byte) : Writes rooms true s (respond c cmd r b s) :=
  either_writes (originate_writes _ _) (sendResponse_writes _ _)

theorem releaseHeld_writes (p : Port) : Writes rooms true s (releaseHeld p s) :=
  (updPort_writes p _ ⟨rfl, rfl⟩ (fun h => by cases h)).trans (forEach_writes (fun fr _ => originate_writes p fr) _ _)

theorem leaseEffect_writes (cmd : CommandName) (who : Sender) : Writes rooms ports s (leaseEffect cmd who s) := by
  unfold leaseEffect restartLease
  split
  · exact ifThen_writes (ifThen_writes .off)
  · exact .refl

/-! ## The page store, the marker pool and the take table -/

theorem clearRings_writes (k : Nat) : Writes rooms ports s (clearRings k s) :=
  forEach_writes (fun r _ => updRing_writes r _) _ _

theorem freeTake_writes (k : Nat) : Writes rooms ports s (freeTake k s) := by
  unfold freeTake freeSlot
  split
  · exact .refl
  · split
    · exact .off
    · exact Writes.after (clearRings_writes k)

theorem reclaim_writes (k : Nat) : Writes rooms ports s (reclaim k s) := by
  unfold reclaim
  split
  · exact .refl
  · exact ifThen_writes (Writes.after (freeTake_writes k))

theorem pressureSteps_writes (k : Nat) (s : State) : Writes rooms ports s (pressureSteps k s) := by
  induction k generalizing s with
  | zero => exact .refl
  | succ k ih =>
    rw [pressureSteps]
    split
    · split
      · exact (reclaim_writes _).countStore.trans (ih _)
      · exact .refl
    · exact .refl

theorem reportReserves_writes : Writes rooms ports s (reportReserves s) := by
  unfold reportReserves
  exact (ifThen_writes (reportAlert_writes _)).trans (ifThen_writes (reportAlert_writes _))

theorem checkReserves_writes : Writes rooms ports s (checkReserves s) := by
  unfold checkReserves
  exact ifThen_writes ((pressureSteps_writes _ _).trans reportReserves_writes)

theorem storeCell_writes (k : Nat) (cell : AudioCell) : Writes rooms ports s (storeCell k cell s).1 := by
  have hw : ∀ u : State, Writes rooms ports u (writeCell k cell u) := fun u => by
    unfold writeCell
    split
    · exact .refl
    · dsimp only
      split
      · split <;> exact .off
      · exact .off
  unfold storeCell
  split
  · exact .refl
  · split
    · split
      · exact .off
      · exact (Writes.after (hw _)).trans checkReserves_writes
    · exact hw _

theorem placeMarker_writes (k : Nat) (m : Marker) : Writes rooms ports s (placeMarker k m s).1 := by
  unfold placeMarker
  split
  · exact .refl
  · split
    · exact .off
    · exact .refl

theorem placeCounted_writes (k : Nat) (m : Marker) : Writes rooms ports s (placeCounted k m s) := placeMarker_writes _ _

theorem loseAnnotation_writes (k : Nat) : Writes rooms ports s (loseAnnotation k s) :=
  (updTake_writes k _).then.trans (reportAlert_writes _)

/-! ## Contexts and the arbiter -/

theorem unpin_writes (k : Nat) : Writes rooms ports s (unpin k s) :=
  (updTake_writes k _).trans (ifThen_writes checkReserves_writes)

theorem attach_writes (e : StationId) (k : Nat) (mix : Mix) : Writes rooms ports s (attach e k mix s) := by
  have h : ∀ f, Writes rooms ports s (becomeListening e (setPosition e k 0 ((pin k s).updContext e f))) := fun f =>
    (updTake_writes k _).updContext.setPosition.becomeListening
  unfold attach
  dsimp only
  split
  · exact (h _).trans (unpin_writes _)
  · exact h _

theorem detach_writes (e : StationId) : Writes rooms ports s (detach e s) := by
  unfold detach
  split
  · exact .refl
  · exact (Writes.after (ifThen_writes .off)).trans (unpin_writes _)

theorem offer_writes (k : Nat) (e : StationId) : Writes rooms ports s (offer k e s) := by
  unfold offer
  split
  · exact .refl
  · exact Writes.after (stationNotice_writes _ _)

theorem arrive_writes (k : Nat) : Writes rooms ports s (arrive k s) := by
  unfold arrive
  split
  · exact .refl
  · split
    · exact Writes.after (offer_writes _ _)
    · exact .refl

theorem returnToPool_writes (e : StationId) (k : Nat) : Writes rooms ports s (returnToPool e k s) := by
  have hd : Writes rooms ports s (detach e (s.updStation e fun x => { x with timer := none })) := Writes.after (detach_writes e)
  unfold returnToPool
  dsimp only
  split
  · exact hd.then
  · exact hd.then

theorem giveBack_writes (e : StationId) {additions : Nat → State → State} (h : ∀ n s, Writes rooms ports s (additions n s)) :
    Writes rooms ports s (giveBack e additions s) := by
  unfold giveBack
  split
  · exact .refl
  · exact ((returnToPool_writes _ _).trans (h _ _)).trans (arrive_writes _)

theorem giveBackTransfer_writes (e : StationId) : Writes rooms ports s (giveBackTransfer e s) := by
  unfold giveBackTransfer
  split
  · exact .refl
  · exact (Writes.refl.updStation.trans (detach_writes e)).updTake.updArchive.makeIdle

theorem retainIfDone_writes (k : Nat) : Writes rooms ports s (retainIfDone k s) := by
  unfold retainIfDone
  split
  · exact .refl
  · exact ifThen_writes (Writes.after checkReserves_writes)

/-! ## Cuts -/

theorem openTakeIn_writes (k : Nat) (r : RoomId) : Writes rooms ports s (openTakeIn k r s) := Writes.after checkReserves_writes

theorem closeTake_writes (k : Nat) (rm : Room) (cause : CutCause) (source : Byte) :
    Writes rooms ports s (closeTake k rm cause source s) := by
  unfold closeTake
  dsimp only
  split
  · exact .refl
  · exact (either_writes (placeCounted_writes _ _) (ifThen_writes (placeCounted_writes _ _))).trans (updTake_writes k _)

theorem enterQueues_writes (k : Nat) : Writes rooms ports s (enterQueues k s) := by
  unfold enterQueues
  split
  · exact .refl
  · exact Writes.after (arrive_writes k)

theorem linkFollowers_writes (k n : Nat) : Writes rooms ports s (linkFollowers k n s) :=
  forEach_writes (fun _ _ => ifThen_writes Writes.refl.updContext) _ _

theorem followMove_writes (e : StationId) (k : Nat) : Writes rooms ports s (followMove e k s) := (attach_writes _ _ _).updContext

theorem discardContext_writes (k : Nat) (successor : Option Nat) (e : StationId) :
    Writes rooms ports s (discardContext k successor e s) := by
  unfold discardContext
  split
  · split
    · exact (followMove_writes _ _).updContext
    · exact (detach_writes e).trans (endOfTakeNotice_writes _ _ _ _)
  · exact .refl

theorem discardTake_writes (k : Nat) (successor : Option Nat) : Writes rooms ports s (discardTake k successor s) :=
  ((forEach_writes (fun e _ => discardContext_writes k successor e) _ _).trans (freeTake_writes k)).countTakes

theorem placeCarried_writes (k : Nat) (rm : Room) (cause : CutCause) (source : Byte) (n : Nat) :
    Writes rooms ports s (placeCarried k rm cause source n s) :=
  (either_writes (placeCounted_writes _ _) (ifThen_writes (placeCounted_writes _ _))).trans (ifThen_writes (placeCounted_writes _ _))

theorem makeCut_writes (r : RoomId) (k k' : Nat) (cause : CutCause) (source : Byte) :
    Writes true ports s (makeCut r k k' cause source s) := by
  unfold makeCut
  refine Writes.trans ?_ (updRoom_writes _ _)
  refine Writes.trans ?_ (either_writes (discardTake_writes _ _) (enterQueues_writes _))
  exact (((closeTake_writes _ _ _ _).trans (openTakeIn_writes _ _)).trans (placeCarried_writes _ _ _ _ _)).trans (linkFollowers_writes _ _)

theorem tryCut_writes (r : RoomId) (cause : CutCause) (source : Byte) : Writes true ports s (tryCut r cause source s).1 := by
  unfold tryCut
  split
  · split
    · exact .refl
    · split
      · exact .refl
      · exact makeCut_writes _ _ _ _ _
  · exact .refl
  · exact .refl

theorem requestCut_writes (r : RoomId) (cause : CutCause) (source : Byte) : Writes true ports s (requestCut r cause source s).1 := by
  have h := tryCut_writes (s := s) (ports := ports) r cause source
  unfold requestCut
  split
  · exact .refl
  · split
    · exact .refl
    · split
      · rename_i heq
        rw [heq] at h
        exact (h.countTakes.trans (updRoom_writes _ _)).trans (reportAlert_writes _)
      · exact h

theorem retryDeferred_writes (r : RoomId) : Writes true ports s (retryDeferred r s) := by
  have h := tryCut_writes (s := s) (ports := ports) r .deferred s.link.node
  unfold retryDeferred
  split
  · split
    · rename_i heq; rw [heq] at h
      exact h.trans (updRoom_writes _ _)
    · rename_i heq; rw [heq] at h; exact h
  · exact .refl

theorem closeRoomWith_writes (r : RoomId) (cause : CutCause) (source : Byte) : Writes true ports s (closeRoomWith r cause source s) := by
  unfold closeRoomWith
  split
  · exact updRoom_writes _ _
  · refine Writes.trans ?_ (updRoom_writes _ _)
    exact (closeTake_writes _ _ _ _).trans (either_writes (discardTake_writes _ _) (enterQueues_writes _))

/-! ## The record path -/

theorem dropCell_writes (r : RoomId) (cause : DropCause) : Writes true ports s (dropCell r cause s) := by
  unfold dropCell
  dsimp only
  split
  · exact updRoom_writes _ _
  · exact (updRoom_writes _ _).trans (reportAlert_writes _)

theorem recordCell_writes (r : RoomId) (k : Nat) (cell : AudioCell) (n : Nat) : Writes true ports s (recordCell r k cell n s).1 := by
  unfold recordCell
  split
  · have h := storeCell_writes (s := s) (rooms := true) (ports := ports) k cell
    unfold offerCell
    split
    · exact dropCell_writes _ _
    · split
      · rename_i heq; rw [heq] at h; dsimp only at h ⊢; exact h.trans (updRoom_writes _ _)
      · rename_i heq; rw [heq] at h; exact h.trans (dropCell_writes _ _)
  · dsimp only; exact updRoom_writes _ _

theorem placeGap_writes (r : RoomId) (k p : Nat) : Writes true ports s (placeGap r k p s) := by
  unfold placeGap
  split
  · exact .refl
  · have h := placeMarker_writes (s := s) (rooms := true) (ports := ports) k
      { plainMarker .gap p s.now s.link.node with gapCycles := (s.room r).gap }
    dsimp only
    split
    · rename_i heq; rw [heq] at h; exact h.trans (updRoom_writes _ _)
    · rename_i heq; rw [heq] at h; exact h.trans (reportAlert_writes _)

theorem afterStore_writes (r : RoomId) (k p : Nat) : Writes true ports s (afterStore r k p s) :=
  ((placeGap_writes r k p).trans (updRoom_writes _ _)).trans (ifThen_writes (requestCut_writes _ _ _))

theorem loseCycles_writes (r : RoomId) (n : Nat) : Writes true ports s (loseCycles r n s) := by
  unfold loseCycles
  split
  · exact .refl
  · exact updRoom_writes _ _
  · exact updRoom_writes _ _

theorem closeCell_writes (n : Word) (k : Nat) (r : RoomId) : Writes true ports s (closeCell n k r s) := by
  unfold closeCell
  split
  · exact .refl
  · refine (retryDeferred_writes r).trans ?_
    dsimp only
    split
    · exact .refl
    · refine Writes.trans ?_ (updRoom_writes _ _)
      refine Writes.trans ?_ (loseCycles_writes r k)
      split
      · exact ((recordCell_writes r _ _ _).trans (updRoom_writes _ _)).trans (afterStore_writes _ _ _)
      · exact (recordCell_writes r _ _ _).trans (updRoom_writes _ _)

theorem beginCell_writes (r : RoomId) : Writes true ports s (beginCell r s) := by
  unfold beginCell
  split
  · exact .refl
  · exact updRoom_writes _ _

/-! ## Delivery -/

theorem reachNoticeIf_writes (e : StationId) (t : Take) (test : Nat → Bool) : Writes rooms ports s (reachNoticeIf e t test s) := by
  unfold reachNoticeIf reachNotice
  refine ifThen_writes ?_
  split
  · exact .refl
  · exact (stationNotice_writes _ _).updContext

theorem passSpans_writes (n : Nat) (e : StationId) (k : Nat) (t : Take) (s : State) :
    Writes rooms ports s (passSpans n e k t s).1 := by
  induction n generalizing s with
  | zero => exact .refl
  | succ n ih =>
    rw [passSpans]
    split
    · exact .refl
    · split
      · exact .off
      · exact Writes.refl.setPosition.countPlayback.trans (ih _)

theorem passSealed_writes (n : Nat) (e : StationId) (k : Nat) (t : Take) : Writes rooms ports s (passSealed n e k t s).1 :=
  (passSpans_writes n e k t s).trans (reachNoticeIf_writes _ _ _)

theorem sendCell_writes (e : StationId) (k p : Nat) (t : Take) (cell : AudioCell) : Writes rooms ports s (sendCell e k p t cell s) :=
  (originate_writes _ _).setPosition.updContext.countPlayback.trans (reachNoticeIf_writes _ _ _)

theorem deliver_writes (n : Nat) (e : StationId) (s : State) : Writes rooms ports s (deliver n e s) := by
  induction n generalizing s with
  | zero => exact .refl
  | succ n ih =>
    rw [deliver]
    split
    · exact .refl
    · rename_i k _
      split
      · exact .refl
      · rename_i t _
        generalize hr : (if (s.station e).config.clearance = true then (s, false) else passSealed (t.spans.length + 1) e k t s) = x
        have hs : Writes rooms ports s x.1 := by
          rw [← hr]
          split
          · exact .refl
          · exact passSealed_writes _ _ _ _
        refine hs.trans ?_
        dsimp only
        split
        · exact .refl
        · split
          · exact sendCell_writes _ _ _ _ _
          · split
            · exact .off
            · refine (reachNoticeIf_writes e t fun n => n == (x.1.context e).position.getD 0).trans ?_
              split
              · split
                · exact (followMove_writes _ _).updContext.trans (ih _)
                · exact (detach_writes e).trans (endOfTakeNotice_writes _ _ _ _)
              · exact Writes.refl.updContext.trans (endOfTakeNotice_writes _ _ _ _)

theorem deliverBulk_writes (n : Nat) (e : StationId) (s : State) : Writes rooms ports s (deliverBulk n e s) := by
  have hm : ∀ (t : Take) (m : Marker) (u : State), Writes rooms ports u (sendMarkerItem e t m u) := fun t m _ => by
    unfold sendMarkerItem useCredit
    exact (originate_writes .office _).updContext.updContext.countPlayback
  have hc : ∀ (k p : Nat) (t : Take) (cell : AudioCell) (u : State), Writes rooms ports u (sendBulkCell e k p t cell u) :=
    fun _ _ _ _ _ => (originate_writes _ _).updContext.setPosition.countPlayback.trans (ifThen_writes (endOfTakeNotice_writes _ _ _ _))
  induction n generalizing s with
  | zero => exact .refl
  | succ n ih =>
    rw [deliverBulk]
    split
    · exact .refl
    · split
      · exact .refl
      · refine either_writes .refl ?_
        split
        · split
          · exact (hm _ _ _).trans (ih _)
          · exact .refl
        · split
          · exact (hc _ _ _ _ _).trans (ih _)
          · exact .refl

theorem deliverContext_writes (e : StationId) : Writes rooms ports s (deliverContext e s) := by
  unfold deliverContext
  split
  · exact .refl
  · exact .refl
  · exact deliver_writes _ _ _
  · exact deliver_writes _ _ _
  · exact deliver_writes _ _ _
  · exact deliverBulk_writes _ _ _

/-! ## The status stream -/

theorem sendStatus_writes : Writes rooms ports s (sendStatus s) := by
  unfold sendStatus
  split
  · exact .refl
  · exact (originate_writes _ _).countMgmt

theorem countStatusCycle_writes : Writes rooms ports s (countStatusCycle s) := by
  unfold countStatusCycle
  split
  · exact either_writes sendStatus_writes.mgmt Writes.refl.mgmt
  · exact .refl

end Sys2Proof.Machine

/-! ## CONTROL commands keep the cycle path -/

namespace Sys2Proof.Machine

variable {rooms ports : Bool} {s t u : State}

theorem Writes.ofTight (h : Writes false true s t) : Writes rooms true s t :=
  ⟨h.path, fun _ => h.room rfl, h.way, fun hp => by cases hp⟩

/-- A relation of which every write that leaves the rooms alone is a case, and which composes. -/
structure Path (R : State → State → Prop) : Prop where
  base  : ∀ {s t}, Writes false true s t → R s t
  trans : ∀ {s t u}, R s t → R t u → R s u

theorem writesPath : Path (Writes rooms true) := ⟨.ofTight, .trans⟩

/-- What such writes leave alone, said of any part of the state. -/
theorem samePath {β : Type} {g : State → β} (h : ∀ {s t}, Writes false true s t → g t = g s) : Path fun s t => g t = g s :=
  ⟨h, fun h h' => h'.trans h⟩

/-! ## The checks every command passes first -/

section Checks
variable {R : State → State → Prop} (hR : Path R)
include hR

theorem control_path (c : Ctl) (cmd : CommandName) {k : Sender → State → State} (h : ∀ who s, R s (k who s)) :
    R s (control c cmd k s) := by
  unfold control whenOn
  split
  · dsimp only
    split
    · exact hR.base ((takenFrom_writes _ _).countMgmt.trans (respond_writes _ _ _ _))
    · exact hR.trans (hR.base (takenFrom_writes _ _).countMgmt) (h _ _)
  · exact hR.base .refl

theorem managerCommand_path (c : Ctl) (cmd : CommandName) {k : State → State} (h : ∀ s, R s (k s)) :
    R s (managerCommand c cmd k s) := by
  refine control_path hR c cmd fun who s => ?_
  split
  · split
    · exact hR.base (respond_writes _ _ _ _)
    · exact h _
  · exact hR.base (respond_writes _ _ _ _)

end Checks

theorem stationCommand_writes (c : Ctl) (cmd : CommandName) {k : StationId → State → State} (h : ∀ e s, Writes rooms true s (k e s)) :
    Writes rooms true s (stationCommand c cmd k s) := by
  refine control_path writesPath c cmd fun who s => ?_
  dsimp only
  refine (leaseEffect_writes cmd who).trans ?_
  split
  · exact respond_writes _ _ _ _
  · split
    · exact either_writes (respond_writes _ _ _ _) (either_writes (respond_writes _ _ _ _) (either_writes (respond_writes _ _ _ _) (h _ _)))
    · exact respond_writes _ _ _ _

theorem plainStationCommand_writes (c : Ctl) (cmd : CommandName) {k : StationId → State → State}
    (h : ∀ e s, Writes rooms true s (k e s)) : Writes rooms true s (plainStationCommand c cmd k s) :=
  stationCommand_writes c cmd fun _ _ => either_writes (respond_writes _ _ _ _) (h _ _)

theorem withStationTake_writes (c : Ctl) (cmd : CommandName) (x : StationState) (e : StationId) {k : Nat → State → State}
    (h : ∀ n, Writes rooms true s (k n s)) : Writes rooms true s (withStationTake c cmd x e k s) := by
  unfold withStationTake
  split
  · exact either_writes (h _) (respond_writes _ _ _ _)
  · exact respond_writes _ _ _ _

theorem withAttachedTake_writes (c : Ctl) (cmd : CommandName) (e : StationId) {k : Nat → Take → State → State}
    (h : ∀ n t, Writes rooms true s (k n t s)) : Writes rooms true s (withAttachedTake c cmd e k s) := by
  unfold withAttachedTake
  split
  · split
    · exact h _ _
    · exact respond_writes _ _ _ _
  · exact respond_writes _ _ _ _

/-! ## Configuration tables -/

theorem updPortOwn_writes (p : Port) (f : PortState → PortState)
    (h : ∀ q, (f q).originate = q.originate ∧ (f q).forward = q.forward ∧ (f q).held = q.held ∧ (f q).lastSent = q.lastSent := by
      intro _; exact ⟨rfl, rfl, rfl, rfl⟩) : Writes rooms ports s (s.updPort p f) := by
  obtain ⟨ho, hf, hh, hl⟩ := h (s.port p)
  exact updPort_writes p f ⟨hf, hl⟩ fun _ => ⟨hh, fun _ => ⟨[], by rw [ho, List.append_nil]⟩⟩

theorem setCursor_writes (p : Port) (x : Cursor) : Writes rooms ports s (setCursor p x s) := updPortOwn_writes p _

theorem accepted_writes {α : Type} {x : Option α} {k : α → State} (h : accepted x k = .ok t)
    (hk : ∀ v, Writes rooms ports s (k v)) : Writes rooms ports s t := by
  cases x with
  | none => cases h
  | some v => cases h; exact hk v

/-- A write of an entry that is accepted (R187). -/
theorem writeTable_writes {n : TableName} {i : Nat} {bs : List Byte} (h : writeTable n i bs s = .ok t) : Writes true true s t := by
  cases n with
  | ingestMap => exact accepted_writes h fun _ => .off
  | roomConfig =>
    simp only [writeTable] at h
    split at h
    · unfold writeRoomConfig at h
      split at h
      · cases h
      · exact accepted_writes h fun _ => updRoom_writes _ _
    · cases h
  | stationTable =>
    simp only [writeTable] at h
    split at h
    · unfold writeStation at h
      split at h
      · cases h
      · split at h
        · cases h
        · exact accepted_writes h fun _ => Writes.refl.updStation.updContext
    · cases h
  | cutSchedule => exact accepted_writes h fun _ => .off
  | statusItems => exact accepted_writes h fun _ => Writes.refl.mgmt
  | managerList =>
    simp only [writeTable, writeManager] at h
    split at h
    · cases h
    · cases h; exact Writes.refl.mgmt
  | linkProfile =>
    simp only [writeTable, writeLinkProfile] at h
    split at h
    · cases h
    · exact accepted_writes h fun _ => .off
  | storeSettings => cases h; exact Writes.after checkReserves_writes
  | timeouts => exact accepted_writes h fun _ => .off

theorem execSetCursor_writes (c : Ctl) (table : Byte) (index : Word) : NextBy (Writes false true) s (execSetCursor c table index s) := by
  refine nextBy (managerCommand_path writesPath c _ fun s => ?_)
  split
  · exact either_writes ((setCursor_writes _ _).trans (respond_writes _ _ _ _)) (respond_writes _ _ _ _)
  · exact respond_writes _ _ _ _

theorem execReadEntry_writes (c : Ctl) : NextBy (Writes false true) s (execReadEntry c s) := by
  refine nextBy (managerCommand_path writesPath c _ fun s => ?_)
  split
  · exact respond_writes _ _ _ _
  · exact either_writes (respond_writes _ _ _ _) ((setCursor_writes _ _).trans (respond_writes _ _ _ _))

theorem writeAtCursor_writes (c : Ctl) (body : List Byte) : Writes true true s (writeAtCursor c body s) := by
  unfold writeAtCursor
  split
  · exact respond_writes _ _ _ _
  · split
    · exact respond_writes _ _ _ _
    · split
      · exact respond_writes _ _ _ _
      · rename_i h
        exact ((writeTable_writes h).trans (setCursor_writes _ _)).trans (respond_writes _ _ _ _)

theorem execWriteEntry_writes (c : Ctl) (body : List Byte) : NextBy (Writes true true) s (execWriteEntry c body s) := by
  refine nextBy (control_path writesPath c _ fun who s => ?_)
  split
  · exact respond_writes _ _ _ _
  · split
    · exact either_writes (respond_writes _ _ _ _) (writeAtCursor_writes c body)
    · exact respond_writes _ _ _ _

/-! ## Management -/

theorem execRun_writes (c : Ctl) : NextBy (Writes false true) s (execRun c s) := by
  refine nextBy (managerCommand_path writesPath c _ fun s => ?_)
  split
  · exact Writes.refl.mgmt.trans (respond_writes _ _ _ _)
  · exact respond_writes _ _ _ _

theorem resetStation_writes (why : Withdrawal) (e : StationId) : Writes rooms ports s (resetStation why e s) := by
  have h : ∀ k, Writes rooms ports s (match s.take? k with
      | some t => (s.setTake k { t with transcription := some .pending, holder := none }).updPool t.pool fun q => k :: q
      | none => s) := fun k => by
    split
    · exact Writes.refl.setTake.updPool
    · exact .refl
  unfold resetStation
  dsimp only
  split
  · exact (h _).makeIdle.trans (withdrawnNotice_writes _ _ _)
  · exact (h _).makeIdle.trans (withdrawnNotice_writes _ _ _)
  · exact (updTake_writes _ _).updArchive.makeIdle.trans (withdrawnNotice_writes _ _ _)
  · exact Writes.refl.makeIdle
  · exact .refl
  · exact .refl
  · exact .refl

theorem resetContext_writes (why : EndReason) (w : List StationId) (e : StationId) : Writes rooms ports s (resetContext why w e s) := by
  unfold resetContext
  split
  · exact .refl
  · dsimp only
    split
    · exact detach_writes e
    · exact (detach_writes e).trans (endOfTakeNotice_writes _ _ _ _)

theorem handOffReset_writes (why : Withdrawal) (reason : EndReason) : Writes rooms ports s (handOffReset why reason s) := by
  unfold handOffReset emptyWaitList defaultMixes
  refine Writes.trans ?_ (forEach_writes (fun _ _ => Writes.refl.updContext) _ _)
  refine Writes.trans ?_ (forEach_writes (fun e _ => resetContext_writes reason _ e) _ _)
  refine Writes.trans ?_ (forEach_writes (fun e _ => resetStation_writes why e) _ _)
  exact (forEach_writes (fun _ _ => Writes.refl.updStation) _ _).updWait

theorem releaseBoth_writes : Writes rooms true s (releaseBoth s) := (releaseHeld_writes _).trans (releaseHeld_writes _)

theorem execHalt_writes (c : Ctl) : NextBy (Writes false true) s (execHalt c s) :=
  nextBy (managerCommand_path writesPath c _ fun _ =>
    either_writes (((handOffReset_writes _ _).trans releaseBoth_writes).mgmt.trans (respond_writes _ _ _ _)) (respond_writes _ _ _ _))

theorem sessionResetNow_writes (source : Byte) : Writes true true s (sessionResetNow source s) :=
  ((handOffReset_writes _ _).trans (forEach_writes (fun r _ => closeRoomWith_writes r _ _) _ _)).trans releaseBoth_writes

theorem execSessionReset_writes (c : Ctl) : NextBy (Writes true true) s (execSessionReset c s) :=
  nextBy (managerCommand_path writesPath c _ fun _ => either_writes (respond_writes _ _ _ _)
    (either_writes (respond_writes _ _ _ _) ((sessionResetNow_writes _).trans (respond_writes _ _ _ _))))

theorem setMode_writes (p : Port) (m : ResponseMode) : Writes rooms true s (setMode p m s) := by
  have h : Writes rooms true s (s.updPort p fun q => { q with mode := m }) := updPortOwn_writes p _
  cases m
  · exact h.trans (releaseHeld_writes p)
  · exact h

theorem execSetResponseMode_writes (c : Ctl) (port mode : Byte) : NextBy (Writes false true) s (execSetResponseMode c port mode s) := by
  refine nextBy (managerCommand_path writesPath c _ fun s => ?_)
  split
  · exact (setMode_writes _ _).trans (respond_writes _ _ _ _)
  · exact respond_writes _ _ _ _

theorem execReadAlerts_writes (c : Ctl) : NextBy (Writes false true) s (execReadAlerts c s) :=
  nextBy (managerCommand_path writesPath c _ fun _ => Writes.refl.mgmt.trans (respond_writes _ _ _ _))

theorem execReadCounters_writes (c : Ctl) : NextBy (Writes false true) s (execReadCounters c s) :=
  nextBy (managerCommand_path writesPath c _ fun _ => respond_writes _ _ _ _)

/-! ## Manager commands on rooms, takes and the store -/

theorem execOpenRoom_writes (c : Ctl) (room : Byte) : NextBy (Writes true true) s (execOpenRoom c room s) := by
  refine nextBy (managerCommand_path writesPath c _ fun s => ?_)
  split
  · exact respond_writes _ _ _ _
  · split
    · exact respond_writes _ _ _ _
    · split
      · exact respond_writes _ _ _ _
      · exact ((openTakeIn_writes _ _).trans (updRoom_writes _ _)).trans (respond_writes _ _ _ _)

theorem execCloseRoom_writes (c : Ctl) (room : Byte) : NextBy (Writes true true) s (execCloseRoom c room s) := by
  refine nextBy (managerCommand_path writesPath c _ fun s => ?_)
  split
  · exact respond_writes _ _ _ _
  · exact either_writes (respond_writes _ _ _ _)
      (either_writes (respond_writes _ _ _ _) ((closeRoomWith_writes _ _ _).trans (respond_writes _ _ _ _)))

theorem execCutTake_writes (c : Ctl) (room : Byte) : NextBy (Writes true true) s (execCutTake c room s) := by
  refine nextBy (managerCommand_path writesPath c _ fun s => ?_)
  split
  · exact respond_writes _ _ _ _
  · exact either_writes (respond_writes _ _ _ _) ((requestCut_writes _ _ _).trans (respond_writes _ _ _ _))

theorem execReadTake_writes (c : Ctl) (n : Word) : NextBy (Writes false true) s (execReadTake c n s) := by
  refine nextBy (managerCommand_path writesPath c _ fun s => ?_)
  split <;> exact respond_writes _ _ _ _

theorem execReadQueue_writes (c : Ctl) (q : Byte) (n : Word) : NextBy (Writes false true) s (execReadQueue c q n s) := by
  refine nextBy (managerCommand_path writesPath c _ fun s => ?_)
  split
  · exact respond_writes _ _ _ _
  · exact either_writes (respond_writes _ _ _ _) (respond_writes _ _ _ _)

theorem moveTo_writes (p : PoolId) (k : Nat) (t : Take) : Writes rooms ports s (moveTo p k t s) := Writes.refl.updPool.updTake.updPool

theorem execMoveTake_writes (c : Ctl) (n : Word) (pool : Byte) : NextBy (Writes false true) s (execMoveTake c n pool s) := by
  refine nextBy (managerCommand_path writesPath c _ fun s => ?_)
  split
  · exact respond_writes _ _ _ _
  · split
    · exact respond_writes _ _ _ _
    · exact either_writes (((moveTo_writes _ _ _).trans (respond_writes _ _ _ _)).trans (arrive_writes _)) (respond_writes _ _ _ _)

theorem execReadMarker_writes (c : Ctl) (n : Word) (sel : Byte) (v : Word) :
    NextBy (Writes false true) s (execReadMarker c n sel v s) := by
  refine nextBy (managerCommand_path writesPath c _ fun s => ?_)
  split
  · exact respond_writes _ _ _ _
  · split
    · exact respond_writes _ _ _ _
    · split <;> exact respond_writes _ _ _ _

theorem reclaimByCommand_writes (k : Nat) : Writes rooms ports s (reclaimByCommand k s) := (reclaim_writes k).countStore

theorem execReleaseTake_writes (c : Ctl) (n : Word) : NextBy (Writes false true) s (execReleaseTake c n s) := by
  refine nextBy (managerCommand_path writesPath c _ fun s => ?_)
  split
  · exact respond_writes _ _ _ _
  · exact either_writes (respond_writes _ _ _ _)
      (either_writes (respond_writes _ _ _ _) ((reclaimByCommand_writes _).trans (respond_writes _ _ _ _)))

theorem execClearStore_writes (c : Ctl) : NextBy (Writes false true) s (execClearStore c s) :=
  nextBy (managerCommand_path writesPath c _ fun _ => either_writes (respond_writes _ _ _ _)
    (either_writes (respond_writes _ _ _ _)
      ((forEach_writes (fun k _ => reclaimByCommand_writes k) _ _).trans (respond_writes _ _ _ _))))

/-! ## Typists' work and archive transfers -/

theorem execReadClock_writes (c : Ctl) : NextBy (Writes false true) s (execReadClock c s) :=
  nextBy (control_path writesPath c _ fun _ _ => either_writes (respond_writes _ _ _ _) (respond_writes _ _ _ _))

theorem execRequestWork_writes (c : Ctl) : NextBy (Writes false true) s (execRequestWork c s) := by
  refine nextBy (stationCommand_writes c _ fun e s => ?_)
  split
  · exact respond_writes _ _ _ _
  · split
    · exact (offer_writes _ _).trans (respond_writes _ _ _ _)
    · exact Writes.refl.updStation.updWait.trans (respond_writes _ _ _ _)

theorem acceptOffer_writes (e : StationId) (k : Nat) : Writes rooms ports s (acceptOffer e k s) := by
  have h : ∀ u : State, Writes rooms ports u (attachAccepted e k u) := fun u => by
    unfold attachAccepted
    exact either_writes Writes.refl.setPosition.updContext (attach_writes _ _ _)
  exact Writes.refl.updTake.updStation.trans (h _)

theorem execAccept_writes (c : Ctl) : NextBy (Writes false true) s (execAccept c s) :=
  nextBy (plainStationCommand_writes c _ fun e _ => withStationTake_writes c _ _ e fun _ =>
    (acceptOffer_writes e _).trans (respond_writes _ _ _ _))

theorem execDecline_writes (c : Ctl) : NextBy (Writes false true) s (execDecline c s) :=
  nextBy (stationCommand_writes c _ fun e _ => withStationTake_writes c _ _ e fun _ =>
    (giveBack_writes e fun _ _ => Writes.refl.countHandOff).trans (respond_writes _ _ _ _))

theorem execKeep_writes (c : Ctl) : NextBy (Writes false true) s (execKeep c s) :=
  nextBy (plainStationCommand_writes c _ fun e _ => withStationTake_writes c _ _ e fun _ => respond_writes _ _ _ _)

theorem completeHold_writes (e : StationId) (k : Nat) : Writes rooms ports s (completeHold e k s) :=
  (Writes.refl.updStation.trans (detach_writes e)).updTake.makeIdle.countHandOff.trans (retainIfDone_writes k)

theorem execComplete_writes (c : Ctl) : NextBy (Writes false true) s (execComplete c s) :=
  nextBy (plainStationCommand_writes c _ fun e _ => withStationTake_writes c _ _ e fun _ =>
    (completeHold_writes e _).trans (respond_writes _ _ _ _))

theorem execReturnTake_writes (c : Ctl) : NextBy (Writes false true) s (execReturnTake c s) :=
  nextBy (plainStationCommand_writes c _ fun e _ => withStationTake_writes c _ _ e fun _ =>
    (giveBack_writes e fun _ _ => Writes.refl.countHandOff).trans (respond_writes _ _ _ _))

theorem assignArchive_writes (e : StationId) (k : Nat) : Writes rooms ports s (assignArchive e k s) := by
  unfold assignArchive
  exact (Writes.refl.updArchive.updTake.updStation.trans (attach_writes e k _)).updContext.countHandOff

theorem execRequestArchive_writes (c : Ctl) : NextBy (Writes false true) s (execRequestArchive c s) := by
  refine nextBy (stationCommand_writes c _ fun e s => ?_)
  split
  · exact respond_writes _ _ _ _
  · split
    · exact respond_writes _ _ _ _
    · exact (assignArchive_writes _ _).trans (respond_writes _ _ _ _)

theorem confirmArchive_writes (e : StationId) (k : Nat) : Writes rooms ports s (confirmArchive e k s) :=
  (Writes.refl.updStation.trans (detach_writes e)).updTake.makeIdle.countHandOff.trans (retainIfDone_writes k)

theorem execArchived_writes (c : Ctl) : NextBy (Writes false true) s (execArchived c s) :=
  nextBy (stationCommand_writes c _ fun e _ => withStationTake_writes c _ _ e fun _ =>
    either_writes (respond_writes _ _ _ _) ((confirmArchive_writes e _).trans (respond_writes _ _ _ _)))

theorem failArchive_writes (e : StationId) : Writes rooms ports s (failArchive e s) := (giveBackTransfer_writes e).countHandOff

theorem execArchiveFailed_writes (c : Ctl) : NextBy (Writes false true) s (execArchiveFailed c s) :=
  nextBy (stationCommand_writes c _ fun e _ => withStationTake_writes c _ _ e fun _ =>
    (failArchive_writes e).trans (respond_writes _ _ _ _))

theorem addCredits_writes (e : StationId) (n : Nat) : Writes rooms ports s (addCredits e n s) := by
  unfold addCredits
  exact Writes.refl.updContext.updStation

theorem execCredit_writes (c : Ctl) (n : Word) : NextBy (Writes false true) s (execCredit c n s) :=
  nextBy (plainStationCommand_writes c _ fun e _ => withStationTake_writes c _ _ e fun _ =>
    (addCredits_writes e _).trans (respond_writes _ _ _ _))

theorem endUnderWay_writes (e : StationId) : Writes rooms ports s (endUnderWay e s) := by
  unfold endUnderWay
  split
  · exact .refl
  · exact .refl
  · exact Writes.refl.updWait
  · exact giveBack_writes e fun _ _ => Writes.refl.countHandOff
  · exact giveBack_writes e fun _ _ => Writes.refl.countHandOff
  · exact .refl
  · exact failArchive_writes e

theorem execHello_writes (c : Ctl) (b : Byte) : NextBy (Writes false true) s (execHello c b s) := by
  refine nextBy (control_path writesPath c _ fun who s => ?_)
  split
  · split
    · exact ((endUnderWay_writes _).trans (detach_writes _)).updStation.trans (respond_writes _ _ _ _)
    · exact respond_writes _ _ _ _
  · exact respond_writes _ _ _ _

/-! ## Playback commands -/

theorem writeResolution_writes (e : StationId) (k : Nat) (z : Resolution) : Writes rooms ports s (writeResolution e k z s) :=
  Writes.refl.setPosition.updContext

theorem carryOutCue_writes (e : StationId) (k : Nat) (t : Take) (z : Resolution) : Writes rooms ports s (carryOutCue e k t z s) := by
  unfold carryOutCue
  exact either_writes (writeResolution_writes e k z).updContext ((attach_writes _ _ _).trans (writeResolution_writes e k z))

theorem execCue_writes (c : Ctl) (f : CueFields) : NextBy (Writes false true) s (execCue c f s) := by
  refine nextBy (stationCommand_writes c _ fun e s => ?_)
  split
  · exact respond_writes _ _ _ _
  · split
    · exact respond_writes _ _ _ _
    · split
      · exact respond_writes _ _ _ _
      · exact (carryOutCue_writes _ _ _ _).trans (respond_writes _ _ _ _)

theorem execSave_writes (c : Ctl) : NextBy (Writes false true) s (execSave c s) :=
  nextBy (plainStationCommand_writes c _ fun e _ => withAttachedTake_writes c _ e fun _ _ =>
    Writes.refl.updContext.trans (respond_writes _ _ _ _))

theorem startPlaying_writes (e : StationId) (k : Nat) (t : Take) : Writes rooms ports s (startPlaying e k t s) :=
  ifThen_writes (writeResolution_writes e k _).updContext

theorem execPlay_writes (c : Ctl) : NextBy (Writes false true) s (execPlay c s) :=
  nextBy (plainStationCommand_writes c _ fun e _ => withAttachedTake_writes c _ e fun _ _ =>
    (startPlaying_writes e _ _).trans (respond_writes _ _ _ _))

theorem execPause_writes (c : Ctl) : NextBy (Writes false true) s (execPause c s) :=
  nextBy (plainStationCommand_writes c _ fun e _ => withAttachedTake_writes c _ e fun _ _ =>
    Writes.refl.updContext.trans (respond_writes _ _ _ _))

theorem execStop_writes (c : Ctl) : NextBy (Writes false true) s (execStop c s) :=
  nextBy (plainStationCommand_writes c _ fun e _ =>
    either_writes (respond_writes _ _ _ _) ((detach_writes e).trans (respond_writes _ _ _ _)))

theorem execReadPosition_writes (c : Ctl) : NextBy (Writes false true) s (execReadPosition c s) :=
  nextBy (stationCommand_writes c _ fun _ _ => respond_writes _ _ _ _)

theorem execSetNotice_writes (c : Ctl) (p : BitVec 24) : NextBy (Writes false true) s (execSetNotice c p s) :=
  nextBy (plainStationCommand_writes c _ fun e _ => withAttachedTake_writes c _ e fun _ _ =>
    Writes.refl.updContext.trans (respond_writes _ _ _ _))

theorem execSetMix_writes (c : Ctl) (f : MixFields) : NextBy (Writes false true) s (execSetMix c f s) := by
  refine nextBy (plainStationCommand_writes c _ fun e s => ?_)
  split
  · exact respond_writes _ _ _ _
  · exact withAttachedTake_writes c _ e fun _ _ => Writes.refl.updContext.trans (respond_writes _ _ _ _)

theorem startListening_writes (e : StationId) (k : Nat) (t : Take) : Writes rooms ports s (startListening e k t s) := by
  have h : Writes rooms ports s (attachListener e k s) := by
    unfold attachListener
    exact either_writes Writes.refl.updContext (attach_writes _ _ _)
  unfold startListening
  exact (h.trans (writeResolution_writes e k _)).updContext.updStation

theorem execListen_writes (c : Ctl) (room : Byte) : NextBy (Writes false true) s (execListen c room s) := by
  refine nextBy (plainStationCommand_writes c _ fun e s => ?_)
  split
  · exact respond_writes _ _ _ _
  · split
    · exact respond_writes _ _ _ _
    · exact (startListening_writes _ _ _).trans (respond_writes _ _ _ _)

theorem addNote_writes (c : Ctl) (code : Word) (label : List Byte) (k p : Nat) : Writes rooms true s (addNote c code label k p s) := by
  have h := placeMarker_writes (s := s) (rooms := rooms) (ports := true) k (noteMarker s c.src code label p)
  unfold addNote
  split
  · rename_i heq; rw [heq] at h
    exact h.trans (respond_writes _ _ _ _)
  · rename_i heq; rw [heq] at h
    exact (h.trans (loseAnnotation_writes _)).trans (respond_writes _ _ _ _)

theorem execAddNote_writes (c : Ctl) (code : Word) (label : List Byte) (p : BitVec 24) :
    NextBy (Writes false true) s (execAddNote c code label p s) := by
  refine nextBy (plainStationCommand_writes c _ fun e s => ?_)
  split
  · exact respond_writes _ _ _ _
  · split
    · exact respond_writes _ _ _ _
    · exact addNote_writes _ _ _ _ _

/-! ## Every CONTROL command -/

/-- The commands that act on the rooms, or on their configuration and counters. -/
def CommandName.writesRooms : CommandName → Bool
  | .openRoom | .closeRoom | .cutTake | .sessionReset | .writeEntry => true
  | _ => false

/-- Every CONTROL command but SET_CLOCK and CLEAR_COUNTERS writes only off the cycle path. -/
theorem exec_writes {i : Instr} {c : Ctl} {cmd : CommandName} (h : control? i = some (c, cmd)) (hc : cmd ≠ .setClock)
    (hk : cmd ≠ .clearCounters) : NextBy (Writes cmd.writesRooms true) s (exec i s) := by
  cases i <;> cases h
  case run => exact execRun_writes _
  case halt => exact execHalt_writes _
  case sessionReset => exact execSessionReset_writes _
  case setCursor => exact execSetCursor_writes _ _ _
  case writeEntry => exact execWriteEntry_writes _ _
  case readEntry => exact execReadEntry_writes _
  case setResponseMode => exact execSetResponseMode_writes _ _ _
  case readAlerts => exact execReadAlerts_writes _
  case readCounters => exact execReadCounters_writes _
  case clearCounters => exact absurd rfl hk
  case openRoom => exact execOpenRoom_writes _ _
  case closeRoom => exact execCloseRoom_writes _ _
  case cutTake => exact execCutTake_writes _ _
  case readTake => exact execReadTake_writes _ _
  case readQueue => exact execReadQueue_writes _ _ _
  case moveTake => exact execMoveTake_writes _ _ _
  case readMarker => exact execReadMarker_writes _ _ _ _
  case releaseTake => exact execReleaseTake_writes _ _
  case clearStore => exact execClearStore_writes _
  case setClock => exact absurd rfl hc
  case readClock => exact execReadClock_writes _
  case hello => exact execHello_writes _ _
  case readPosition => exact execReadPosition_writes _
  case stop => exact execStop_writes _
  case requestWork => exact execRequestWork_writes _
  case accept => exact execAccept_writes _
  case decline => exact execDecline_writes _
  case keep => exact execKeep_writes _
  case complete => exact execComplete_writes _
  case returnTake => exact execReturnTake_writes _
  case cue => exact execCue_writes _ _
  case save => exact execSave_writes _
  case play => exact execPlay_writes _
  case pause => exact execPause_writes _
  case setNotice => exact execSetNotice_writes _ _
  case setMix => exact execSetMix_writes _ _
  case addNote => exact execAddNote_writes _ _ _ _
  case listen => exact execListen_writes _ _
  case requestArchive => exact execRequestArchive_writes _
  case archived => exact execArchived_writes _
  case archiveFailed => exact execArchiveFailed_writes _
  case credit => exact execCredit_writes _ _

/-- The cycle path (R171 to R178). -/
def State.cyclePath (s : State) :
    Power × Option Word × List Frame × SyncSource × Option Nat × Option CyclePeriod × Option Word × Option Word ×
      (Port → List Queued × Option Frame) :=
  (s.power, s.currentCycle, s.link.syncs, s.link.source, s.link.lossTimer, s.link.interval, s.link.previousSync, s.link.officeCycle,
    fun p => ((s.port p).forward, (s.port p).lastSent))

/-- The counters that no command but CLEAR_COUNTERS writes. -/
def State.pathCounters (s : State) : IngestCounters × Counter × ClockCounters × LinkCounters :=
  (s.ingestCounters, s.notConsole, s.clockCounters, s.link.counters)

theorem Writes.cyclePath (h : Writes rooms ports s t) : t.cyclePath = s.cyclePath := by
  have hw : (fun p => ((t.port p).forward, (t.port p).lastSent)) = fun p => ((s.port p).forward, (s.port p).lastSent) :=
    funext fun p => by rw [(h.way p).1, (h.way p).2]
  unfold State.cyclePath
  rw [hw, h.path]

theorem Writes.pathCounters (h : Writes rooms ports s t) : t.pathCounters = s.pathCounters := by
  unfold State.pathCounters
  rw [h.path]

theorem Writes.clock (h : Writes rooms ports s t) : t.clock = s.clock := by rw [h.path]

/-- SET_CLOCK writes the clock alone (R156). -/
theorem execSetClock_keeps (c : Ctl) (f : ClockFields) {β : Type} {g : State → β}
    (h : ∀ {s t}, Writes false true s t → g t = g s) (hc : ∀ (s : State) x, g { s with clock := x } = g s) :
    NextBy (fun s t => g t = g s) s (execSetClock c f s) := by
  refine nextBy (managerCommand_path (samePath h) c _ fun s => ?_)
  split
  · exact (h (respond_writes _ _ _ _)).trans (hc _ _)
  · exact h (respond_writes _ _ _ _)

theorem clearCounters_keeps (s : State) :
    ((clearCounters s).cyclePath, (clearCounters s).clock) = (s.cyclePath, s.clock) := by
  have h : Writes true true s (clearRoomCounters s) := forEach_writes (fun r _ => updRoom_writes r _) _ _
  unfold clearCounters
  generalize clearRoomCounters s = u at h
  refine congrArg₂ Prod.mk (.trans ?_ h.cyclePath) h.clock
  unfold State.cyclePath
  refine congrArg (fun x => (_, _, _, _, _, _, _, _, x)) (funext fun p => ?_)
  cases p <;> rfl

/-- CLEAR_COUNTERS writes counters alone (R197). -/
theorem execClearCounters_keeps (c : Ctl) {β : Type} {g : State → β} (h : ∀ {s t}, Writes false true s t → g t = g s)
    (hc : ∀ s, g (clearCounters s) = g s) : NextBy (fun s t => g t = g s) s (execClearCounters c s) :=
  nextBy (managerCommand_path (samePath h) c _ fun _ => (h (respond_writes _ _ _ _)).trans (hc _))

/-- SET_CLOCK keeps the path, the counters and the rooms. -/
theorem setClock_keeps (c : Ctl) (f : ClockFields) :
    NextBy (fun s t => (t.cyclePath, t.pathCounters, fun r => (t.room r).bare) = (s.cyclePath, s.pathCounters, fun r => (s.room r).bare)) s
      (exec (.setClock c f) s) :=
  execSetClock_keeps c f (fun h => by rw [h.cyclePath, h.pathCounters, funext (h.room rfl)]) fun _ _ => rfl

/-- CLEAR_COUNTERS keeps the path and the clock. -/
theorem clearCounters_keepsPath (c : Ctl) :
    NextBy (fun s t => (t.cyclePath, t.clock) = (s.cyclePath, s.clock)) s (exec (.clearCounters c) s) :=
  execClearCounters_keeps c (g := fun s => (s.cyclePath, s.clock)) (fun h => by rw [h.cyclePath, h.clock]) clearCounters_keeps

/-- The next state that an outcome names. -/
theorem NextBy.next {R : State → State → Prop} {o : Host.Outcome State Fault Refusal} (h : NextBy R s o) (ho : o = .next t) : R s t := by
  obtain ⟨u, hu, h⟩ := h
  obtain rfl : u = t := by rw [hu] at ho; cases ho; rfl
  exact h

theorem room_of_bare {r : RoomId} (h : (t.room r).bare = (s.room r).bare) : { t.room r with ring := (s.room r).ring } = s.room r :=
  Room.eq_of_bare h

end Sys2Proof.Machine

open Sys2Proof Sys2Proof.Machine in
/-- Settles O60: every CONTROL command but SET_CLOCK and CLEAR_COUNTERS only writes off the cycle path, and of these two SET_CLOCK writes the
clock and CLEAR_COUNTERS counters. -/
theorem controlCommandsKeepThePaths : Obligations.ControlCommandsKeepThePaths := by
  unfold Obligations.ControlCommandsKeepThePaths
  intro i c cmd s t hi ht
  suffices h : t.cyclePath = s.cyclePath ∧ (cmd ≠ .setClock → t.clock = s.clock) ∧
      (cmd ≠ .clearCounters → t.pathCounters = s.pathCounters) ∧
      (cmd.writesRooms = false → cmd ≠ .clearCounters → ∀ r, (t.room r).bare = (s.room r).bare) by
    obtain ⟨hp, hc, hk, hr⟩ := h
    simp only [State.cyclePath, Prod.mk.injEq, funext_iff] at hp
    simp only [State.pathCounters, Prod.mk.injEq] at hk
    obtain ⟨hpow, hcyc, hsyn, hsrc, hloss, hint, hprev, hoff, hway⟩ := hp
    refine ⟨hpow, hcyc, hsyn, hsrc, hloss, hint, hprev, hoff, hway, hc, hk, fun h1 h2 h3 h4 h5 h6 r => room_of_bare (hr ?_ h6 r)⟩
    cases cmd <;> first | rfl | contradiction
  by_cases hc : cmd = .setClock
  · obtain ⟨f, rfl⟩ : ∃ f, i = .setClock c f := by
      subst hc
      cases i <;> cases hi
      exact ⟨_, rfl⟩
    have h := (setClock_keeps (s := s) c f).next ht
    simp only [Prod.mk.injEq, funext_iff] at h
    exact ⟨h.1, fun hn => absurd hc hn, fun _ => h.2.1, fun _ _ => h.2.2⟩
  by_cases hk : cmd = .clearCounters
  · obtain rfl : i = .clearCounters c := by
      subst hk
      cases i <;> cases hi
      rfl
    obtain ⟨hp, hclk⟩ := Prod.mk.inj ((clearCounters_keepsPath (s := s) c).next ht)
    exact ⟨hp, fun _ => hclk, fun hn => absurd hk hn, fun _ hn => absurd hk hn⟩
  · have h := (exec_writes (s := s) hi hc hk).next ht
    exact ⟨h.cyclePath, fun _ => h.clock, fun _ => h.pathCounters, fun hr _ => h.room hr⟩

/-! ## Syncs -/

namespace Sys2Proof.Machine

variable {rooms ports : Bool} {s t u : State}

/-! ### Held responses -/

@[simp] theorem port_updPort (p : Port) (f : PortState → PortState) : (s.updPort p f).port p = f (s.port p) := by cases p <;> rfl

theorem port_updPort_ne {p q : Port} (f : PortState → PortState) (h : q ≠ p) : (s.updPort p f).port q = s.port q := by
  cases p <;> cases q <;> first | rfl | contradiction

theorem originate_port_ne {p q : Port} (fr : Frame) (h : q ≠ p) : (originate p fr s).port q = s.port q := by
  have hs : ∀ (f : PortState → PortState) (n : Nat),
      ({ s.updPort p f with link := { (s.updPort p f).link with nextSerial := n } } : State).port q = (s.updPort p f).port q := by
    intro f n; cases q <;> rfl
  unfold originate
  split
  · exact (hs _ _).trans (port_updPort_ne _ h)
  · exact port_updPort_ne _ h

/-- Where a port's originate list did not fill up, a frame for it stands at its tail (R171). -/
theorem originate_frames (p : Port) (fr : Frame) (h : ((originate p fr s).port p).originate.length < 512) :
    ((originate p fr s).port p).originate.map Queued.frame = (s.port p).originate.map Queued.frame ++ [fr] := by
  unfold originate at h ⊢
  split at h
  · rename_i hl
    rw [if_pos hl]
    cases p <;> simp [State.port, State.updPort]
  · rename_i hl
    rw [port_updPort] at h
    exact absurd h hl

theorem forEach_originate_frames (p : Port) (frs : List Frame) (s : State)
    (h : ((forEach frs (originate p) s).port p).originate.length < 512) :
    ((forEach frs (originate p) s).port p).originate.map Queued.frame = (s.port p).originate.map Queued.frame ++ frs := by
  induction frs generalizing s with
  | nil => exact (List.append_nil _).symm
  | cons fr frs ih =>
    have hr := ih (originate p fr s) h
    have hlen := congrArg List.length hr
    simp only [List.length_map, List.length_append] at hlen
    have hl : ((forEach (fr :: frs) (originate p) s).port p).originate.length =
      ((forEach frs (originate p) (originate p fr s)).port p).originate.length := rfl
    rw [originate_frames p fr (by omega), List.append_assoc] at hr
    exact hr

theorem releaseHeld_port_ne {p q : Port} (h : q ≠ p) : (releaseHeld p s).port q = s.port q :=
  (forEach_keeps (g := fun s => s.port q) (fun fr _ => originate_port_ne fr h) _ _).trans (port_updPort_ne _ h)

/-- A release joins a port's held responses to its originate list in the order held (R192). -/
theorem releaseHeld_joins (p : Port) : HeldJoined p [] s (releaseHeld p s) := by
  have hg : ((s.updPort p fun q => { q with held := [] }).port p).Grown ((releaseHeld p s).port p) :=
    (forEach_writes (rooms := false) (ports := false) (fun fr _ => originate_writes p fr) _ _).grown rfl p
  refine ⟨by rw [hg.1, port_updPort], fun hl => ⟨[], ?_⟩⟩
  rw [List.append_nil, List.append_nil]
  exact (forEach_originate_frames p _ _ hl).trans (by rw [port_updPort])

/-- Frames of the event may join the list before the held responses. -/
theorem HeldJoined.after {p : Port} {later : List Frame} (h : HeldJoined p later t u) (hg : (s.port p).Grown (t.port p)) :
    HeldJoined p later s u := by
  refine ⟨h.1, fun hl => ?_⟩
  obtain ⟨earlier, he⟩ := h.2 hl
  have hlen := congrArg List.length he
  simp only [List.length_map, List.length_append] at hlen
  obtain ⟨added, ha⟩ := hg.2 (by omega)
  refine ⟨added ++ earlier, ?_⟩
  rw [he, ha, hg.1, List.append_assoc _ added]

/-- Frames of the event may join the list after the held responses. -/
theorem HeldJoined.before {p : Port} {later : List Frame} (h : HeldJoined p later s t) (hg : (t.port p).Grown (u.port p)) :
    ∃ later, HeldJoined p later s u := by
  by_cases hl : (u.port p).originate.length < 512
  · obtain ⟨added, ha⟩ := hg.2 hl
    have hlen := congrArg List.length ha
    simp only [List.length_map, List.length_append] at hlen
    obtain ⟨earlier, he⟩ := h.2 (by omega)
    exact ⟨later ++ added, hg.1.trans h.1, fun _ => ⟨earlier, by rw [ha, he, List.append_assoc]⟩⟩
  · exact ⟨[], hg.1.trans h.1, fun hl' => absurd hl' hl⟩

/-! ### The office side and the rooms -/

/-- The office side of a sync before its releases. -/
theorem officeSide_writes : Writes rooms ports s (countStatusCycle (forEach allStations deliverContext s)) :=
  (forEach_writes (fun e _ => deliverContext_writes e) _ _).trans countStatusCycle_writes

theorem officeSideSync_writes : Writes rooms true s (officeSideSync s) := officeSide_writes.trans (releaseHeld_writes _)

theorem officeSideSync_joins : HeldJoined .office [] s (officeSideSync s) :=
  (releaseHeld_joins .office).after ((officeSide_writes (rooms := false) (ports := false)).grown rfl .office)

theorem officeSideSync_grown : (s.port .capture).Grown ((officeSideSync s).port .capture) := by
  unfold officeSideSync
  rw [releaseHeld_port_ne (by decide)]
  exact (officeSide_writes (rooms := false) (ports := false)).grown rfl .capture

/-- A cycle number written on both sides of a write. -/
theorem Writes.withCycle (h : Writes rooms ports s t) (n : Option Word) :
    Writes rooms ports { s with currentCycle := n } { t with currentCycle := n } := by
  refine ⟨?_, h.room, fun p => ?_, fun hf p => ?_⟩
  · have hp := h.path
    unfold OffPath at hp ⊢
    exact congrArg (fun x : State => { x with currentCycle := n }) hp
  · have hw := h.way p; cases p <;> exact hw
  · have hg := h.grown hf p; cases p <;> exact hg

theorem grown_withCycle {p : Port} (n : Option Word) (h : (s.port p).Grown (t.port p)) :
    (s.port p).Grown (({ t with currentCycle := n } : State).port p) := by cases p <;> exact h

section Rooms
variable {close : RoomId → State → State} (hc : ∀ r s, Writes true false s (close r s))
include hc

theorem syncRooms_writes : Writes true false s (forEach allRooms close s) := forEach_writes hc _ _

theorem syncRooms_grown (n : Option Word) (p : Port) :
    (s.port p).Grown (({ forEach allRooms close s with currentCycle := n } : State).port p) :=
  grown_withCycle n ((syncRooms_writes hc).grown rfl p)

/-- What a capture sync's turn at the rooms and the office side writes. -/
theorem syncRuns_writes (f : SyncFrame) (order : SyncOrder) :
    Writes true true { s with currentCycle := some f.cycle } (syncRuns f order close s) := by
  have hr : ∀ s, Writes true true s (forEach allRooms close s) := fun s =>
    ⟨(syncRooms_writes hc).path, nofun, (syncRooms_writes hc).way, nofun⟩
  refine Writes.trans ?_ (releaseHeld_writes _)
  cases order with
  | roomsFirst => exact ((hr s).withCycle _).trans officeSideSync_writes
  | playbackFirst => exact (officeSideSync_writes.trans (hr _)).withCycle _

/-- Both ports' held responses join their originate lists at a capture sync (R178, R192). -/
theorem syncRuns_joins (f : SyncFrame) (order : SyncOrder) (q : Port) : ∃ later, HeldJoined q later s (syncRuns f order close s) := by
  have hg : ∀ (s : State) p, (s.port p).Grown (({ forEach allRooms close s with currentCycle := some f.cycle } : State).port p) :=
    fun s p => syncRooms_grown hc _ p
  cases order with
  | roomsFirst =>
    cases q with
    | capture => exact ⟨[], ((releaseHeld_joins .capture).after officeSideSync_grown).after (hg s .capture)⟩
    | office =>
      refine (officeSideSync_joins.after (hg s .office)).before ?_
      change PortState.Grown _ ((releaseHeld .capture (officeSideSync _)).port .office)
      rw [releaseHeld_port_ne (by decide)]
      exact .refl _
  | playbackFirst =>
    cases q with
    | capture => exact ⟨[], ((releaseHeld_joins .capture).after (hg _ .capture)).after officeSideSync_grown⟩
    | office =>
      refine officeSideSync_joins.before ?_
      change PortState.Grown _ ((releaseHeld .capture _).port .office)
      rw [releaseHeld_port_ne (by decide)]
      exact hg (officeSideSync s) .office

end Rooms

/-! ### Capture syncs -/

/-- What a capture sync writes into the Link Interface before the rooms and the office side take it (R172, R174). -/
def Link.captured (l : Link) (f : SyncFrame) (t : Timeouts) : Link :=
  { l with
    previousSync := some f.cycle, lossTimer := some (ticksOfMs t.syncLoss), syncs := l.syncs ++ [syncFrameBytes f],
    officeCycle := some f.cycle }

/-- The Link Interface with the counters of a capture sync's distance (R173). -/
def Link.skipCounted (l : Link) (m : Word) : Link :=
  { l with counters := { l.counters with
      cyclesSkipped := l.counters.cyclesSkipped + BitVec.ofNat 32 (skippedCount l.previousSync m)
      syncRenumbered := if renumbered l.previousSync m then l.counters.syncRenumbered + 1 else l.counters.syncRenumbered } }

/-- How a room takes a capture sync in REPEATING (R9, R10). -/
def State.closing (s : State) (f : SyncFrame) : RoomId → State → State :=
  match s.currentCycle with
  | some n => closeCell n (skippedCount s.link.previousSync f.cycle)
  | none => beginCell

theorem closing_writes (f : SyncFrame) (r : RoomId) (t : State) : Writes true false t (s.closing f r t) := by
  unfold State.closing
  cases s.currentCycle
  · exact beginCell_writes _
  · exact closeCell_writes _ _ _

theorem roomsTakeSync_eq (m : Word) (k : Nat) :
    roomsTakeSync m k s = { forEach allRooms (match s.currentCycle with
      | some n => closeCell n k
      | none => beginCell) s with currentCycle := some m } := by
  unfold roomsTakeSync
  cases s.currentCycle <;> rfl

/-- A capture sync in REPEATING (R172, R173). -/
theorem captureInRepeating_eq (f : SyncFrame) (order : SyncOrder) :
    captureInRepeating f order s =
      syncRuns f order (s.closing f) { s with link := (s.link.skipCounted f.cycle).captured f s.timeouts } := by
  have hl : produceSync (syncFrameBytes f) f.cycle
      (restartLossTimer { countSkipped f.cycle s with link := { (countSkipped f.cycle s).link with previousSync := some f.cycle } }) =
      { s with link := (s.link.skipCounted f.cycle).captured f s.timeouts } := rfl
  have hcc : ∀ t : State, (officeSideSync t).currentCycle = t.currentCycle := fun t => by
    rw [(officeSideSync_writes (rooms := false)).path]
  unfold captureInRepeating
  dsimp only
  rw [hl]
  cases order with
  | roomsFirst => exact congrArg (fun x => releaseHeld .capture (officeSideSync x)) (roomsTakeSync_eq _ _)
  | playbackFirst => exact congrArg (releaseHeld .capture) ((roomsTakeSync_eq _ _).trans (by rw [hcc]; rfl))

/-- A capture sync that returns from LOCAL (R176). -/
theorem captureInLocal_eq (f : SyncFrame) (order : SyncOrder) :
    captureInLocal f order s =
      syncRuns f order beginCell { s with link := { s.link.captured f s.timeouts with source := .repeating, interval := none } } := by
  cases order <;> rfl

/-- What holds of the state after a capture sync, whatever the source before. -/
structure Repeated (f : SyncFrame) (s u : State) : Prop where
  source : u.link.source = .repeating
  previous : u.link.previousSync = some f.cycle
  cycle : u.currentCycle = some f.cycle
  office : u.link.officeCycle = some f.cycle
  syncs : u.link.syncs = s.link.syncs ++ [syncFrameBytes f]
  timer : u.link.lossTimer = some (ticksOfMs s.timeouts.syncLoss)
  joined : ∀ q : Port, ∃ later, HeldJoined q later s u

/-- A capture sync's turn at the rooms and the office side, from a state whose Link Interface has taken it. -/
theorem syncRuns_repeated {close : RoomId → State → State} (hc : ∀ r s, Writes true false s (close r s)) (f : SyncFrame)
    (order : SyncOrder) (hs : t.link.source = .repeating) (hl : t.link = { t.link.captured f s.timeouts with syncs := t.link.syncs })
    (hy : t.link.syncs = s.link.syncs ++ [syncFrameBytes f]) (hp : ∀ q, t.port q = s.port q) :
    Repeated f s (syncRuns f order close t) := by
  have hw := (syncRuns_writes (s := t) hc f order).path
  rw [hw]
  refine ⟨hs, ?_, rfl, ?_, hy, ?_, fun q => ?_⟩
  · exact congrArg Link.previousSync hl
  · exact congrArg Link.officeCycle hl
  · exact congrArg Link.lossTimer hl
  · rw [← hw]
    obtain ⟨later, hj⟩ := syncRuns_joins (s := t) hc f order q
    exact ⟨later, hj.after (by rw [hp]; exact .refl _)⟩

theorem takenFrom_closing (p : Port) (n : Byte) (f : SyncFrame) : (takenFrom p n s).closing f = s.closing f := by
  unfold State.closing
  rw [takenFrom_currentCycle, takenFrom_link]

/-- A capture sync on the Capture Port, by the source (R172, R176). -/
theorem takeCaptureSync_repeating (f : SyncFrame) (order : SyncOrder) (h : s.link.source = .repeating) :
    takeCaptureSync f order s = syncRuns f order (s.closing f) { takenFrom .capture f.src s with
      link := (s.link.skipCounted f.cycle).captured f s.timeouts } := by
  unfold takeCaptureSync
  simp only [takenFrom_link, h]
  rw [captureInRepeating_eq, takenFrom_closing, takenFrom_link, takenFrom_timeouts]

theorem takeCaptureSync_local (f : SyncFrame) (order : SyncOrder) (h : s.link.source = .localSource) :
    takeCaptureSync f order s = syncRuns f order beginCell { takenFrom .capture f.src s with
      link := { s.link.captured f s.timeouts with source := .repeating, interval := none } } := by
  unfold takeCaptureSync
  simp only [takenFrom_link, h]
  rw [captureInLocal_eq, takenFrom_link, takenFrom_timeouts]

theorem takeCaptureSync_repeated (f : SyncFrame) (order : SyncOrder) : Repeated f s (takeCaptureSync f order s) := by
  cases h : s.link.source with
  | repeating =>
    rw [takeCaptureSync_repeating f order h]
    exact syncRuns_repeated (closing_writes f) f order h rfl rfl fun q => by cases q <;> rfl
  | localSource =>
    rw [takeCaptureSync_local f order h]
    exact syncRuns_repeated (fun r s => beginCell_writes r) f order rfl rfl rfl fun q => by cases q <;> rfl

end Sys2Proof.Machine

open Sys2Proof Sys2Proof.Machine in
/-- Settles O44: a capture sync writes the Link Interface, and its turn at the rooms and the office side leaves the cycle path alone; every room's
close and every context's delivery only adds frames to the ports, and each release joins what was held. -/
theorem captureSyncsComplete : Obligations.CaptureSyncsComplete := by
  unfold Obligations.CaptureSyncsComplete
  intro f order i s hp hi
  have hx : exec i s = .next (takeCaptureSync f order s) := by
    rcases hi with rfl | rfl
    · exact congrArg Host.Outcome.next (if_pos hp)
    · exact congrArg Host.Outcome.next (if_pos hp)
  obtain ⟨hs, hprev, hcyc, hoff, hsyn, htim, hj⟩ := takeCaptureSync_repeated (s := s) f order
  exact ⟨_, hx, hs, hprev, hcyc, hoff, hsyn, htim, hj, fun h => takeCaptureSync_repeating f order h,
    fun h => takeCaptureSync_local f order h⟩

/-! ## Local syncs and the status stream -/

namespace Sys2Proof.Machine

variable {s t u : State}

/-! ### Rooms in turn -/

/-- An operation on the listed rooms, each acting on its own room, acts once on a room that is listed once. -/
theorem forEach_room {f : RoomId → State → State} {g : Room → Room} (hs : ∀ r s, (f r s).room r = g (s.room r))
    (ho : ∀ r q s, q ≠ r → (f r s).room q = s.room q) (rs : List RoomId) (hn : rs.Nodup) (q : RoomId) (s : State) :
    (forEach rs f s).room q = if q ∈ rs then g (s.room q) else s.room q := by
  induction rs generalizing s with
  | nil => rfl
  | cons r rs ih =>
    obtain ⟨hr, hn⟩ := List.nodup_cons.1 hn
    have hi : (forEach (r :: rs) f s).room q = _ := ih hn (f r s)
    rw [hi]
    by_cases hq : q = r
    · subst hq
      rw [if_neg hr, if_pos List.mem_cons_self, hs]
    · rw [ho r q s hq]
      simp only [List.mem_cons, hq, false_or]

theorem allRooms_room {f : RoomId → State → State} {g : Room → Room} (hs : ∀ r s, (f r s).room r = g (s.room r))
    (ho : ∀ r q s, q ≠ r → (f r s).room q = s.room q) (q : RoomId) (s : State) : (forEach allRooms f s).room q = g (s.room q) :=
  (forEach_room hs ho allRooms (List.nodup_finRange 16) q s).trans (if_pos (List.mem_finRange q))

/-- A room that begins an empty cell (R9, R15). -/
def Room.begun (x : Room) : Room := if x.state = .closed then x else { x with assembly := emptyAssembly x.config.tracks }

/-- A room that loses cycles (R14, R15). -/
def Room.losing (n : Nat) (x : Room) : Room :=
  match x.state with
  | .closed => x
  | .onRecord =>
    { x with gap := satAdd 65535 x.gap n, counters := { x.counters with cyclesLost := x.counters.cyclesLost + BitVec.ofNat 32 n } }
  | .offRecord => { x with offCycles := satAdd 65535 x.offCycles n }

theorem beginCell_room (r : RoomId) (s : State) : (beginCell r s).room r = (s.room r).begun := by
  unfold beginCell Room.begun
  split
  · rfl
  · exact State.room_updRoom _ _ _

theorem beginCell_room_ne (r q : RoomId) (s : State) (h : q ≠ r) : (beginCell r s).room q = s.room q := by
  unfold beginCell
  split
  · rfl
  · exact State.room_updRoom_ne _ _ (Ne.symm h)

theorem loseCycles_room (r : RoomId) (n : Nat) (s : State) : (loseCycles r n s).room r = (s.room r).losing n := by
  unfold loseCycles
  split <;> rename_i h
  · unfold Room.losing; rw [h]
  · rw [State.room_updRoom]; unfold Room.losing; rw [h]
  · rw [State.room_updRoom]; unfold Room.losing; rw [h]

theorem loseCycles_room_ne (r q : RoomId) (n : Nat) (s : State) (h : q ≠ r) : (loseCycles r n s).room q = s.room q := by
  unfold loseCycles
  split
  · rfl
  · exact State.room_updRoom_ne _ _ (Ne.symm h)
  · exact State.room_updRoom_ne _ _ (Ne.symm h)

theorem Room.losing_assembly (n : Nat) (x : Room) : (x.losing n).assembly = x.assembly := by
  unfold Room.losing
  split <;> rfl

theorem bare_assembly {x y : Room} (h : x.bare = y.bare) : x.assembly = y.assembly := (congrArg Room.assembly h :)

theorem bare_offCycles {x y : Room} (h : x.bare = y.bare) : x.offCycles = y.offCycles := (congrArg Room.offCycles h :)

theorem bare_gap {x y : Room} (h : x.bare = y.bare) : x.gap = y.gap := (congrArg Room.gap h :)

theorem bare_counters {x y : Room} (h : x.bare = y.bare) : x.counters = y.counters := (congrArg Room.counters h :)

/-! ### Local syncs -/

/-- A local sync's turn at the rooms and the office side. -/
theorem localSyncRuns_writes : Writes true true s (localSyncRuns s) :=
  (forEach_writes (fun r _ => loseCycles_writes r 1) _ _).trans officeSideSync_writes

theorem localSyncRuns_joins : HeldJoined .office [] s (localSyncRuns s) :=
  officeSideSync_joins.after
    ((forEach_writes (rooms := true) (ports := false) (fun r _ => loseCycles_writes r 1) _ _).grown rfl .office)

/-- Every room loses one cycle at a local sync (R15), and the office side touches no more than its ring. -/
theorem localSyncRuns_room (r : RoomId) : ((localSyncRuns s).room r).bare = ((s.room r).losing 1).bare := by
  have hw : Writes false true (forEach allRooms (fun r => loseCycles r 1) s) (localSyncRuns s) := officeSideSync_writes
  rw [hw.room rfl r]
  exact congrArg Room.bare (allRooms_room (f := fun r => loseCycles r 1) (g := Room.losing 1) (fun r s => loseCycles_room r 1 s)
    (fun r q s => loseCycles_room_ne r q 1 s) r s)

/-- A local sync is the Link Interface's part and then its turn at the rooms and the office side (R175). -/
theorem makeLocalSync_eq : makeLocalSync s = localSyncRuns { s with link := localSyncMade s.nextLocalNumber s.link } := rfl

theorem makeLocalSync_link (l : Link) : makeLocalSync { s with link := l } =
    localSyncRuns { s with link := localSyncMade ((l.officeCycle.map (· + 1)).getD 0) l } := rfl

theorem beginCell_link (r : RoomId) (l : Link) (s : State) : beginCell r { s with link := l } = { beginCell r s with link := l } := by
  have hr : ({ s with link := l } : State).room r = s.room r := rfl
  unfold beginCell
  rw [hr]
  split <;> rfl

theorem beginCells_link (l : Link) (rs : List RoomId) (s : State) :
    forEach rs beginCell { s with link := l } = { forEach rs beginCell s with link := l } := by
  induction rs generalizing s with
  | nil => rfl
  | cons r rs ih => exact (congrArg (forEach rs beginCell) (beginCell_link r l s)).trans (ih _)

/-- The expiry of the sync-loss timer: the rooms begin empty cells, the first local sync runs, SYNC_LOST is reported (R174). -/
theorem loseSync_eq :
    loseSync s = reportAlert .syncLost ((localSyncRuns (forEach allRooms beginCell { s with
      link := localSyncMade s.nextLocalNumber { s.link with source := .localSource, lossTimer := none } })).countLink
        fun k => { k with syncLosses := k.syncLosses + 1 }) := by
  have hl := beginCells_link { s.link with source := .localSource, lossTimer := none } allRooms s
  have hm := beginCells_link (localSyncMade s.nextLocalNumber { s.link with source := .localSource, lossTimer := none }) allRooms s
  unfold loseSync
  dsimp only
  rw [hl, makeLocalSync_link, hm]
  rfl

/-- What no write off the cycle path changes in the Link Interface. -/
def Link.cyclePath (l : Link) :
    SyncSource × Option Nat × Option Word × LinkCounters × Option Word × List Frame × Option CyclePeriod :=
  (l.source, l.lossTimer, l.previousSync, l.counters, l.officeCycle, l.syncs, l.interval)

theorem Writes.linkPath {rooms ports : Bool} (h : Writes rooms ports s t) : t.link.cyclePath = s.link.cyclePath := by
  unfold Link.cyclePath
  rw [h.path]

/-- The cycle path after a local sync. -/
theorem localSyncRuns_linkPath : (localSyncRuns s).link.cyclePath = s.link.cyclePath := localSyncRuns_writes.linkPath

theorem makeLocalSync_linkPath : (makeLocalSync s).link.cyclePath = (localSyncMade s.nextLocalNumber s.link).cyclePath :=
  localSyncRuns_linkPath (s := { s with link := localSyncMade s.nextLocalNumber s.link })

theorem makeLocalSync_currentCycle : (makeLocalSync s).currentCycle = s.currentCycle := by
  rw [makeLocalSync_eq, localSyncRuns_writes.path]

theorem loseSync_linkPath : (loseSync s).link.cyclePath =
    (.localSource, none, s.link.previousSync,
      { s.link.counters with localSyncs := s.link.counters.localSyncs + 1, syncLosses := s.link.counters.syncLosses + 1 },
      some s.nextLocalNumber, (localSyncMade s.nextLocalNumber s.link).syncs, some s.link.period) := by
  have hb : (forEach allRooms beginCell { s with
      link := localSyncMade s.nextLocalNumber { s.link with source := .localSource, lossTimer := none } }).link.cyclePath = _ :=
    (forEach_writes (rooms := true) (ports := false) (fun r _ => beginCell_writes r) _ _).linkPath
  rw [← localSyncRuns_linkPath] at hb
  rw [loseSync_eq]
  generalize localSyncRuns _ = v at hb ⊢
  refine (reportAlert_writes (rooms := false) (ports := false) _).linkPath.trans ?_
  simp only [Link.cyclePath, Prod.mk.injEq] at hb ⊢
  obtain ⟨hsrc, htim, hprev, hcnt, hoff, hsyn, hint⟩ := hb
  exact ⟨hsrc, htim, hprev, congrArg (fun k : LinkCounters => { k with syncLosses := k.syncLosses + 1 }) hcnt, hoff, hsyn, hint⟩

/-- Every open room's cell under assembly is empty after the expiry (R174). -/
theorem loseSync_assembly (r : RoomId) (h : (s.room r).state ≠ .closed) :
    ((loseSync s).room r).assembly = emptyAssembly (s.room r).config.tracks := by
  have hb := allRooms_room beginCell_room beginCell_room_ne r
    { s with link := localSyncMade s.nextLocalNumber { s.link with source := .localSource, lossTimer := none } }
  rw [loseSync_eq]
  have hr := localSyncRuns_room (s := forEach allRooms beginCell
    { s with link := localSyncMade s.nextLocalNumber { s.link with source := .localSource, lossTimer := none } }) r
  generalize localSyncRuns _ = v at hr ⊢
  have ha := (reportAlert_writes (s := v.countLink fun k => { k with syncLosses := k.syncLosses + 1 }) (rooms := false) (ports := false)
    .syncLost).room rfl r
  rw [bare_assembly (ha.trans hr)]
  rw [Room.losing_assembly, hb]
  exact congrArg Room.assembly (if_neg h)

/-! ### The status stream -/

/-- A frame for a port whose originate list has room joins its tail (R171). -/
theorem originate_originate (p : Port) (fr : Frame) (h : (s.port p).originate.length < 512) :
    ((originate p fr s).port p).originate = (s.port p).originate ++ [⟨s.link.nextSerial, fr⟩] := by
  have h' : (s.port p).originate.length < Config.originateFrames := h
  unfold originate
  rw [if_pos h']
  cases p <;> rfl

theorem statusNow_silent (h : s.timeouts.statusDest = 0) :
    statusNow s = { s with mgmt := { s.mgmt with statusCount := s.timeouts.freshCount } } := by
  unfold statusNow sendStatus
  rw [if_pos h]

theorem statusNow_sent (h : s.timeouts.statusDest ≠ 0) :
    statusNow s =
      { (originate s.timeouts.statusPort (s.deviceFrame s.timeouts.statusDest kindStatus s.statusPayload) s) with
        mgmt := { s.mgmt with
          statusCount := s.timeouts.freshCount, counters := { s.mgmt.counters with statusFrames := s.mgmt.counters.statusFrames + 1 } } } := by
  have ht : ∀ p fr, (originate p fr s).timeouts = s.timeouts := fun p fr => by unfold originate; split <;> cases p <;> rfl
  unfold statusNow sendStatus
  rw [if_neg h]
  simp only [State.countMgmt, ht, originate_mgmt]

end Sys2Proof.Machine

open Sys2Proof Sys2Proof.Machine in
/-- Settles O47: a local sync is what it writes into the Link Interface and its turn at the rooms and the office side, which keeps the cycle path;
the expiry adds the empty cells before and the alert after. -/
theorem localSyncsAndStatusComplete : Obligations.LocalSyncsAndStatusComplete := by
  unfold Obligations.LocalSyncsAndStatusComplete
  refine ⟨fun n s hp hn => ⟨fun hs ht => ?_, fun hs => ?_⟩, fun s hp hd => ?_⟩
  · have hx : exec .syncLossExpiry s = .next (loseSync s) := congrArg Host.Outcome.next ((if_pos hp).trans (if_pos ⟨hs, ht⟩))
    obtain rfl : n = s.nextLocalNumber := hn
    have hl := loseSync_linkPath (s := s)
    simp only [Link.cyclePath, Prod.mk.injEq] at hl
    obtain ⟨hsrc, htim, hprev, hcnt, hoff, hsyn, hint⟩ := hl
    exact ⟨_, hx, hsrc, htim, hprev, by rw [hcnt], by rw [hcnt], hoff, by rw [hsyn]; exact List.length_append, hint,
      by rw [loseSync_eq]; exact reportAlert_latched _ _, loseSync_assembly, loseSync_eq⟩
  · have hx : exec .localSync s = .next (makeLocalSync s) := congrArg Host.Outcome.next ((if_pos hp).trans (if_pos hs))
    obtain rfl : n = s.nextLocalNumber := hn
    have hl := makeLocalSync_linkPath (s := s)
    simp only [Link.cyclePath, Prod.mk.injEq] at hl
    obtain ⟨hsrc, htim, hprev, hcnt, hoff, hsyn, hint⟩ := hl
    have hroom : ∀ r, ((makeLocalSync s).room r).bare = ((s.room r).losing 1).bare := fun r => localSyncRuns_room r
    refine ⟨_, hx, hsrc.trans hs, by rw [hcnt]; rfl, hoff, by rw [hsyn]; exact List.length_append, hint, makeLocalSync_currentCycle,
      fun r => ⟨fun h => ?_, fun h => ?_⟩, ?_, rfl⟩
    · rw [bare_gap (hroom r), bare_counters (hroom r)]
      unfold Room.losing
      rw [h]
      exact ⟨rfl, rfl⟩
    · rw [bare_offCycles (hroom r)]
      unfold Room.losing
      rw [h]
      rfl
    · exact ⟨[], HeldJoined.after (t := { s with link := localSyncMade s.nextLocalNumber s.link }) localSyncRuns_joins (.refl _)⟩
  · have hx : exec .statusFrame s = .next (statusNow s) := congrArg Host.Outcome.next ((if_pos hp).trans (if_pos hd))
    by_cases h : s.timeouts.statusDest = 0
    · refine ⟨_, hx, ?_, fun _ => ?_, fun h' => absurd h h'⟩
      · rw [statusNow_silent h]
      · rw [statusNow_silent h]; exact ⟨rfl, rfl⟩
    · refine ⟨_, hx, ?_, fun h' => absurd h' h, fun _ => ?_⟩
      · rw [statusNow_sent h]
      · rw [statusNow_sent h]
        refine ⟨rfl, fun hl => ?_⟩
        have ho := originate_originate s.timeouts.statusPort (s.deviceFrame s.timeouts.statusDest kindStatus s.statusPayload) hl
        generalize s.timeouts.statusPort = p at ho ⊢
        cases p <;> exact ho

/-! ## WRITE_ENTRY -/

namespace Sys2Proof.Machine

variable {s t u : State} {c : Ctl}

/-! ### Codes -/

theorem ingestActionOfCode_code {b : Byte} {x : IngestAction} (h : ingestActionOfCode b = some x) : x.code = b.toNat := by
  unfold ingestActionOfCode at h
  split at h <;> cases h <;> exact Eq.symm ‹_›

theorem stationClassOfCode_code {b : Byte} {x : StationClass} (h : stationClassOfCode b = some x) : x.code = b.toNat := by
  unfold stationClassOfCode at h
  split at h <;> cases h <;> exact Eq.symm ‹_›

theorem mixModeOfCode_code {b : Byte} {x : MixMode} (h : mixModeOfCode b = some x) : x.code = b.toNat := by
  unfold mixModeOfCode at h
  split at h <;> cases h <;> exact Eq.symm ‹_›

theorem statusModeOfCode_code {b : Byte} {x : StatusMode} (h : statusModeOfCode b = some x) : x.code = b.toNat := by
  unfold statusModeOfCode at h
  split at h <;> cases h <;> exact Eq.symm ‹_›

theorem portOfCode_code {b : Byte} {x : Port} (h : portOfCode b = some x) : portCode x = b.toNat := by
  unfold portOfCode at h
  split at h <;> cases h <;> exact Eq.symm ‹_›

theorem periodOfCode_code {b : Byte} {x : CyclePeriod} (h : periodOfCode b = some x) : x.code = b.toNat := by
  unfold periodOfCode at h
  split at h <;> cases h <;> exact Eq.symm ‹_›

theorem roomOfByte_val {b : Byte} {r : RoomId} (h : roomOfByte b = some r) : r.val = b.toNat := by
  unfold roomOfByte at h
  split at h <;> cases h
  rfl

theorem poolOfByte_val {b : Byte} {p : PoolId} (h : poolOfByte b = some p) : p.val = b.toNat := by
  unfold poolOfByte at h
  split at h <;> cases h
  rfl

/-! ### Entries as read -/

theorem ingestOfBytes_spec {b : List Byte} {x : IngestEntry} (h : ingestOfBytes b = some x) :
    x.action.code = (byteAt b 0).toNat ∧ x.source = byteAt b 1 ∧
      x.channel = (if byteAt b 2 = 255 then none else some (byteAt b 2)) ∧ x.room.val = (byteAt b 3).toNat ∧
      x.track = (byteAt b 4).toNat := by
  unfold ingestOfBytes at h
  split at h
  · rename_i ha hr
    dsimp only at h
    split at h <;> cases h
    exact ⟨ingestActionOfCode_code ha, rfl, rfl, roomOfByte_val hr, rfl⟩
  · cases h

theorem roomConfigOfBytes_spec {b : List Byte} {x : RoomConfig} (h : roomConfigOfBytes b = some x) :
    x.console = byteAt b 0 ∧ x.tracks = (byteAt b 1).toNat ∧ x.pool.val = (byteAt b 2).toNat ∧ x.minCells = fieldAt b 3 2 ∧
      x.lengthLimit = max 256 (min 261888 (fieldAt b 5 3)) := by
  unfold roomConfigOfBytes at h
  split at h
  · rename_i hp
    dsimp only at h
    split at h <;> cases h
    exact ⟨rfl, rfl, poolOfByte_val hp, rfl, rfl⟩
  · cases h

theorem scheduleOfBytes_spec {b : List Byte} {x : ScheduleEntry} (h : scheduleOfBytes b = some x) :
    x.hour = (if byteAt b 0 = 255 then none else some (byteAt b 0).toNat) ∧
      x.minute = (if byteAt b 1 = 255 then none else some (byteAt b 1).toNat) ∧ x.second = (byteAt b 2).toNat ∧
      x.mask = BitVec.ofNat 16 (fieldAt b 3 2) := by
  unfold scheduleOfBytes at h
  dsimp only at h
  split at h <;> cases h
  exact ⟨rfl, rfl, rfl, rfl⟩

theorem timeoutsOfBytes_spec {b : List Byte} {x : Timeouts} (h : timeoutsOfBytes b = some x) :
    x.accept = max 1 (min 255 (fieldAt b 0 2)) ∧ x.lease = max 1 (min 255 (fieldAt b 2 2)) ∧
      x.stall = max 1 (min 255 (fieldAt b 4 2)) ∧ x.syncLoss = max 8 (min 250 (fieldAt b 6 2)) ∧
      x.statusMode.code = (byteAt b 8).toNat ∧ x.statusDest = byteAt b 9 ∧ portCode x.statusPort = (byteAt b 10).toNat ∧
      x.statusPeriod = max 1 (fieldAt b 11 2) := by
  unfold timeoutsOfBytes at h
  split at h <;> cases h
  rename_i hm hp
  exact ⟨rfl, rfl, rfl, rfl, statusModeOfCode_code hm, rfl, portOfCode_code hp, rfl⟩

theorem defaultMixOfBytes_spec {b : List Byte} {m : Mix} (h : defaultMixOfBytes b = some m) :
    m.mode.code = (byteAt b 4).toNat ∧ m.mask = (byteAt b 5).setWidth 6 ∧
      ∀ j : Fin 6, m.gains[j] = min 16 (byteAt b (6 + j.val)).toNat := by
  unfold defaultMixOfBytes at h
  split at h
  · rename_i hm
    split at h <;> cases h
    exact ⟨mixModeOfCode_code hm, rfl, fun j => by simp⟩
  · cases h

theorem poolSetOf_spec {cls : StationClass} {b : Byte} {old x : BitVec 4} (h : poolSetOf cls b old = some x) :
    x = if cls = .typist then b.setWidth 4 else old := by
  cases cls with
  | typist =>
    simp only [poolSetOf] at h
    split at h <;> cases h
    rfl
  | readback => cases h; rfl
  | archive => cases h; rfl

theorem stationConfigOfBytes_spec {b : List Byte} {old x : StationConfig} (h : stationConfigOfBytes b old = some x) :
    x.node = byteAt b 0 ∧ x.cls.code = (byteAt b 1).toNat ∧
      x.pools = (if x.cls = .typist then (byteAt b 2).setWidth 4 else old.pools) ∧ boolOfCode (byteAt b 3) = some x.clearance ∧
      x.mix.mode.code = (byteAt b 4).toNat ∧ x.mix.mask = (byteAt b 5).setWidth 6 ∧
      (∀ j : Fin 6, x.mix.gains[j] = min 16 (byteAt b (6 + j.val)).toNat) ∧ x.backstep = min 5000 (fieldAt b 12 2) ∧
      x.listenDelay = min 30000 (fieldAt b 14 2) := by
  unfold stationConfigOfBytes at h
  split at h
  · rename_i hc hb hm
    split at h
    · rename_i hp
      split at h <;> cases h
      obtain ⟨hmode, hmask, hgains⟩ := defaultMixOfBytes_spec hm
      exact ⟨rfl, stationClassOfCode_code hc, poolSetOf_spec hp, hb, hmode, hmask, hgains, rfl, rfl⟩
    · cases h
  · cases h

/-! ### Entries as stored -/

theorem accepted_ok {α : Type} {x : Option α} {k : α → State} (h : accepted x k = .ok t) : ∃ v, x = some v ∧ t = k v := by
  cases x with
  | none => cases h
  | some v => cases h; exact ⟨v, rfl, rfl⟩

theorem getElem_setIfInBounds_fin {α : Type} {n : Nat} (v : Vector α n) (i : Nat) (x : α) (j : Fin n) :
    (v.setIfInBounds i x)[j] = if i = j.val then x else v[j] := by
  simp only [Fin.getElem_fin, Vector.getElem_setIfInBounds]

theorem checkReserves_pageReserve : (checkReserves s).store.pageReserve = s.store.pageReserve := checkReserves_changes.sameTables.reserve

/-- An accepted write stores its entry field by field and leaves the table's others alone. -/
theorem writeTable_stored {x : Cursor} {b : List Byte} (h : writeTable x.table x.index b s = .ok t) : EntryStored x b s t := by
  obtain ⟨table, index⟩ := x
  cases table with
  | ingestMap =>
    obtain ⟨v, hv, rfl⟩ := accepted_ok h
    intro i
    dsimp only
    rw [getElem_setIfInBounds_fin]
    exact ⟨fun hi => if_neg hi, fun hi => by rw [if_pos hi]; exact ingestOfBytes_spec hv⟩
  | roomConfig =>
    simp only [writeTable] at h
    split at h
    · unfold writeRoomConfig at h
      split at h
      · cases h
      · obtain ⟨v, hv, rfl⟩ := accepted_ok h
        intro r
        dsimp only
        refine ⟨fun hi => State.room_updRoom_ne _ _ (fun he => hi (congrArg Fin.val he)), fun hi => ?_⟩
        obtain rfl : (⟨index, ‹_›⟩ : RoomId) = r := Fin.ext hi
        rw [State.room_updRoom]
        exact roomConfigOfBytes_spec hv
    · cases h
  | stationTable =>
    simp only [writeTable] at h
    split at h
    · unfold writeStation at h
      split at h
      · cases h
      · split at h
        · cases h
        · obtain ⟨v, hv, rfl⟩ := accepted_ok h
          intro e
          dsimp only
          rw [State.updContext_station]
          refine ⟨fun hi => State.station_updStation_ne _ _ (fun he => hi (congrArg Fin.val he)), fun hi => ?_⟩
          obtain rfl : (⟨index, ‹_›⟩ : StationId) = e := Fin.ext hi
          rw [State.station_updStation, State.context_updContext]
          obtain ⟨hn, hc, hp, hb, hmode, hmask, hg, hback, hl⟩ := stationConfigOfBytes_spec hv
          exact ⟨rfl, hn, hc, hp, hb, hmode, hmask, hg, hback, hl, rfl⟩
    · cases h
  | cutSchedule =>
    obtain ⟨v, hv, rfl⟩ := accepted_ok h
    intro i
    dsimp only
    rw [getElem_setIfInBounds_fin]
    exact ⟨fun hi => if_neg hi, fun hi => by rw [if_pos hi]; exact scheduleOfBytes_spec hv⟩
  | statusItems =>
    obtain ⟨v, hv, rfl⟩ := accepted_ok h
    intro i
    dsimp only
    rw [getElem_setIfInBounds_fin]
    exact ⟨fun hi => if_neg hi, fun hi => by rw [if_pos hi]; exact hv⟩
  | managerList =>
    simp only [writeTable, writeManager] at h
    split at h <;> cases h
    intro i
    dsimp only
    rw [getElem_setIfInBounds_fin]
    exact ⟨fun hi => if_neg hi, fun hi => if_pos hi⟩
  | linkProfile =>
    simp only [writeTable, writeLinkProfile] at h
    split at h
    · cases h
    · obtain ⟨v, hv, rfl⟩ := accepted_ok h
      exact ⟨periodOfCode_code hv, rfl⟩
  | storeSettings =>
    cases h
    exact checkReserves_pageReserve
  | timeouts =>
    obtain ⟨v, hv, rfl⟩ := accepted_ok h
    obtain ⟨ha, hl, hs, hy, hm, hd, hp, hn⟩ := timeoutsOfBytes_spec hv
    exact ⟨ha, hl, hs, hy, hm, hd, hp, hn, rfl⟩

theorem byteAt_take {b : List Byte} {i n : Nat} (h : i < n) : byteAt (b.take n) i = byteAt b i := by
  unfold byteAt
  rw [List.getElem?_take_of_lt h]

theorem fieldAt_take {b : List Byte} {i k n : Nat} (h : i + k ≤ n) : fieldAt (b.take n) i k = fieldAt b i k := by
  unfold fieldAt
  rw [List.drop_take, List.take_take, Nat.min_eq_left (by omega)]

/-- What is stored of an entry is read from its own bytes, not from what follows them. -/
theorem entryStored_take {x : Cursor} {b : List Byte} (h : EntryStored x (b.take x.table.entryLength) s t) : EntryStored x b s t := by
  obtain ⟨table, index⟩ := x
  have hg : ∀ j : Fin 6, 6 + j.val < 16 := fun j => by omega
  cases table <;>
    simpa (disch := omega) only [EntryStored, TableName.entryLength, byteAt_take, fieldAt_take] using h

/-! ### The command -/

theorem handled_writeEntry : handled c .writeEntry s =
    (takenFrom c.port c.src s).countMgmt fun q => { q with controlTaken := q.controlTaken + 1 } := by
  unfold handled leaseEffect
  split
  · exact if_neg (by simp [CommandName.restartsLease])
  · rfl

theorem handled_cursor (p : Port) : ((handled c .writeEntry s).port p).cursor = (s.port p).cursor := by rw [handled_port]

/-- A manager's WRITE_ENTRY that is long enough and carries no override of 0 is written at its port's cursor (R186). -/
theorem exec_writeEntry_of {body : List Byte} (h : FromManager c s) (hz : s.entryZeroOverride c body = false)
    (hb : s.entryShort c.port body = false) :
    exec (.writeEntry c body) s = .next (writeAtCursor c body (handled c .writeEntry s)) := by
  obtain ⟨hp, hs, ho⟩ := h
  change Host.Outcome.next (control c .writeEntry _ s) = _
  rw [control_of hp (by rw [hs]; simp), ← handled_writeEntry, hs]
  have hb' : (handled c .writeEntry s).entryShort c.port body = false := by
    unfold State.entryShort at hb ⊢; rw [handled_cursor]; exact hb
  have hz' : (handled c .writeEntry s).entryZeroOverride c body = false := by
    unfold State.entryZeroOverride at hz ⊢; rw [handled_cursor]; exact hz
  dsimp only
  rw [if_neg (by rw [hb']; simp), if_neg (by rw [hz']; simp)]

theorem entryShort_of {x : Cursor} {body : List Byte} (hx : (s.port c.port).cursor = some x) :
    s.entryShort c.port body = decide (body.length < x.table.entryLength) := by
  unfold State.entryShort
  rw [hx]

theorem exec_writeEntry_short {body : List Byte} {x : Cursor} (hp : s.power = .on) (hs : s.sender c.src ≠ .unknown)
    (hx : (s.port c.port).cursor = some x) (hb : body.length < x.table.entryLength) :
    exec (.writeEntry c body) s = .next (respond c .writeEntry .badParameter [] (handled c .writeEntry s)) := by
  change Host.Outcome.next (control c .writeEntry _ s) = _
  rw [control_of hp hs, ← handled_writeEntry]
  refine congrArg Host.Outcome.next (if_pos ?_)
  rw [entryShort_of ((handled_cursor _).trans hx), decide_eq_true hb]

section AtCursor
variable {x : Cursor} {body : List Byte} (hx : (s.port c.port).cursor = some x)
include hx

theorem writeAtCursor_ok (hi : x.index < x.table.size) (h : writeTable x.table x.index (body.take x.table.entryLength) s = .ok t) :
    writeAtCursor c body s = respond c .writeEntry .ok (t.entryBytes x.table x.index ++ bytesOf 2 (x.index + 1))
      (setCursor c.port ⟨x.table, x.index + 1⟩ t) := by
  unfold writeAtCursor
  simp only [hx, Nat.not_le.2 hi, if_false, h]

theorem writeAtCursor_error {r : Result} (hi : x.index < x.table.size)
    (h : writeTable x.table x.index (body.take x.table.entryLength) s = .error r) :
    writeAtCursor c body s = respond c .writeEntry r [] s := by
  unfold writeAtCursor
  simp only [hx, Nat.not_le.2 hi, if_false, h]

theorem writeAtCursor_end (hi : x.table.size ≤ x.index) : writeAtCursor c body s = respond c .writeEntry .cursorEnd [] s := by
  unfold writeAtCursor
  simp only [hx, hi, if_true]

end AtCursor

theorem writeTable_openRoom {r : RoomId} {b : List Byte} (h : (s.room r).state ≠ .closed) :
    writeTable .roomConfig r.val b s = .error .wrongState := by
  simp only [writeTable, r.isLt, dif_pos]
  exact if_pos h

theorem writeTable_usedStation {e : StationId} {b : List Byte} (h : (s.station e).state ≠ .offline) :
    writeTable .stationTable e.val b s = .error .wrongState := by
  simp only [writeTable, e.isLt, dif_pos]
  exact if_pos h

theorem writeTable_profileInRun {b : List Byte} (h : s.mgmt.op = .run) : writeTable .linkProfile 0 b s = .error .wrongState :=
  if_pos (by rw [h]; simp)

end Sys2Proof.Machine

open Sys2Proof Sys2Proof.Machine in
/-- Settles O10: a WRITE_ENTRY that passes its checks is `writeTable` at the cursor, whose accepted values are the fields of the entry. -/
theorem writeEntryCompletes : Obligations.WriteEntryCompletes := by
  unfold Obligations.WriteEntryCompletes
  refine ⟨fun c body s x hp hs hx hb => exec_writeEntry_short hp hs hx hb, fun c body s hm hz => ⟨fun hx => ?_, fun x hx hb => ?_⟩⟩
  · rw [exec_writeEntry_of hm hz (by unfold State.entryShort; rw [hx])]
    unfold writeAtCursor
    rw [handled_cursor, hx]
  · have he := exec_writeEntry_of (body := body) hm hz (by rw [entryShort_of hx]; simpa using hb)
    have hx' : ((handled c .writeEntry s).port c.port).cursor = some x := (handled_cursor _).trans hx
    refine ⟨fun t hi ht => ⟨by rw [he, writeAtCursor_ok hx' hi ht], entryStored_take (writeTable_stored ht)⟩,
      fun r hi hr => by rw [he, writeAtCursor_error hx' hi hr], fun hi => by rw [he, writeAtCursor_end hx' hi], ?_, ?_, ?_⟩
    · rintro r rfl hr
      rw [he, writeAtCursor_error hx' r.isLt (writeTable_openRoom (by rw [handled_room]; exact hr))]
    · rintro e rfl hr
      rw [he, writeAtCursor_error hx' e.isLt (writeTable_usedStation (by rw [handled_state]; exact hr))]
    · rintro rfl hr
      rw [he, writeAtCursor_error hx' (by decide) (writeTable_profileInRun (by rw [handled_op]; exact hr))]

/-! ## What a check of the reserves leaves alone -/

namespace Sys2Proof.Machine

variable {s t u : State}

/-- What a check of the reserves can do: rooms lose ring entries, reclaimable takes leave with their pages and markers, and alerts are reported.
Everything else stays (R34 to R36). -/
structure Pressed (s t : State) : Prop where
  frame : t = { s with
    rooms := t.rooms, store := t.store, link := t.link, mgmt := t.mgmt
    takeTable := { s.takeTable with takes := t.takeTable.takes }
    markerPool := { s.markerPool with free := t.markerPool.free } }
  writes : Writes false false s t
  kept : ∀ j x, s.take? j = some x → x.reclaimable = false → t.take? j = some x
  listed : ∀ j x, t.take? j = some x → s.take? j = some x
  entries : s.markerPool.free ≤ t.markerPool.free

theorem Pressed.refl : Pressed s s := ⟨rfl, .refl, fun _ _ h _ => h, fun _ _ h => h, Nat.le_refl _⟩

theorem Pressed.trans (h : Pressed s t) (h' : Pressed t u) : Pressed s u where
  frame := by rw [h'.frame, h.frame]
  writes := h.writes.trans h'.writes
  kept j x hx hr := h'.kept j x (h.kept j x hx hr) hr
  listed j x hx := h.listed j x (h'.listed j x hx)
  entries := Nat.le_trans h.entries h'.entries

/-- Reports, ring entries and the page store's own parts press on no take and no marker entry. -/
theorem Pressed.aside (hw : Writes false false s t) (hf : t = { s with rooms := t.rooms, store := t.store, link := t.link, mgmt := t.mgmt }) :
    Pressed s t where
  frame := by rw [hf]
  writes := hw
  kept j x hx _ := by rw [hf]; exact hx
  listed j x hx := by rw [hf] at hx; exact hx
  entries := by rw [hf]

theorem Pressed.none {j : Nat} (h : Pressed s t) (hj : s.take? j = none) : t.take? j = none := by
  rcases hx : t.take? j with _ | x
  · rfl
  · rw [h.listed j x hx] at hj; cases hj

theorem reportAlert_pressed (a : Alert) : Pressed s (reportAlert a s) :=
  .aside (reportAlert_writes a) (by rw [reportAlert_told a s])

/-! ### Reclaim -/

/-- Clearing the rings touches the rooms alone (R24). -/
theorem clearRings_eq (k : Nat) (s : State) : clearRings k s = { s with rooms := (clearRings k s).rooms } := by
  unfold clearRings
  generalize allRooms = rs
  induction rs generalizing s with
  | nil => rfl
  | cons r rs ih => exact ih _

/-- A slot set FREE, its take's pages and markers returned, before the rings are cleared (R34, R44, R81). -/
def State.freed (s : State) (k : Nat) (t : Take) : State :=
  { s with
    store := freeChain s.store.pages.length t.firstPage s.store
    markerPool := { s.markerPool with free := s.markerPool.free + t.markers.length }
    takeTable := { s.takeTable with takes := mapErase k s.takeTable.takes } }

theorem State.freed_take (s : State) (k : Nat) (t : Take) : (s.freed k t).take? k = none := mapGet_mapErase_same

theorem State.freed_take_ne (s : State) {k j : Nat} (t : Take) (h : j ≠ k) : (s.freed k t).take? j = s.take? j := mapGet_mapErase_ne h

theorem freeTake_of {k : Nat} {x : Take} (h : s.take? k = some x) : freeTake k s = clearRings k (s.freed k x) := by
  have h' : ({ s with store := freeChain s.store.pages.length x.firstPage s.store } : State).take? k = some x := h
  unfold freeTake
  rw [h]
  dsimp only
  unfold freeSlot
  rw [h']
  rfl

theorem clearRings_take (k j : Nat) (s : State) : (clearRings k s).take? j = s.take? j := by
  unfold State.take?; rw [clearRings_takes]

/-- After it is freed a slot holds no take (R44). -/
theorem freeTake_take (k : Nat) (s : State) : (freeTake k s).take? k = none := by
  rcases h : s.take? k with _ | x
  · unfold freeTake; simp only [h]
  · rw [freeTake_of h, clearRings_take]; exact s.freed_take k x

theorem freeTake_take_ne {j k : Nat} (h : j ≠ k) (s : State) : (freeTake k s).take? j = s.take? j := by
  rcases hx : s.take? k with _ | x
  · unfold freeTake; simp only [hx]
  · rw [freeTake_of hx, clearRings_take]; exact s.freed_take_ne x h

/-- A reclaimed take leaves the retention queue, and its slot is set FREE (R34). -/
theorem reclaim_of {k : Nat} {x : Take} (h : s.take? k = some x) (hr : x.reclaimable = true) :
    reclaim k s = clearRings k
      (State.freed { s with store := { s.store with retention := s.store.retention.filter (· != k) } } k x) := by
  unfold reclaim
  simp only [h, hr, if_true]
  exact freeTake_of (s := { s with store := { s.store with retention := s.store.retention.filter (· != k) } }) h

theorem reclaim_pressed (k : Nat) : Pressed s (reclaim k s) := by
  rcases hx : s.take? k with _ | x
  · unfold reclaim; simp only [hx]; exact .refl
  · by_cases hr : x.reclaimable = true
    · have hw : Writes false false s (reclaim k s) := reclaim_writes k
      rw [reclaim_of hx hr] at hw ⊢
      rw [clearRings_eq] at hw ⊢
      refine ⟨rfl, hw, fun j y hy hn => ?_, fun j y hy => ?_, Nat.le_add_right _ _⟩
      · have hj : j ≠ k := fun he => by subst he; rw [hx] at hy; cases hy; rw [hr] at hn; cases hn
        exact (mapGet_mapErase_ne hj).trans hy
      · have hj : j ≠ k := fun he => by
          subst he
          have hy' : mapGet j (mapErase j s.takeTable.takes) = some y := hy
          rw [mapGet_mapErase_same] at hy'; cases hy'
        exact (mapGet_mapErase_ne hj).symm.trans hy
    · unfold reclaim; simp only [hx, hr]; exact .refl

theorem pressureSteps_pressed (n : Nat) (s : State) : Pressed s (pressureSteps n s) := by
  induction n generalizing s with
  | zero => exact .refl
  | succ n ih =>
    rw [pressureSteps]
    split
    · split
      · exact ((reclaim_pressed _).trans (.aside Writes.refl.countStore rfl)).trans (ih _)
      · exact .refl
    · exact .refl

theorem reportReserves_pressed : Pressed s (reportReserves s) := by
  have h : ∀ (p : Prop) [Decidable p] (a : Alert) (s : State), Pressed s (if p then reportAlert a s else s) := fun p _ a s => by
    split
    · exact reportAlert_pressed a
    · exact .refl
  exact (h _ _ _).trans (h _ _ _)

theorem checkReserves_pressed : Pressed s (checkReserves s) := by
  unfold checkReserves
  split
  · exact (pressureSteps_pressed _ _).trans reportReserves_pressed
  · exact .refl

/-! ### What the frame says of each part -/

section
variable (h : Pressed s t)
include h

theorem Pressed.handOff : t.handOff = s.handOff := by rw [h.frame]

theorem Pressed.station (e : StationId) : t.station e = s.station e := by rw [h.frame]; rfl

theorem Pressed.context (e : StationId) : t.context e = s.context e := by rw [h.frame]; rfl

theorem Pressed.now : t.now = s.now := by rw [h.frame]; rfl

theorem Pressed.issue : t.takeTable.issue = s.takeTable.issue := by rw [h.frame]

theorem Pressed.bare (r : RoomId) : (t.room r).bare = (s.room r).bare := h.writes.room rfl r

end

end Sys2Proof.Machine

/-! ## The take of a slot changed -/

namespace Sys2Proof.Machine

variable {s t u : State} {k k' : Nat} {x y z : Take}

/-- The take of slot `k` goes from `x` to `y`, its number kept, and `n` marker entries are used: no more is written. -/
structure OnTake (k n : Nat) (x y : Take) (s t : State) : Prop where
  frame : t = { s with
    takeTable := { s.takeTable with takes := t.takeTable.takes }, markerPool := { s.markerPool with free := t.markerPool.free } }
  before : s.take? k = some x
  after : t.take? k = some y
  number : y.number = x.number
  other : ∀ j, j ≠ k → t.take? j = s.take? j
  free : t.markerPool.free = s.markerPool.free - n
  numbers : ∀ m, (t.findTake m).isSome = (s.findTake m).isSome

theorem OnTake.refl (h : s.take? k = some x) : OnTake k 0 x x s s := ⟨rfl, h, h, rfl, fun _ _ => rfl, rfl, fun _ => rfl⟩

theorem OnTake.trans {n m : Nat} (h : OnTake k n x y s t) (h' : OnTake k m y z t u) : OnTake k (n + m) x z s u where
  frame := by rw [h'.frame, h.frame]
  before := h.before
  after := h'.after
  number := h'.number.trans h.number
  other j hj := (h'.other j hj).trans (h.other j hj)
  free := by rw [h'.free, h.free, Nat.sub_sub]
  numbers m := (h'.numbers m).trans (h.numbers m)

/-- Listing a value under a key that has one does not change which numbers are listed, if its own number stays. -/
theorem find_mapSet_isSome {m : SMap Take} (h : mapGet k m = some x) (hn : y.number = x.number) (n : Nat) :
    ((mapSet k y m).find? fun p => p.2.number == n).isSome = (m.find? fun p => p.2.number == n).isSome := by
  have ha : ∀ m : SMap Take, (m.find? fun p => p.2.number == n).isSome = m.any fun p => p.2.number == n := fun m => by
    rw [Bool.eq_iff_iff, List.find?_isSome, List.any_eq_true]
  rw [ha, ha]
  clear ha
  induction m with
  | nil => cases h
  | cons p m ih =>
    obtain ⟨k', v⟩ := p
    unfold mapSet
    split
    · have hx := mapGet_mem h
      rw [List.any_cons, Bool.eq_iff_iff, Bool.or_eq_true]
      exact ⟨fun ha => ha.elim (fun ha => List.any_eq_true.2 ⟨_, hx, by rw [← hn]; exact ha⟩) id, .inr⟩
    · split
      · rename_i hk
        subst hk
        have hv : v = x := by simpa [mapGet_cons] using h
        subst hv
        rw [List.any_cons, List.any_cons, hn]
      · rename_i hk
        have h' : mapGet k m = some x := by rw [mapGet_cons, if_neg (Ne.symm hk)] at h; exact h
        rw [List.any_cons, List.any_cons, ih h']

theorem setTake_onTake (h : s.take? k = some x) (hn : y.number = x.number) : OnTake k 0 x y s (s.setTake k y) :=
  ⟨rfl, h, setTake_take _ _ _, hn, fun _ hj => setTake_take_ne _ _ hj, rfl, find_mapSet_isSome h hn⟩

theorem updTake_onTake (h : s.take? k = some x) (f : Take → Take) (hn : (f x).number = x.number) :
    OnTake k 0 x (f x) s (s.updTake k f) := by
  rw [State.updTake_some _ _ h]
  exact setTake_onTake h hn

theorem placed_onTake (h : s.take? k = some x) (m : Marker) : OnTake k 1 x (x.withMarker m) s (s.placed k x m) :=
  have ht := setTake_onTake (s := s) (y := x.withMarker m) h rfl
  ⟨rfl, h, ht.after, rfl, ht.other, rfl, ht.numbers⟩

theorem placeCounted_onTake {m : Marker} (h : s.take? k = some x) (ha : m.kind.isAnnotation = false) (hf : 0 < s.markerPool.free) :
    OnTake k 1 x (x.withMarker m) s (placeCounted k m s) := by
  rw [placeCounted_of h ha hf]
  exact placed_onTake h m

section
variable {n : Nat} (h : OnTake k n x y s t)
include h

theorem OnTake.room (r : RoomId) : t.room r = s.room r := by rw [h.frame]; rfl

theorem OnTake.context (e : StationId) : t.context e = s.context e := by rw [h.frame]; rfl

theorem OnTake.handOff : t.handOff = s.handOff := by rw [h.frame]

theorem OnTake.now : t.now = s.now := by rw [h.frame]; rfl

theorem OnTake.link : t.link = s.link := by rw [h.frame]

theorem OnTake.issue : t.takeTable.issue = s.takeTable.issue := by rw [h.frame]

end

/-! ## Take numbers -/

theorem issueFrom_congr (h : ∀ n, (t.findTake n).isSome = (s.findTake n).isSome) (k n : Nat) : issueFrom t k n = issueFrom s k n := by
  induction k generalizing n with
  | zero => rfl
  | succ k ih => rw [issueFrom, issueFrom, h, ih]

/-- The next number depends on the numbers listed and the last one issued (R45). -/
theorem nextTakeNumber_congr (hi : t.takeTable.issue = s.takeTable.issue) (h : ∀ n, (t.findTake n).isSome = (s.findTake n).isSome) :
    t.nextTakeNumber = s.nextTakeNumber := by
  unfold State.nextTakeNumber
  rw [hi, issueFrom_congr h]

theorem OnTake.nextTakeNumber {n : Nat} (h : OnTake k n x y s t) : t.nextTakeNumber = s.nextTakeNumber :=
  nextTakeNumber_congr h.issue h.numbers

theorem nextTakeNumber_of_takeTable (h : t.takeTable = s.takeTable) : t.nextTakeNumber = s.nextTakeNumber :=
  nextTakeNumber_congr (by rw [h]) fun n => by unfold State.findTake; rw [h]

/-! ## Opening a take -/

/-- A take opened in a slot, before the reserves are checked (R44, R45). -/
def State.opening (s : State) (k : Nat) (r : RoomId) : State :=
  { s with takeTable := { s.takeTable with
      takes := mapSet k (openedTake s.nextTakeNumber r (s.room r).config s.link.period s.now) s.takeTable.takes
      issue := nextNumber s.nextTakeNumber } }

theorem openTakeIn_pressed (k : Nat) (r : RoomId) : Pressed (s.opening k r) (openTakeIn k r s) := checkReserves_pressed

/-- The take that opens in a slot (R43 to R46). -/
theorem openTakeIn_take (k : Nat) (r : RoomId) :
    (openTakeIn k r s).take? k = some (openedTake s.nextTakeNumber r (s.room r).config s.link.period s.now) :=
  (openTakeIn_pressed k r).kept k _ mapGet_mapSet_same rfl

theorem openTakeIn_take_ne (r : RoomId) {j : Nat} (h : j ≠ k) (hx : s.take? j = some x) (hr : x.reclaimable = false) :
    (openTakeIn k r s).take? j = some x :=
  (openTakeIn_pressed k r).kept j _ ((mapGet_mapSet_ne h).trans hx) hr

theorem openTakeIn_issue (k : Nat) (r : RoomId) : (openTakeIn k r s).takeTable.issue = nextNumber s.nextTakeNumber :=
  (openTakeIn_pressed k r).issue

/-! ## Closing a take -/

/-- The take closed with a cause (R52 step 2, R47). -/
def Take.closedBy (x : Take) (cause : CutCause) (now : Stamp) : Take :=
  { x with lifecycle := .closed, endStamp := some now, cause := some cause, transcription := some .pending, archive := some .unarchived }

/-- A take with its end marker, closed with a cause (R52 steps 1 and 2). -/
def Take.ended (x : Take) (rm : Room) (cause : CutCause) (now : Stamp) (source : Byte) : Take :=
  ((endMarkers rm x.cells now source).foldl Take.withMarker x).closedBy cause now

theorem closeTake_empty {rm : Room} {cause : CutCause} {source : Byte} (h : s.cellsOf k = 0) : closeTake k rm cause source s = s :=
  if_pos h

/-- A take with cells closes with its end marker (R52 steps 1 and 2). -/
theorem closeTake_onTake {rm : Room} (cause : CutCause) (source : Byte) (h : s.take? k = some x) (hc : x.cells ≠ 0)
    (hf : rm.closeNeeds ≤ s.markerPool.free) :
    OnTake k rm.closeNeeds x (x.ended rm cause s.now source) s (closeTake k rm cause source s) := by
  have hcells : s.cellsOf k = x.cells := cellsOf_of h
  have close : ∀ {n : Nat} {y : Take} {t : State}, OnTake k n x y s t →
      OnTake k n x (y.closedBy cause s.now) s (t.updTake k fun y =>
        { y with lifecycle := .closed, endStamp := some t.now, cause := some cause, transcription := some .pending,
                 archive := some .unarchived }) := fun ht => by
    rw [← ht.now]
    exact ht.trans (updTake_onTake ht.after (fun y => y.closedBy cause _) rfl)
  unfold closeTake Take.ended endMarkers Room.closeNeeds at *
  simp only [hcells, hc, if_false]
  by_cases hs : rm.sealed = true
  · simp only [hs, if_true, true_or] at hf ⊢
    exact close (placeCounted_onTake h rfl (by omega))
  · by_cases ho : rm.state = .offRecord
    · simp only [hs, ho, if_true, or_true, Bool.false_eq_true, if_false] at hf ⊢
      exact close (placeCounted_onTake h rfl (by omega))
    · simp only [hs, ho, or_self, Bool.false_eq_true, if_false] at hf ⊢
      exact close (.refl h)

/-! ## The carried markers -/

/-- The markers that a cut carries to its successor, in the order of their placing. -/
def Room.carries (rm : Room) (cause : CutCause) (closing : Nat) (now : Stamp) (source : Byte) : List Marker :=
  (if rm.sealed then [plainMarker .sealBegin 0 now source]
    else if rm.state = .offRecord then [plainMarker .offRecordBegin 0 now source]
    else []) ++
    if cause = .length ∨ cause = .deferred then [{ plainMarker .continued 0 now source with code := BitVec.ofNat 16 closing }] else []

/-- The entries that carried markers use. -/
def Room.carryNeeds (rm : Room) (cause : CutCause) : Nat :=
  rm.closeNeeds + if cause = .length ∨ cause = .deferred then 1 else 0

theorem cutNeeds_eq (rm : Room) (cause : CutCause) : rm.cutNeeds cause = rm.closeNeeds + rm.carryNeeds cause := by
  unfold Room.cutNeeds Room.carryNeeds Room.closeNeeds
  split <;> omega

theorem placeCarried_onTake {rm : Room} (cause : CutCause) (source : Byte) (closing : Nat) (h : s.take? k = some x)
    (hf : rm.carryNeeds cause ≤ s.markerPool.free) :
    OnTake k (rm.carryNeeds cause) x ((rm.carries cause closing s.now source).foldl Take.withMarker x) s
      (placeCarried k rm cause source closing s) := by
  have step : ∀ {n : Nat} {y : Take} {t : State}, OnTake k n x y s t →
      (if cause = .length ∨ cause = .deferred then n + 1 else n) ≤ s.markerPool.free →
      OnTake k (n + if cause = .length ∨ cause = .deferred then 1 else 0) x
        ((if cause = .length ∨ cause = .deferred then [{ plainMarker .continued 0 s.now source with code := BitVec.ofNat 16 closing }]
          else []).foldl Take.withMarker y) s
        (if cause = .length ∨ cause = .deferred then
          placeCounted k { plainMarker .continued 0 t.now source with code := BitVec.ofNat 16 closing } t else t) := fun ht hn => by
    split
    · rename_i hc
      rw [if_pos hc] at hn
      rw [← ht.now]
      exact ht.trans (placeCounted_onTake ht.after rfl (by rw [ht.free]; omega))
    · exact ht
  unfold placeCarried Room.carries Room.carryNeeds Room.closeNeeds at *
  rw [List.foldl_append]
  by_cases hs : rm.sealed = true
  · simp only [hs, if_true, true_or] at hf ⊢
    exact step (placeCounted_onTake h rfl (by omega)) (by split <;> simp_all)
  · by_cases ho : rm.state = .offRecord
    · simp only [hs, ho, if_true, or_true, Bool.false_eq_true, if_false] at hf ⊢
      exact step (placeCounted_onTake h rfl (by omega)) (by split <;> simp_all)
    · simp only [hs, ho, or_self, Bool.false_eq_true, if_false] at hf ⊢
      exact step (.refl h) (by split <;> simp_all)

end Sys2Proof.Machine

/-! ## Offers and arrivals -/

namespace Sys2Proof.Machine

variable {s t u : State} {k k' : Nat} {x y z : Take} {e : StationId}

/-- The state of an offer before its notice goes out (R95). -/
def State.offering (s : State) (k : Nat) (e : StationId) (x : Take) : State :=
  (((s.updPool x.pool fun q => q.filter (· != k)).setTake k (x.offeredTo (s.station e).config.node)).updStation e fun y =>
    { y with state := .offered, take := some k, timer := some ⟨.offer, ticksOfS s.timeouts.accept⟩ }).countHandOff
      fun c => { c with offersMade := c.offersMade + 1 }

/-- What each pool queue reads as once one is changed. -/
theorem updPool_pool (p q : PoolId) (f : List Nat → List Nat) : (s.updPool p f).pool q = if q = p then f (s.pool q) else s.pool q := by
  unfold State.pool State.updPool
  simp only [Fin.getElem_fin, Vector.getElem_set]
  by_cases h : q = p
  · subst h; simp [State.pool]
  · rw [if_neg (fun he => h (Fin.ext he.symm)), if_neg h]

theorem offer_told (h : s.take? k = some x) : Told (s.offering k e x) (offer k e s) := by
  unfold offer
  rw [h]
  exact stationNotice_told _ _ _

section Offer
variable (h : s.take? k = some x)
include h

theorem offer_take : (offer k e s).take? k = some (x.offeredTo (s.station e).config.node) :=
  ((offer_told h).take k).trans mapGet_mapSet_same

theorem offer_take_ne {j : Nat} (hj : j ≠ k) : (offer k e s).take? j = s.take? j := ((offer_told h).take j).trans (mapGet_mapSet_ne hj)

theorem offer_context (q : StationId) : (offer k e s).context q = s.context q := (offer_told h).context q

theorem offer_station : (offer k e s).station e =
    { s.station e with state := .offered, take := some k, timer := some ⟨.offer, ticksOfS s.timeouts.accept⟩ } :=
  ((offer_told h).station e).trans (by simp [State.offering])

theorem offer_pool (p : PoolId) : (offer k e s).pool p = if p = x.pool then (s.pool p).filter (· != k) else s.pool p := by
  have hp : (offer k e s).pool p = (s.updPool x.pool fun q => q.filter (· != k)).pool p := by
    unfold State.pool
    rw [(offer_told h).handOff]
    rfl
  rw [hp, updPool_pool]

theorem offer_archive : (offer k e s).handOff.archive = s.handOff.archive := by rw [(offer_told h).handOff]; rfl

theorem offer_wait : (offer k e s).handOff.wait = s.handOff.wait := by rw [(offer_told h).handOff]; rfl

theorem offer_offersMade : (offer k e s).handOff.counters.offersMade = s.handOff.counters.offersMade + 1 := by
  rw [(offer_told h).handOff]; rfl

end Offer

/-- A take that arrives with no eligible station waiting stays in its pool (R94). -/
theorem arrive_stays (h : s.take? k = some x) (hw : s.firstWaiting x = none) : arrive k s = s := by
  unfold arrive
  simp only [h, hw]

/-- A take that arrives with an eligible station waiting is offered to the first such station (R94). -/
theorem arrive_offered (h : s.take? k = some x) (hw : s.firstWaiting x = some e) :
    arrive k s = offer k e (s.updWait fun q => q.filter (· != e)) := by
  unfold arrive
  simp only [h, hw]

/-- The first eligible station depends on the take's pool and seal, the wait list and the station entries (R92, R94). -/
theorem firstWaiting_congr (hp : y.pool = x.pool) (hs : y.sealed = x.sealed) (hh : t.handOff = s.handOff) :
    t.firstWaiting y = s.firstWaiting x := by
  unfold State.firstWaiting State.station Station.eligible
  rw [hp, hs, hh]

/-! ## Entering the queues -/

/-- The same take but for an offer (R95). -/
def OfferedOf (x y : Take) : Prop := y = x ∨ ∃ node, y = x.offeredTo node

theorem enterQueues_eq (h : s.take? k = some x) : enterQueues k s =
    arrive k (((s.updPool x.pool fun q => q ++ [k]).updArchive fun q => q ++ [k]).countTakes
      fun c => { c with takesClosed := c.takesClosed + 1 }) := by
  unfold enterQueues
  simp only [h]

/-- What no entry into the queues touches: contexts and the other takes. -/
theorem enterQueues_rest (h : s.take? k = some x) :
    (∀ q, (enterQueues k s).context q = s.context q) ∧ ∀ j, j ≠ k → (enterQueues k s).take? j = s.take? j := by
  rw [enterQueues_eq h]
  generalize hv : (((s.updPool x.pool fun q => q ++ [k]).updArchive fun q => q ++ [k]).countTakes
      fun c => { c with takesClosed := c.takesClosed + 1 }) = v
  have hx : v.take? k = some x := by rw [← hv]; exact h
  have hc : ∀ q, v.context q = s.context q := fun q => by rw [← hv]; rfl
  have ht : ∀ j, v.take? j = s.take? j := fun j => by rw [← hv]; rfl
  rcases hw : v.firstWaiting x with _ | e
  · rw [arrive_stays hx hw]
    exact ⟨hc, fun j _ => ht j⟩
  · rw [arrive_offered hx hw]
    exact ⟨fun q => (offer_context (s := v.updWait _) hx q).trans (hc q), fun j hj => (offer_take_ne (s := v.updWait _) hx hj).trans (ht j)⟩

/-- A closed take enters the archive queue and its pool's queue at their tails, or is offered at once (R56, R94, R95). -/
theorem enterQueues_entered (h : s.take? k = some x) (hp : x.transcription = some .pending) (ha : x.archive = some .unarchived) :
    ∃ y, (enterQueues k s).take? k = some y ∧ OfferedOf x y ∧ EnteredQueues k x y s (enterQueues k s) := by
  rw [enterQueues_eq h]
  generalize hv : (((s.updPool x.pool fun q => q ++ [k]).updArchive fun q => q ++ [k]).countTakes
      fun c => { c with takesClosed := c.takesClosed + 1 }) = v
  have hx : v.take? k = some x := by rw [← hv]; exact h
  have hf : v.firstWaiting x = s.firstWaiting x := by rw [← hv]; rfl
  have hpool : v.pool x.pool = s.pool x.pool ++ [k] := by
    rw [← hv]; exact State.pool_updPool _ x.pool fun q => q ++ [k]
  have harc : v.handOff.archive = s.handOff.archive ++ [k] := by rw [← hv]; rfl
  have hwait : v.handOff.wait = s.handOff.wait := by rw [← hv]; rfl
  have hst : ∀ q, v.station q = s.station q := fun q => by rw [← hv]; rfl
  clear hv
  rcases hw : s.firstWaiting x with _ | e
  · rw [arrive_stays hx (hf.trans hw)]
    exact ⟨x, hx, .inl rfl, ha, harc, fun _ => ⟨hp, hpool, hwait⟩, fun e he => by rw [hw] at he; cases he⟩
  · rw [arrive_offered hx (hf.trans hw)]
    have hx' : (v.updWait fun q => q.filter (· != e)).take? k = some x := hx
    refine ⟨_, offer_take hx', .inr ⟨_, rfl⟩, ha, (offer_archive hx').trans harc, fun hn => absurd (hw.symm.trans hn) (by simp), fun e' he => ?_⟩
    obtain rfl : e = e' := by rw [hw] at he; exact Option.some.inj he
    refine ⟨rfl, ?_, ?_, ?_, ?_, (offer_wait hx').trans (congrArg _ hwait)⟩
    · rw [← hst]; rfl
    · rw [offer_station hx']
    · rw [offer_station hx']
    · have hpool' : (v.updWait fun q => q.filter (· != e)).pool x.pool = s.pool x.pool ++ [k] := hpool
      rw [offer_pool hx', if_pos rfl, hpool', List.filter_append]
      simp

/-- Entering the queues, said of a take of the same pool and seal from a state with the same hand-off block. -/
theorem EnteredQueues.of {s' : State} (h : EnteredQueues k y z t u) (hp : y.pool = x.pool) (hs : y.sealed = x.sealed)
    (hh : t.handOff = s'.handOff) : EnteredQueues k x z s' u := by
  obtain ⟨ha, hq, hn, ho⟩ := h
  have hf := firstWaiting_congr (x := x) (y := y) hp hs hh
  have hpool : ∀ p, t.pool p = s'.pool p := fun p => by unfold State.pool; rw [hh]
  have hst : ∀ q, t.station q = s'.station q := fun q => by unfold State.station; rw [hh]
  rw [hf, hp, hpool, hh] at hn
  simp only [hf, hp, hpool, hh, hst] at ho
  exact ⟨ha, by rw [hq, hh], hn, ho⟩

/-! ## Contexts in turn -/

/-- An operation on every station's context, each touching its own, acts once on each; `I` is what it needs and keeps. -/
theorem forEach_context {f : StationId → State → State} {P : StationId → Context → Context → Prop} {I : State → Prop}
    (hI : ∀ e s, I s → I (f e s)) (hP : ∀ e s, I s → P e (s.context e) ((f e s).context e))
    (ho : ∀ e q s, q ≠ e → (f e s).context q = s.context q) (es : List StationId) (hn : es.Nodup) (s : State) (hs : I s) :
    I (forEach es f s) ∧ ∀ q, (q ∈ es → P q (s.context q) ((forEach es f s).context q)) ∧
      (q ∉ es → (forEach es f s).context q = s.context q) := by
  induction es generalizing s with
  | nil => exact ⟨hs, fun q => ⟨fun h => (by cases h), fun _ => rfl⟩⟩
  | cons e es ih =>
    obtain ⟨he, hn⟩ := List.nodup_cons.1 hn
    obtain ⟨hI', hq⟩ := ih hn (f e s) (hI e s hs)
    refine ⟨hI', fun q => ⟨fun hm => ?_, fun hm => ?_⟩⟩
    · by_cases hqe : q = e
      · subst hqe
        have hc : (forEach (q :: es) f s).context q = (f q s).context q := (hq q).2 he
        rw [hc]
        exact hP q s hs
      · have hc := (hq q).1 ((List.mem_cons.1 hm).resolve_left hqe)
        rw [ho e q s hqe] at hc
        exact hc
    · exact ((hq q).2 fun h => hm (List.mem_cons_of_mem _ h)).trans (ho e q s fun h => hm (h ▸ List.mem_cons_self))

theorem allStations_context {f : StationId → State → State} {P : StationId → Context → Context → Prop} {I : State → Prop}
    (hI : ∀ e s, I s → I (f e s)) (hP : ∀ e s, I s → P e (s.context e) ((f e s).context e))
    (ho : ∀ e q s, q ≠ e → (f e s).context q = s.context q) (s : State) (hs : I s) :
    I (forEach allStations f s) ∧ ∀ q, P q (s.context q) ((forEach allStations f s).context q) := by
  obtain ⟨hI', hq⟩ := forEach_context hI hP ho allStations (List.nodup_finRange 32) s hs
  exact ⟨hI', fun q => (hq q).1 (List.mem_finRange q)⟩

/-- Following contexts of a closing take are linked to the successor's number (R145). -/
theorem linkFollowers_context (k n : Nat) (q : StationId) : (linkFollowers k n s).context q =
    if (s.context q).take = some k ∧ (s.context q).follow = true then { s.context q with link := some n } else s.context q :=
  (allStations_context (f := fun e s => if (s.context e).take = some k ∧ (s.context e).follow then
      s.updContext e fun c => { c with link := some n } else s)
    (P := fun _ c d => d = if c.take = some k ∧ c.follow = true then { c with link := some n } else c) (I := fun _ => True)
    (fun _ _ _ => trivial) (fun e s _ => by split <;> simp) (fun e q s h => by
      split
      · exact State.context_updContext_ne _ _ (Ne.symm h)
      · rfl) s trivial).2 q

/-- From `s` to `t` only the playback block differs. -/
def Replayed (s t : State) : Prop := t = { s with playback := t.playback }

theorem forEach_replayed {α : Type} {f : α → State → State} (h : ∀ x s, Replayed s (f x s)) (xs : List α) (s : State) :
    Replayed s (forEach xs f s) := by
  induction xs generalizing s with
  | nil => exact rfl
  | cons x xs ih =>
    have hx := h x s
    have hr : Replayed (f x s) (forEach (x :: xs) f s) := ih _
    unfold Replayed at *
    rw [hr, hx]

theorem Replayed.take (h : Replayed s t) (k : Nat) : t.take? k = s.take? k := by rw [h]; rfl

theorem Replayed.handOff (h : Replayed s t) : t.handOff = s.handOff := by rw [h]

/-- Linking followers touches the contexts alone. -/
theorem linkFollowers_replayed (k n : Nat) : Replayed s (linkFollowers k n s) :=
  forEach_replayed (fun _ _ => by split <;> exact rfl) _ _

/-! ## Discards -/

/-- The take of a slot is known but for its pin count. -/
def HoldsBut (k : Nat) (x : Take) (s : State) : Prop := ∃ n, s.take? k = some { x with pins := n }

theorem HoldsBut.of_take (h : HoldsBut k x s) (ht : t.take? k = s.take? k) : HoldsBut k x t := by
  unfold HoldsBut
  rw [ht]
  exact h

theorem pins_holdsBut (j : Nat) {f : Take → Take} (hf : ∀ n, ∃ m, f { x with pins := n } = { x with pins := m }) (h : HoldsBut k x s) :
    HoldsBut k x (s.updTake j f) := by
  obtain ⟨n, hn⟩ := h
  unfold HoldsBut
  rw [take_updTake]
  by_cases hj : k = j
  · subst hj
    obtain ⟨m, hm⟩ := hf n
    exact ⟨m, by rw [if_pos rfl, hn, Option.map_some, hm]⟩
  · exact ⟨n, by rw [if_neg hj]; exact hn⟩

section Holds
variable (hl : x.lifecycle = .open)
include hl

theorem checkReserves_holdsBut (h : HoldsBut k x s) : HoldsBut k x (checkReserves s) := by
  obtain ⟨n, hn⟩ := h
  exact ⟨n, checkReserves_pressed.kept k _ hn (by simp [Take.reclaimable, hl])⟩

theorem unpin_holdsBut (j : Nat) (h : HoldsBut k x s) : HoldsBut k x (unpin j s) := by
  have hu := pins_holdsBut (s := s) j (f := fun t => { t with pins := t.pins - 1 }) (fun _ => ⟨_, rfl⟩) h
  unfold unpin
  dsimp only
  split
  · exact checkReserves_holdsBut hl hu
  · exact hu

theorem attach_holdsBut (e : StationId) (j : Nat) (mix : Mix) (h : HoldsBut k x s) : HoldsBut k x (attach e j mix s) := by
  have hp : ∀ f : Context → Context, HoldsBut k x (becomeListening e (setPosition e j 0 ((pin j s).updContext e f))) := fun f =>
    (pins_holdsBut j (f := fun t => { t with pins := t.pins + 1 }) (fun _ => ⟨_, rfl⟩) h).of_take
      (by unfold State.take?; rw [becomeListening_takes]; rfl)
  unfold attach
  dsimp only
  split
  · exact unpin_holdsBut hl _ (hp _)
  · exact hp _

theorem detach_holdsBut (e : StationId) (h : HoldsBut k x s) : HoldsBut k x (detach e s) := by
  unfold detach
  split
  · exact h
  · exact unpin_holdsBut hl _ (h.of_take (by unfold State.take?; rw [endListening_takes]; rfl))

theorem discardContext_holdsBut (j : Nat) (o : Option Nat) (e : StationId) (h : HoldsBut k x s) :
    HoldsBut k x (discardContext j o e s) := by
  unfold discardContext
  split
  · split
    · exact attach_holdsBut hl e _ _ h
    · exact (detach_holdsBut hl e h).of_take (by unfold State.take?; rw [endOfTakeNotice_takes])
  · exact h

end Holds

theorem discardContext_context_ne {q : StationId} (j : Nat) (o : Option Nat) (h : q ≠ e) :
    (discardContext j o e s).context q = s.context q := by
  unfold discardContext
  split
  · split
    · rw [State.context_updContext_ne _ _ (Ne.symm h), followMove, State.context_updContext_ne _ _ (Ne.symm h),
        attach_context_ne _ _ (Ne.symm h)]
    · rw [context_of_contexts (endOfTakeNotice_contexts _ _ _ _), detach_context_ne (Ne.symm h)]
  · rfl

/-- What a discard does to one context (R146): `state` is that of a follower that plays. -/
def Discarded (k k' : Nat) (state : ContextState) (c d : Context) : Prop :=
  (c.take ≠ some k → d = c) ∧
  (c.take = some k → c.follow = true →
    d.take = some k' ∧ d.position = some 0 ∧ d.follow = true ∧ d.link = none ∧ d.saved = none ∧ d.notice = none ∧ d.mix = c.mix ∧
      d.state = if c.state = .paused then .paused else state) ∧
  (c.take = some k → c.follow = false → d = stoppedContext c.mix)

/-- The state of a follower that was not PAUSED, at the start of the successor (R146). -/
def movedTo (clearance : Bool) (x : Take) : ContextState :=
  if !clearance && ((x.markers.head?).map (·.kind == .sealBegin)).getD false then .heldSealed else .heldLive

theorem discardContext_context (h : HoldsBut k' x s) (e : StationId) :
    Discarded k k' (movedTo (s.station e).config.clearance x) (s.context e) ((discardContext k (some k') e s).context e) := by
  obtain ⟨n, hn⟩ := h
  refine ⟨fun ht => ?_, fun ht hf => ?_, fun ht hf => ?_⟩
  · unfold discardContext
    rw [if_neg ht]
  · have hm : discardContext k (some k') e s = (followMove e k' s).updContext e fun c =>
        { c with state := movedState (s.context e).state (s.station e).config.clearance (s.take? k') } := by
      unfold discardContext
      rw [if_pos ht]
      simp only [hf]
    rw [hm, State.context_updContext]
    unfold followMove
    rw [State.context_updContext, attach_context]
    refine ⟨rfl, rfl, rfl, rfl, rfl, rfl, rfl, ?_⟩
    dsimp only
    unfold movedState movedTo
    rw [hn]
    rfl
  · have hd : discardContext k (some k') e s = endOfTakeNotice e (s.numberOf k) 0 .discarded (detach e s) := by
      unfold discardContext
      rw [if_pos ht]
      simp only [hf]
    rw [hd, context_of_contexts (endOfTakeNotice_contexts _ _ _ _), detach_context _ _ (by rw [ht]; simp)]

theorem HoldsBut.openAt (h : HoldsBut k x s) (hl : x.lifecycle = .open) : OpenAt k s := by
  obtain ⟨n, hn⟩ := h
  exact ⟨_, hn, hl⟩

/-- The contexts at a discard with a successor, which stays but for its pins (R146). -/
theorem discardContexts_context (h : HoldsBut k' x s) (hl : x.lifecycle = .open) :
    HoldsBut k' x (forEach allStations (discardContext k (some k')) s) ∧
      ∀ q, Discarded k k' (movedTo (s.station q).config.clearance x) (s.context q)
        ((forEach allStations (discardContext k (some k')) s).context q) := by
  have ha := allStations_context (f := discardContext k (some k'))
    (P := fun q => Discarded k k' (movedTo (s.station q).config.clearance x))
    (I := fun t => HoldsBut k' x t ∧ ∀ q, (t.station q).config = (s.station q).config)
    (fun e t ht => ⟨discardContext_holdsBut hl _ _ e ht.1, fun q => by
      rw [(discardContext_changes k (some k') e fun j hj => by cases hj; exact ht.1.openAt hl).sameTables.station, ht.2]⟩)
    (fun e t ht => by
      have hc := discardContext_context (k := k) ht.1 e
      rw [ht.2] at hc
      exact hc)
    (fun e q t hq => discardContext_context_ne _ _ hq) s ⟨h, fun _ => rfl⟩
  exact ⟨ha.1.1, ha.2⟩

theorem discardTake_take (k : Nat) (o : Option Nat) : (discardTake k o s).take? k = none := by
  unfold discardTake
  rw [State.countTakes_take, freeTake_take]

theorem discardTake_holdsBut (h : HoldsBut k' x s) (hl : x.lifecycle = .open) (hk : k' ≠ k) :
    HoldsBut k' x (discardTake k (some k') s) := by
  unfold discardTake
  refine (discardContexts_context (k := k) h hl).1.of_take ?_
  rw [State.countTakes_take, freeTake_take_ne hk]

theorem discardTake_context (h : HoldsBut k' x s) (hl : x.lifecycle = .open) (q : StationId) :
    Discarded k k' (movedTo (s.station q).config.clearance x) (s.context q) ((discardTake k (some k') s).context q) := by
  unfold discardTake
  rw [State.countTakes_context, context_of_contexts (freeTake_contexts k)]
  exact (discardContexts_context h hl).2 q

end Sys2Proof.Machine

/-! ## Cuts with a successor -/

namespace Sys2Proof.Machine

variable {s t u : State} {k k' : Nat} {x y : Take} {r : RoomId} {cause : CutCause} {source : Byte}

/-! ### Takes with markers -/

/-- Placing markers changes a take's list, its next number and its sealed flag alone. -/
theorem withMarkers_eq (ms : List Marker) (x : Take) : ms.foldl Take.withMarker x =
    { x with
      markers := (ms.foldl Take.withMarker x).markers, nextMarker := (ms.foldl Take.withMarker x).nextMarker
      sealed := (ms.foldl Take.withMarker x).sealed } := by
  induction ms generalizing x with
  | nil => rfl
  | cons m ms ih =>
    rw [List.foldl_cons]
    exact (ih _).trans rfl

/-- An end marker leaves the sealed flag as it is. -/
theorem ended_sealed (x : Take) (rm : Room) (now : Stamp) : (x.ended rm cause now source).sealed = x.sealed := by
  unfold Take.ended endMarkers
  by_cases hs : rm.sealed = true
  · simp [hs, Take.closedBy, Take.withMarker, plainMarker]
  · by_cases ho : rm.state = .offRecord <;> simp [hs, ho, Take.closedBy, Take.withMarker, plainMarker]

/-- A take closed by a cut but for markers and sealed flag. -/
theorem ended_eq (x : Take) (rm : Room) (now : Stamp) : x.ended rm cause now source =
    { x with
      lifecycle := .closed, endStamp := some now, cause := some cause, transcription := some .pending, archive := some .unarchived
      markers := (x.ended rm cause now source).markers, nextMarker := (x.ended rm cause now source).nextMarker } := by
  have hs := ended_sealed (cause := cause) (source := source) x rm now
  unfold Take.ended at hs ⊢
  rw [withMarkers_eq] at hs ⊢
  unfold Take.closedBy at hs ⊢
  dsimp only at hs ⊢
  rw [hs]

theorem ended_markers (x : Take) (rm : Room) (now : Stamp) :
    (x.ended rm cause now source).markers = ((endMarkers rm x.cells now source).foldl Take.withMarker x).markers := rfl

theorem ended_reclaimable (x : Take) (rm : Room) (now : Stamp) : (x.ended rm cause now source).reclaimable = false := by
  rw [ended_eq]
  simp [Take.reclaimable]

/-- A take opened by a cut, with the markers carried to it (R52 step 4, R53). -/
def succession (number : Nat) (r : RoomId) (rm : Room) (period : CyclePeriod) (cause : CutCause) (closing : Nat) (now : Stamp)
    (source : Byte) : Take :=
  (rm.carries cause closing now source).foldl Take.withMarker (openedTake number r rm.config period now)

theorem succession_eq (number : Nat) (rm : Room) (period : CyclePeriod) (closing : Nat) (now : Stamp) :
    succession number r rm period cause closing now source = { openedTake number r rm.config period now with
      markers := carriedMarkers rm cause closing now source
      nextMarker := (succession number r rm period cause closing now source).nextMarker, sealed := rm.sealed } := by
  unfold succession
  conv_lhs => rw [withMarkers_eq]
  have hm : ((rm.carries cause closing now source).foldl Take.withMarker (openedTake number r rm.config period now)).markers =
      carriedMarkers rm cause closing now source ∧
      ((rm.carries cause closing now source).foldl Take.withMarker (openedTake number r rm.config period now)).sealed = rm.sealed := by
    unfold Room.carries carriedMarkers numbered
    by_cases hs : rm.sealed = true <;> by_cases ho : rm.state = .offRecord <;> by_cases hc : cause = .length ∨ cause = .deferred <;>
      simp [hs, ho, hc, Take.withMarker, openedTake, insertMarker, plainMarker]
  rw [hm.1, hm.2]

/-- The first carried marker is a SEAL_BEGIN exactly when the room is sealed. -/
theorem carriedMarkers_head (rm : Room) (closing : Nat) (now : Stamp) :
    ((carriedMarkers rm cause closing now source).head?.map (·.kind == .sealBegin)).getD false = rm.sealed := by
  unfold carriedMarkers numbered
  by_cases hs : rm.sealed = true
  · simp [hs, plainMarker]
  · by_cases ho : rm.state = .offRecord
    · simp [hs, ho, plainMarker]
    · by_cases hc : cause = .length ∨ cause = .deferred <;> simp [hs, ho, hc, plainMarker]

/-! ### The successor opened -/

/-- The state of a cut once the successor is open, with its carried markers and the follow links, the old take still in its place. -/
def cutOpened (r : RoomId) (k k' : Nat) (rm : Room) (cause : CutCause) (source : Byte) (closing : Nat) (s : State) : State :=
  linkFollowers k ((openTakeIn k' r s).numberOf k') (placeCarried k' rm cause source closing (openTakeIn k' r s))

/-- What holds of `w` once a successor is open in slot `k'` from state `s`. -/
structure SuccessorOpen (r : RoomId) (k k' : Nat) (y x' : Take) (s w : State) : Prop where
  successor : w.take? k' = some x'
  closing : y.reclaimable = false → w.take? k = some y
  handOff : w.handOff = s.handOff
  context : ∀ q, w.context q =
    if (s.context q).take = some k ∧ (s.context q).follow = true then { s.context q with link := some s.nextTakeNumber } else s.context q

/-- From a state whose old take is `y`, the cut opens its successor (R44, R45, R52, R53, R145). -/
theorem cutOpened_open {n closing : Nat} (h : OnTake k n x y s t) (hne : k ≠ k') (hf : n + (s.room r).carryNeeds cause ≤ s.markerPool.free) :
    SuccessorOpen r k k' y (succession s.nextTakeNumber r (s.room r) s.link.period cause closing s.now source) s
      (cutOpened r k k' (s.room r) cause source closing t) := by
  have hp := openTakeIn_pressed (s := t) k' r
  have htake : (openTakeIn k' r t).take? k' = some (openedTake s.nextTakeNumber r (s.room r).config s.link.period s.now) := by
    rw [openTakeIn_take, h.nextTakeNumber, h.room, h.link, h.now]
  have hnum : (openTakeIn k' r t).numberOf k' = s.nextTakeNumber := (numberOf_of htake).trans rfl
  have hnow : (openTakeIn k' r t).now = s.now := hp.now.trans h.now
  have hfree : (s.room r).carryNeeds cause ≤ (openTakeIn k' r t).markerPool.free := by
    refine Nat.le_trans ?_ hp.entries
    change _ ≤ t.markerPool.free
    rw [h.free]
    omega
  have hc := placeCarried_onTake cause source closing htake hfree
  rw [hnow] at hc
  have hl := linkFollowers_replayed (s := placeCarried k' (s.room r) cause source closing (openTakeIn k' r t)) k s.nextTakeNumber
  unfold cutOpened
  rw [hnum]
  refine ⟨?_, fun hy => ?_, ?_, fun q => ?_⟩
  · exact (hl.take k').trans hc.after
  · exact (hl.take k).trans ((hc.other k hne).trans (openTakeIn_take_ne r hne h.after hy))
  · exact hl.handOff.trans (hc.handOff.trans (hp.handOff.trans h.handOff))
  · have hq : (placeCarried k' (s.room r) cause source closing (openTakeIn k' r t)).context q = s.context q :=
      (hc.context q).trans ((hp.context q).trans (h.context q))
    rw [linkFollowers_context, hq]

/-! ### The contexts -/

/-- Closing with cells, a cut links followers and no more (R145). -/
theorem contextsAfterCut_closed {n : Nat} (h : ∀ q, u.context q =
      if (s.context q).take = some k ∧ (s.context q).follow = true then { s.context q with link := some n } else s.context q) :
    ContextsAfterCut r k k' n false s u := by
  intro e
  rw [h e]
  refine ⟨fun ht => if_neg fun hc => ht hc.1, fun ht => ⟨fun _ hf => if_pos ⟨ht, hf⟩, fun _ hf => if_neg ?_, nofun, nofun⟩⟩
  rw [hf]
  exact fun hc => Bool.false_ne_true hc.2

/-- The state of a moved follower by the room's seal (R146). -/
theorem movedTo_eq {b : Bool} (h : ((x.markers.head?).map (·.kind == .sealBegin)).getD false = b) (clearance : Bool) :
    movedTo clearance x = if b = true ∧ clearance = false then .heldSealed else .heldLive := by
  unfold movedTo
  rw [h]
  cases b <;> cases clearance <;> rfl

/-- Discarding, a cut moves the followers, just linked, and detaches the others (R146). -/
theorem contextsAfterCut_discarded {n : Nat} {w : State} (hw : ∀ q, w.context q =
      if (s.context q).take = some k ∧ (s.context q).follow = true then { s.context q with link := some n } else s.context q)
    (h : ∀ q, Discarded k k' (if (s.room r).sealed = true ∧ (s.station q).config.clearance = false then .heldSealed else .heldLive)
      (w.context q) (u.context q)) : ContextsAfterCut r k k' n true s u := by
  intro e
  obtain ⟨hother, hmoved, hout⟩ := h e
  rw [hw e] at hother hmoved hout
  refine ⟨fun ht => ?_, fun ht => ⟨nofun, nofun, fun _ hf => ?_, fun _ hf => ?_⟩⟩
  · rw [if_neg fun hc => ht hc.1] at hother
    exact hother ht
  · rw [if_pos ⟨ht, hf⟩] at hmoved
    exact hmoved ht hf
  · have hn : ¬((s.context e).take = some k ∧ (s.context e).follow = true) := fun hc => by rw [hf] at hc; exact Bool.false_ne_true hc.2
    rw [if_neg hn] at hout
    exact hout ht hf

/-! ### The cut made -/

/-- The room after a cut: all kept but the open take, and the off cycles of an OFF_RECORD room. -/
theorem room_afterCut {w : State} (h : (w.room r).bare = (s.room r).bare) :
    { (w.updRoom r fun x => { x with openTake := some k', offCycles := if x.state = .offRecord then 0 else x.offCycles }).room r with
      ring := (s.room r).ring } =
      { s.room r with openTake := some k', offCycles := if (s.room r).state = .offRecord then 0 else (s.room r).offCycles } := by
  rw [State.room_updRoom]
  exact congrArg (fun z : Room => { z with
    openTake := some k', offCycles := if z.state = RoomState.offRecord then 0 else z.offCycles, ring := (s.room r).ring }) h

theorem makeCut_eq {t : Take} (h : s.take? k = some t) : makeCut r k k' cause source s =
    (if t.cells = 0 then discardTake k (some k') (cutOpened r k k' (s.room r) cause source t.number (closeTake k (s.room r) cause source s))
      else enterQueues k (cutOpened r k k' (s.room r) cause source t.number (closeTake k (s.room r) cause source s))).updRoom r fun x =>
        { x with openTake := some k', offCycles := if x.state = .offRecord then 0 else x.offCycles } := by
  unfold makeCut
  simp only [cellsOf_of h, numberOf_of h]
  rfl

theorem cutOpened_bare {rm : Room} {closing : Nat} (q : RoomId) :
    ((cutOpened r k k' rm cause source closing (closeTake k rm cause source s)).room q).bare = (s.room q).bare :=
  (((closeTake_writes (rooms := false) (ports := true) _ _ _ _).trans (openTakeIn_writes _ _)).trans
    ((placeCarried_writes _ _ _ _ _).trans (linkFollowers_writes _ _))).room rfl q

/-- A cut whose needs are met, as R52 makes it; its successor has no page yet. -/
theorem makeCut_made {t : Take} (h : s.take? k = some t) (hne : k ≠ k') (hf : (s.room r).cutNeeds cause ≤ s.markerPool.free) :
    CutMade r k k' t cause source s (makeCut r k k' cause source s) ∧
      ∃ y, (makeCut r k k' cause source s).take? k' = some y ∧ y.firstPage = none ∧ y.lastPage = none := by
  rw [cutNeeds_eq] at hf
  rw [makeCut_eq h]
  have hb := cutOpened_bare (r := r) (k := k) (k' := k') (rm := s.room r) (cause := cause) (source := source) (closing := t.number) (s := s) r
  by_cases hc : t.cells = 0
  · rw [if_pos hc]
    rw [closeTake_empty ((cellsOf_of h).trans hc)] at hb ⊢
    have ho := cutOpened_open (r := r) (cause := cause) (source := source) (closing := t.number) (OnTake.refl h) hne (by omega)
    generalize cutOpened r k k' (s.room r) cause source t.number s = w at hb ho ⊢
    have hx := succession_eq (r := r) (cause := cause) (source := source) s.nextTakeNumber (s.room r) s.link.period t.number s.now
    generalize succession s.nextTakeNumber r (s.room r) s.link.period cause t.number s.now source = x' at ho hx
    have hl : x'.lifecycle = .open := by rw [hx]; rfl
    have hh : HoldsBut k' x' w := ⟨x'.pins, ho.successor⟩
    have hd := discardTake_context (k := k) hh hl
    obtain ⟨n, hn⟩ := discardTake_holdsBut (k := k) hh hl (Ne.symm hne)
    have hr : ((discardTake k (some k') w).room r).bare = (s.room r).bare :=
      ((discardTake_writes (rooms := false) (ports := true) k (some k')).room rfl r).trans hb
    have hnone : (discardTake k (some k') w).take? k = none := discardTake_take k (some k')
    generalize discardTake k (some k') w = v at hd hn hr hnone
    refine ⟨⟨room_afterCut hr, ⟨_, hn, ?_⟩, fun _ => hnone, fun hn => absurd hc hn, ?_⟩, ⟨_, hn, by rw [hx]; rfl, by rw [hx]; rfl⟩⟩
    · rw [hx]
      exact ⟨rfl, rfl, rfl, rfl, rfl, rfl, rfl, rfl, rfl⟩
    · rw [show (t.cells == 0) = true by simp [hc]]
      refine contextsAfterCut_discarded ho.context fun q => ?_
      have hq := hd q
      have hst : w.station q = s.station q := by unfold State.station; rw [ho.handOff]
      have hm : ((x'.markers.head?).map (·.kind == .sealBegin)).getD false = (s.room r).sealed := by
        rw [hx]
        exact carriedMarkers_head _ _ _
      rw [movedTo_eq hm, hst] at hq
      exact hq
  · rw [if_neg hc]
    have ho := cutOpened_open (r := r) (cause := cause) (source := source) (closing := t.number)
      (closeTake_onTake cause source h hc (by omega)) hne hf
    generalize cutOpened r k k' (s.room r) cause source t.number (closeTake k (s.room r) cause source s) = w at hb ho ⊢
    have hx := succession_eq (r := r) (cause := cause) (source := source) s.nextTakeNumber (s.room r) s.link.period t.number s.now
    generalize succession s.nextTakeNumber r (s.room r) s.link.period cause t.number s.now source = x' at ho hx
    have hy := ended_eq (cause := cause) (source := source) t (s.room r) s.now
    have hym := ended_markers (cause := cause) (source := source) t (s.room r) s.now
    have hk := ho.closing (ended_reclaimable _ _ _)
    generalize t.ended (s.room r) cause s.now source = y at hy hym hk
    obtain ⟨z, hz, hof, he⟩ := enterQueues_entered hk (by rw [hy]) (by rw [hy])
    obtain ⟨hctx, hother⟩ := enterQueues_rest hk
    have hr : ((enterQueues k w).room r).bare = (s.room r).bare :=
      ((enterQueues_writes (rooms := false) (ports := true) k).room rfl r).trans hb
    have hk' := (hother k' (Ne.symm hne)).trans ho.successor
    refine ⟨⟨room_afterCut hr, ⟨x', hk', ?_⟩, fun h0 => absurd h0 hc, fun _ => ⟨z, hz, ?_⟩, ?_⟩, ⟨x', hk', by rw [hx]; rfl, by rw [hx]; rfl⟩⟩
    · rw [hx]
      exact ⟨rfl, rfl, rfl, rfl, rfl, rfl, rfl, rfl, rfl⟩
    · have he' := EnteredQueues.of (x := t) he (by rw [hy]) (by rw [hy]) ho.handOff
      rcases hof with rfl | ⟨node, rfl⟩
      · exact ⟨by rw [hy], by rw [hy], by rw [hy], by rw [hy], by rw [hy], he', hym⟩
      · refine ⟨?_, ?_, ?_, ?_, ?_, he', hym⟩ <;> rw [hy] <;> rfl
    · rw [show (t.cells == 0) = false by simp [hc]]
      exact contextsAfterCut_closed fun q => (hctx q).trans (ho.context q)

theorem makeCut_cutMade {t : Take} (h : s.take? k = some t) (hne : k ≠ k') (hf : (s.room r).cutNeeds cause ≤ s.markerPool.free) :
    CutMade r k k' t cause source s (makeCut r k k' cause source s) := (makeCut_made h hne hf).1

end Sys2Proof.Machine

/-! ## Commands that cut -/

namespace Sys2Proof.Machine

variable {s t u : State} {k k' : Nat} {x y z : Take} {r : RoomId} {cause : CutCause} {source : Byte} {c : Ctl} {cmd : CommandName}

/-- From `s` to `t` the Management Unit and the station entries' dynamic parts may differ, and no more. -/
structure Noted (s t : State) : Prop where
  frame : t = { s with mgmt := t.mgmt, handOff := { s.handOff with stations := t.handOff.stations } }
  config : ∀ e, (t.station e).config = (s.station e).config

theorem takenFrom_noted (p : Port) (n : Byte) : Noted s (takenFrom p n s) := by
  refine ⟨?_, takenFrom_station_config p n⟩
  unfold takenFrom
  split
  · rfl
  · split <;> rfl

theorem Noted.trans (h : Noted s t) (h' : Noted t u) : Noted s u where
  frame := by rw [h'.frame, h.frame]
  config e := (h'.config e).trans (h.config e)

theorem handled_noted : Noted s (handled c cmd s) := by
  refine ⟨?_, handled_config⟩
  have ht : Noted s (takenFrom c.port c.src s) := takenFrom_noted _ _
  have hl : ∀ (who : Sender) (u : State), leaseEffect cmd who u =
      { u with handOff := { u.handOff with stations := (leaseEffect cmd who u).handOff.stations } } := by
    intro who u
    unfold leaseEffect restartLease
    split
    · split
      · split <;> rfl
      · rfl
    · rfl
  unfold handled
  rw [hl, ht.frame]
  rfl

section
variable (h : Noted s t)
include h

theorem Noted.room (r : RoomId) : t.room r = s.room r := by rw [h.frame]; rfl

theorem Noted.take (k : Nat) : t.take? k = s.take? k := by rw [h.frame]; rfl

theorem Noted.context (e : StationId) : t.context e = s.context e := by rw [h.frame]; rfl

theorem Noted.takeTable : t.takeTable = s.takeTable := by rw [h.frame]

theorem Noted.markerPool : t.markerPool = s.markerPool := by rw [h.frame]

theorem Noted.store : t.store = s.store := by rw [h.frame]

theorem Noted.now : t.now = s.now := by rw [h.frame]; rfl

theorem Noted.link : t.link = s.link := by rw [h.frame]

theorem Noted.playback : t.playback = s.playback := by rw [h.frame]

theorem Noted.timeouts : t.timeouts = s.timeouts := by rw [h.frame]

theorem Noted.pool (p : PoolId) : t.pool p = s.pool p := by rw [h.frame]; rfl

theorem Noted.archive : t.handOff.archive = s.handOff.archive := by rw [h.frame]

theorem Noted.wait : t.handOff.wait = s.handOff.wait := by rw [h.frame]

theorem Noted.counters : t.handOff.counters = s.handOff.counters := by rw [h.frame]

theorem Noted.lowestFreeSlot : t.lowestFreeSlot = s.lowestFreeSlot := by unfold State.lowestFreeSlot; rw [h.takeTable]

theorem Noted.nextTakeNumber : t.nextTakeNumber = s.nextTakeNumber := nextTakeNumber_of_takeTable h.takeTable

theorem Noted.firstWaiting (x : Take) : t.firstWaiting x = s.firstWaiting x := by
  unfold State.firstWaiting Station.eligible
  simp only [h.wait, h.config]

theorem Noted.enteredQueues (he : EnteredQueues k x y t u) : EnteredQueues k x y s u := by
  unfold EnteredQueues at *
  simp only [h.firstWaiting, h.pool, h.archive, h.wait, h.config] at he
  exact he

theorem Noted.cutMade (hc : CutMade r k k' x cause source t u) : CutMade r k k' x cause source s u := by
  obtain ⟨hroom, hopen, hnone, hclosed, hctx⟩ := hc
  refine ⟨?_, ?_, hnone, fun h0 => ?_, ?_⟩
  · rw [h.room] at hroom
    exact hroom
  · rw [h.room, h.now, h.nextTakeNumber] at hopen
    exact hopen
  · obtain ⟨z, hz, hl, hs, hca, hcells, hn, he, hm⟩ := hclosed h0
    rw [h.now, h.room] at hm
    rw [h.now] at hs
    exact ⟨z, hz, hl, hs, hca, hcells, hn, h.enteredQueues he, hm⟩
  · unfold ContextsAfterCut at *
    simp only [h.context, h.nextTakeNumber, h.room, h.config] at hctx
    exact hctx

end

/-! ### Requests whose needs are met -/

/-- The slot that opens is FREE, so it is not the room's own. -/
theorem lowestFreeSlot_ne (hk : s.lowestFreeSlot = some k') (h : s.take? k = some x) : k ≠ k' := by
  rintro rfl
  have hn : s.take? k = none := (firstUnlisted_spec hk).1
  rw [hn] at h; cases h

theorem tryCut_of (ho : (s.room r).openTake = some k) (h : s.take? k = some x) (hk : s.lowestFreeSlot = some k')
    (hf : (s.room r).cutNeeds cause ≤ s.markerPool.free) :
    tryCut r cause source s = (makeCut r k k' cause source s, .made x.number (x.cells == 0) s.nextTakeNumber) := by
  obtain ⟨_, ⟨y, hy, _, hn, _⟩, _⟩ := makeCut_cutMade (r := r) (cause := cause) (source := source) h (lowestFreeSlot_ne hk h) hf
  unfold tryCut
  simp only [ho, hk, Nat.not_lt.2 hf, lowestFreeSlot_ne hk h, if_false, numberOf_of h, cellsOf_of h, numberOf_of hy, hn]

theorem requestCut_of (hc : (s.room r).state ≠ .closed) (hd : (s.room r).deferred = none) (ho : (s.room r).openTake = some k)
    (h : s.take? k = some x) (hk : s.lowestFreeSlot = some k') (hf : (s.room r).cutNeeds cause ≤ s.markerPool.free) :
    requestCut r cause source s = (makeCut r k k' cause source s, .made x.number (x.cells == 0) s.nextTakeNumber) := by
  unfold requestCut
  simp only [hc, hd, tryCut_of ho h hk hf, if_false, Option.isSome_none, Bool.false_eq_true]

theorem requestCut_cutMade (hc : (s.room r).state ≠ .closed) (hd : (s.room r).deferred = none) (ho : (s.room r).openTake = some k)
    (h : s.take? k = some x) (hk : s.lowestFreeSlot = some k') (hf : (s.room r).cutNeeds cause ≤ s.markerPool.free) :
    CutMade r k k' x cause source s (requestCut r cause source s).1 := by
  rw [requestCut_of hc hd ho h hk hf]
  exact makeCut_cutMade h (lowestFreeSlot_ne hk h) hf

/-! ### Rooms -/

theorem Room.opened_of_bare {a b : Room} (h : a.bare = b.bare) : a.opened k = b.opened k := (congrArg (fun z : Room => z.opened k) h :)

theorem Room.afterClose_of_bare {a b : Room} (h : a.bare = b.bare) : { a.afterClose with ring := b.ring } = b.afterClose :=
  congrArg (fun z : Room => { z.afterClose with ring := b.ring }) h

/-- A room opened with a take (R3, R44 to R46). -/
theorem openRoomIn_spec (k : Nat) (r : RoomId) :
    (openRoomIn k r s).take? k = some (openedTake s.nextTakeNumber r (s.room r).config s.link.period s.now) ∧
      (openRoomIn k r s).takeTable.issue = nextNumber s.nextTakeNumber ∧ (openRoomIn k r s).room r = (s.room r).opened k ∧
      ∀ q : RoomId, q ≠ r → { (openRoomIn k r s).room q with ring := (s.room q).ring } = s.room q := by
  have hb : ∀ q, ((openTakeIn k r s).room q).bare = (s.room q).bare := (openTakeIn_pressed k r).bare
  have ht := openTakeIn_take (s := s) k r
  have hi := openTakeIn_issue (s := s) k r
  unfold openRoomIn
  generalize openTakeIn k r s = v at hb ht hi
  refine ⟨ht, hi, ?_, fun q hq => ?_⟩
  · rw [State.room_updRoom]
    exact Room.opened_of_bare (hb r)
  · rw [State.room_updRoom_ne _ _ (Ne.symm hq)]
    exact Room.eq_of_bare (hb q)

theorem closeRoomWith_eq (ho : (s.room r).openTake = some k) (h : s.take? k = some x) : closeRoomWith r cause source s =
    (if x.cells = 0 then discardTake k none (closeTake k (s.room r) cause source s)
      else enterQueues k (closeTake k (s.room r) cause source s)).updRoom r Room.afterClose := by
  unfold closeRoomWith
  simp only [ho, cellsOf_of h]

/-- A room closed with its entries at hand: its take is discarded, or closed into its queues (R4, R55 to R57). -/
theorem closeRoomWith_spec (ho : (s.room r).openTake = some k) (h : s.take? k = some x) (hf : (s.room r).closeNeeds ≤ s.markerPool.free) :
    { (closeRoomWith r cause source s).room r with ring := (s.room r).ring } = (s.room r).afterClose ∧
      (x.cells = 0 → (closeRoomWith r cause source s).take? k = none) ∧
      (x.cells ≠ 0 → ∃ z, (closeRoomWith r cause source s).take? k = some z ∧ z.lifecycle = .closed ∧ z.endStamp = some s.now ∧
        z.cause = some cause ∧ z.cells = x.cells ∧ EnteredQueues k x z s (closeRoomWith r cause source s)) := by
  rw [closeRoomWith_eq ho h]
  have room : ∀ {w : State}, (w.room r).bare = (s.room r).bare →
      { (w.updRoom r Room.afterClose).room r with ring := (s.room r).ring } = (s.room r).afterClose := fun hw => by
    rw [State.room_updRoom]
    exact Room.afterClose_of_bare hw
  have hb : ((closeTake k (s.room r) cause source s).room r).bare = (s.room r).bare :=
    (closeTake_writes (rooms := false) (ports := true) _ _ _ _).room rfl r
  by_cases hc : x.cells = 0
  · rw [if_pos hc]
    have hd : ((discardTake k none (closeTake k (s.room r) cause source s)).room r).bare = (s.room r).bare :=
      ((discardTake_writes (rooms := false) (ports := true) k none).room rfl r).trans hb
    have hn := discardTake_take (s := closeTake k (s.room r) cause source s) k none
    generalize discardTake k none (closeTake k (s.room r) cause source s) = v at hd hn
    exact ⟨room hd, fun _ => hn, fun h0 => absurd hc h0⟩
  · rw [if_neg hc]
    have hct := closeTake_onTake cause source h hc hf
    have hy := ended_eq (cause := cause) (source := source) x (s.room r) s.now
    generalize x.ended (s.room r) cause s.now source = y at hct hy
    have hd := ((enterQueues_writes (rooms := false) (ports := true) k).room rfl r).trans hb
    obtain ⟨z, hz, hof, he⟩ := enterQueues_entered hct.after (by rw [hy]) (by rw [hy])
    have he' := EnteredQueues.of (x := x) he (by rw [hy]) (by rw [hy]) hct.handOff
    generalize enterQueues k (closeTake k (s.room r) cause source s) = v at hd hz he'
    refine ⟨room hd, fun h0 => absurd h0 hc, fun _ => ⟨z, hz, ?_⟩⟩
    rcases hof with rfl | ⟨node, rfl⟩
    · exact ⟨by rw [hy], by rw [hy], by rw [hy], by rw [hy], he'⟩
    · refine ⟨?_, ?_, ?_, ?_, he'⟩ <;> rw [hy] <;> rfl

/-- An accepted OPEN_ROOM (R3). -/
theorem exec_openRoom_of {b : Byte} (hm : FromManager c s) (hr : roomOfByte b = some r) (hop : s.mgmt.op = .run)
    (hc : (s.room r).state = .closed) (hk : s.lowestFreeSlot = some k) :
    exec (.openRoom c b) s = .next (respond c .openRoom .ok (bytesOf 2 s.nextTakeNumber) (openRoomIn k r (handled c .openRoom s))) :=
  have hn : (handled c .openRoom s).nextTakeNumber = s.nextTakeNumber := handled_noted.nextTakeNumber
  congrArg Host.Outcome.next ((managerCommand_of hm).trans (by simp [hr, hop, hc, hk, hn]))

/-- An accepted CLOSE_ROOM (R4). -/
theorem exec_closeRoom_of {b : Byte} (hm : FromManager c s) (hr : roomOfByte b = some r) (hc : (s.room r).state ≠ .closed)
    (ho : (s.room r).openTake = some k) (h : s.take? k = some x) (hf : (s.room r).closeNeeds ≤ s.markerPool.free) :
    exec (.closeRoom c b) s = .next (respond c .closeRoom .ok (bytesOf 2 x.number ++ flagByte (x.cells == 0))
      (closeRoomWith r .roomClose c.src (handled c .closeRoom s))) := by
  have hi := openTakeInfo_of (s := handled c .closeRoom s) (r := r) (k := k) (t := x) (by simpa using ho) (by simpa using h)
  exact congrArg Host.Outcome.next ((managerCommand_of hm).trans (by
    simp [hr, hc, hi, Nat.not_lt.2 hf, closedTakeFields]))

end Sys2Proof.Machine

open Sys2Proof Sys2Proof.Machine in
/-- Settles O12: the take opens or closes on the state with the sender noted, and what a check of the reserves does beside it touches rings alone. -/
theorem roomsOpenAndClose : Obligations.RoomsOpenAndClose := by
  unfold Obligations.RoomsOpenAndClose
  refine ⟨fun c b r k s hm hr hop hc hk => ?_, fun c b r k t s hm hr hc ho ht hf => ?_⟩
  · have hn : Noted s (handled c .openRoom s) := handled_noted
    have h := openRoomIn_spec (s := handled c .openRoom s) k r
    simp only [hn.nextTakeNumber, hn.room, hn.link, hn.now] at h
    exact ⟨_, exec_openRoom_of hm hr hop hc hk, h⟩
  · have hn : Noted s (handled c .closeRoom s) := handled_noted
    have h := closeRoomWith_spec (s := handled c .closeRoom s) (cause := .roomClose) (source := c.src) (r := r)
      (by rw [hn.room]; exact ho) ((hn.take k).trans ht) (by rw [hn.room, hn.markerPool]; exact hf)
    rw [hn.room, hn.now] at h
    obtain ⟨hroom, hnone, hclosed⟩ := h
    refine ⟨_, exec_closeRoom_of hm hr hc ho ht hf, hroom, hnone, fun h0 => ?_⟩
    obtain ⟨z, hz, hl, hs, hca, hcells, he⟩ := hclosed h0
    exact ⟨z, hz, hl, hs, hca, hcells, hn.enteredQueues he⟩

open Sys2Proof Sys2Proof.Machine in
/-- Settles O13: a request whose needs are met makes the cut, and CUT_TAKE and CUT_NOW request theirs on a state that differs only in what they
note of their sender. -/
theorem cutsComplete : Obligations.CutsComplete := by
  unfold Obligations.CutsComplete
  intro r k k' t s hp hc hd ho ht hk
  refine ⟨fun cause source _ _ hf => ⟨by rw [requestCut_of hc hd ho ht hk hf], requestCut_cutMade hc hd ho ht hk hf⟩,
    fun c b hm hr hop hf => ?_, fun m hm hf => ?_⟩
  · have hn : Noted s (handled c .cutTake s) := handled_noted
    have hroom := hn.room r
    have he := execCutTake_of hm hr hop hc
    have hreq := requestCut_of (s := handled c .cutTake s) (cause := .manager) (source := c.src) (r := r) (by rw [hroom]; exact hc)
      (by rw [hroom]; exact hd) (by rw [hroom]; exact ho) ((hn.take k).trans ht) (hn.lowestFreeSlot.trans hk)
      (by rw [hroom, hn.markerPool]; exact hf)
    have hcut := requestCut_cutMade (s := handled c .cutTake s) (cause := .manager) (source := c.src) (r := r) (by rw [hroom]; exact hc)
      (by rw [hroom]; exact hd) (by rw [hroom]; exact ho) ((hn.take k).trans ht) (hn.lowestFreeSlot.trans hk)
      (by rw [hroom, hn.markerPool]; exact hf)
    rw [hreq] at he hcut
    rw [hn.nextTakeNumber] at he
    exact ⟨_, he, hn.cutMade hcut⟩
  · have hn : Noted s (takenFrom m.port m.src s) := takenFrom_noted _ _
    have hroom := hn.room r
    have hcut := requestCut_cutMade (s := takenFrom m.port m.src s) (cause := .console) (source := m.src) (r := r)
      (by rw [hroom]; exact hc) (by rw [hroom]; exact hd) (by rw [hroom]; exact ho) ((hn.take k).trans ht) (hn.lowestFreeSlot.trans hk)
      (by rw [hroom, hn.markerPool]; exact hf)
    exact ⟨_, (cutNowRequestsAConsoleCut m r s hm hc).1, hn.cutMade hcut⟩

/-! ## Moves between pools, reclaims by command, and the pressure pass -/

namespace Sys2Proof.Machine

variable {s t u v : State} {k : Nat} {x : Take} {p : PoolId} {c : Ctl}

/-! ### A take moved between pools -/

theorem moveTo_take (h : s.take? k = some x) : (moveTo p k x s).take? k = some { x with pool := p } := by
  have hu := take_updTake k k (fun t => { t with pool := p }) (s.updPool x.pool fun q => q.filter (· != k))
  rw [if_pos rfl] at hu
  refine Eq.trans ?_ (hu.trans ?_)
  · rfl
  · rw [show (s.updPool x.pool fun q => q.filter (· != k)).take? k = some x from h, Option.map_some]

theorem moveTo_take_ne {j : Nat} (h : j ≠ k) : (moveTo p k x s).take? j = s.take? j :=
  (take_updTake k j (fun t => { t with pool := p }) (s.updPool x.pool fun q => q.filter (· != k))).trans (if_neg h)

/-- A move touches the take and the pool queues alone. -/
theorem moveTo_frame (h : s.take? k = some x) : moveTo p k x s =
    { s with takeTable := (moveTo p k x s).takeTable, handOff := { s.handOff with pools := (moveTo p k x s).handOff.pools } } := by
  have h' : (s.updPool x.pool fun q => q.filter (· != k)).take? k = some x := h
  unfold moveTo State.updTake
  rw [h']
  rfl

theorem moveTo_pool (h : s.take? k = some x) (q : PoolId) : (moveTo p k x s).pool q =
    (if q = x.pool then (s.pool q).filter (· != k) else s.pool q) ++ if q = p then [k] else [] := by
  have h' : (s.updPool x.pool fun q => q.filter (· != k)).take? k = some x := h
  have hp : ((s.updPool x.pool fun q => q.filter (· != k)).updTake k fun t => { t with pool := p }).pool q =
      if q = x.pool then (s.pool q).filter (· != k) else s.pool q := by
    rw [← updPool_pool]
    unfold State.updTake
    rw [h']
    rfl
  unfold moveTo
  rw [updPool_pool, hp]
  by_cases hq : q = p
  · rw [if_pos hq, if_pos hq]
  · rw [if_neg hq, if_neg hq, List.append_nil]

theorem firstWaiting_none_of_wait (h : s.handOff.wait = []) : s.firstWaiting x = none := by
  unfold State.firstWaiting
  rw [h]
  rfl

/-- From `s` to `v` a take has moved to the tail of another pool (R61). -/
structure Moved (k : Nat) (x : Take) (p : PoolId) (s v : State) : Prop where
  take : v.take? k = some { x with pool := p }
  other : ∀ j, j ≠ k → v.take? j = s.take? j
  pool : ∀ q, v.pool q = (if q = x.pool then (s.pool q).filter (· != k) else s.pool q) ++ if q = p then [k] else []
  archive : v.handOff.archive = s.handOff.archive
  wait : v.handOff.wait = s.handOff.wait
  counters : v.handOff.counters = s.handOff.counters
  config : ∀ e, (v.station e).config = (s.station e).config
  playback : v.playback = s.playback
  store : v.store = s.store
  timeouts : v.timeouts = s.timeouts

theorem moveTo_moved (hn : Noted s t) (h : s.take? k = some x) : Moved k x p s (moveTo p k x t) := by
  have ht := (hn.take k).trans h
  have hfr := moveTo_frame (p := p) ht
  refine ⟨moveTo_take ht, fun j hj => (moveTo_take_ne hj).trans (hn.take j), fun q => ?_, ?_, ?_, ?_, fun e => ?_, ?_, ?_, ?_⟩
  · rw [moveTo_pool ht, hn.pool]
  · rw [hfr]; exact hn.archive
  · rw [hfr]; exact hn.wait
  · rw [hfr]; exact hn.counters
  · rw [hfr]; exact hn.config e
  · rw [hfr]; exact hn.playback
  · rw [hfr]; exact hn.store
  · rw [hfr]; exact hn.timeouts

theorem Moved.firstWaiting (h : Moved k x p s v) (y : Take) : v.firstWaiting y = s.firstWaiting y := by
  unfold State.firstWaiting Station.eligible
  simp only [h.wait, h.config]

/-- The arrival of a moved take that a waiting station is eligible for, after its response (R94, R95). -/
theorem Moved.arrive_offered {e : StationId} (h : Moved k x p s v) (hw : Told v t) (hfe : s.firstWaiting { x with pool := p } = some e) :
    ((arrive k t).station e).state = .offered ∧ ((arrive k t).station e).take = some k ∧
      ((arrive k t).station e).timer = some ⟨.offer, ticksOfS s.timeouts.accept⟩ ∧
      (arrive k t).handOff.wait = s.handOff.wait.filter (· != e) ∧
      (arrive k t).take? k = some (Take.offeredTo { x with pool := p } (s.station e).config.node) ∧
      (arrive k t).pool p = (s.pool p).filter (· != k) ∧
      (arrive k t).handOff.counters.offersMade = s.handOff.counters.offersMade + 1 := by
  have hx : (t.updWait fun q => q.filter (· != e)).take? k = some { x with pool := p } := (hw.take k).trans h.take
  have hsome := (firstWaiting_congr (x := { x with pool := p }) rfl rfl hw.handOff).trans ((h.firstWaiting _).trans hfe)
  have hcf : ((t.updWait fun q => q.filter (· != e)).station e).config = (s.station e).config :=
    (congrArg Station.config (hw.station e)).trans (h.config e)
  have hpool : t.pool p = v.pool p := by unfold State.pool; rw [hw.handOff]
  rw [Machine.arrive_offered (s := t) ((hw.take k).trans h.take) hsome]
  refine ⟨by rw [offer_station hx], by rw [offer_station hx], ?_, ?_, ?_, ?_, ?_⟩
  · rw [offer_station hx]
    exact congrArg (fun q : Timeouts => some (⟨.offer, ticksOfS q.accept⟩ : Timer)) (hw.timeouts.trans h.timeouts)
  · rw [offer_wait hx, ← h.wait, ← hw.handOff]; rfl
  · rw [offer_take hx, hcf]
  · rw [offer_pool hx, if_pos rfl]
    refine (congrArg (List.filter _) (hpool.trans (h.pool p))).trans ?_
    rw [if_pos rfl, List.filter_append]
    split <;> simp [List.filter_filter]
  · rw [offer_offersMade hx, ← h.counters, ← hw.handOff]; rfl

theorem exec_moveTake_of {n : Word} {b : Byte} (hm : FromManager c s) (hp : poolOfByte b = some p) (hn : s.namedTake n = .ok (k, x))
    (ht : x.transcription = some .pending) :
    exec (.moveTake c n b) s = .next (arrive k (respond c .moveTake .ok [] (moveTo p k x (handled c .moveTake s)))) :=
  congrArg Host.Outcome.next ((managerCommand_of hm).trans (by simp [hp, hn, ht]))

/-! ### Reclaims -/

/-- A slot is FREE or holds a take that may be reclaimed. -/
def Clears (s : State) (k : Nat) : Prop := ∀ x, s.take? k = some x → x.reclaimable = true

/-- The marker entries of the take in a slot. -/
def State.markersIn (s : State) (k : Nat) : Nat := ((s.take? k).map fun t => t.markers.length).getD 0

theorem freeChain_keeps (n : Nat) (first : Option Nat) (st : Store) :
    (freeChain n first st).retention = st.retention ∧ (freeChain n first st).counters = st.counters := by
  induction n generalizing first st with
  | zero => exact ⟨rfl, rfl⟩
  | succ n ih =>
    cases first with
    | none => exact ⟨rfl, rfl⟩
    | some m =>
      rw [freeChain]
      split
      · exact ⟨rfl, rfl⟩
      · exact ih _ _

/-- What a reclaim does to its slot and leaves of the others (R34). -/
structure Reclaimed (k : Nat) (s t : State) : Prop where
  take : t.take? k = none
  other : ∀ j, j ≠ k → t.take? j = s.take? j
  free : t.markerPool.free = s.markerPool.free + s.markersIn k
  retention : s.take? k ≠ none → t.store.retention = s.store.retention.filter (· != k)

theorem Reclaimed.countStore (h : Reclaimed k s t) (f : StoreCounters → StoreCounters) : Reclaimed k s (t.countStore f) :=
  ⟨h.take, h.other, h.free, h.retention⟩

theorem reclaim_reclaimed (h : Clears s k) : Reclaimed k s (reclaim k s) := by
  rcases hx : s.take? k with _ | x
  · have hr : reclaim k s = s := by unfold reclaim; simp only [hx]
    rw [hr]
    exact ⟨hx, fun _ _ => rfl, by simp [State.markersIn, hx], fun hn => absurd hx hn⟩
  · rw [reclaim_of hx (h x hx)]
    generalize hw : ({ s with store := { s.store with retention := s.store.retention.filter (· != k) } } : State) = w
    have hst : w.store.retention = s.store.retention.filter (· != k) := by rw [← hw]
    have htk : ∀ j, w.take? j = s.take? j := fun j => by rw [← hw]; rfl
    have hfr : w.markerPool = s.markerPool := by rw [← hw]
    clear hw
    have he := clearRings_eq k (w.freed k x)
    refine ⟨?_, fun j hj => ?_, ?_, fun _ => ?_⟩
    · rw [clearRings_take]; exact w.freed_take k x
    · rw [clearRings_take, w.freed_take_ne x hj, htk]
    · rw [he, State.markersIn, hx, ← hfr]; rfl
    · rw [he]
      exact (freeChain_keeps w.store.pages.length x.firstPage w.store).1.trans hst

theorem reclaim_counters (k : Nat) (s : State) : (reclaim k s).store.counters = s.store.counters := by
  rcases hx : s.take? k with _ | x
  · unfold reclaim; simp only [hx]
  · by_cases hr : x.reclaimable = true
    · rw [reclaim_of hx hr, clearRings_eq]
      exact (freeChain_keeps _ _ _).2
    · unfold reclaim; simp only [hx, hr]; rfl

theorem reclaimByCommand_reclaimed (h : Clears s k) : Reclaimed k s (reclaimByCommand k s) := (reclaim_reclaimed h).countStore _

theorem reclaimByCommand_commandReclaims (k : Nat) (s : State) :
    (reclaimByCommand k s).store.counters.commandReclaims = s.store.counters.commandReclaims + 1 :=
  congrArg (·.commandReclaims + 1) (reclaim_counters k s)

/-- Reclaims by command, one after another: every slot is FREE, each take's markers are returned, each reclaim is counted (R38, R39). -/
theorem forEach_reclaimByCommand (ks : List Nat) (s : State) (h : ∀ k ∈ ks, Clears s k) :
    (∀ k ∈ ks, (forEach ks reclaimByCommand s).take? k = none) ∧
      (∀ k, s.take? k = none → (forEach ks reclaimByCommand s).take? k = none) ∧
      (ks.Nodup → (forEach ks reclaimByCommand s).markerPool.free = s.markerPool.free + (ks.map s.markersIn).sum) ∧
      (forEach ks reclaimByCommand s).store.counters.commandReclaims = s.store.counters.commandReclaims + BitVec.ofNat 32 ks.length := by
  induction ks generalizing s with
  | nil => exact ⟨nofun, fun _ h => h, fun _ => rfl, (BitVec.add_zero _).symm⟩
  | cons k ks ih =>
    have hstep : forEach (k :: ks) reclaimByCommand s = forEach ks reclaimByCommand (reclaimByCommand k s) := rfl
    have hr := reclaimByCommand_reclaimed (h k List.mem_cons_self)
    have hc := reclaimByCommand_commandReclaims k s
    rw [hstep]
    generalize reclaimByCommand k s = v at hr hc
    obtain ⟨hk, ho, hf, _⟩ := hr
    have hv : ∀ j ∈ ks, Clears v j := fun j hj y hy => by
      by_cases he : j = k
      · rw [he, hk] at hy; cases hy
      · rw [ho j he] at hy
        exact h j (List.mem_cons_of_mem _ hj) y hy
    obtain ⟨hnone, hkeep, hsum, hcount⟩ := ih v hv
    refine ⟨fun j hj => ?_, fun j hj => hkeep j ?_, fun hn => ?_, ?_⟩
    · rcases List.mem_cons.1 hj with rfl | hj
      · exact hkeep j hk
      · exact hnone j hj
    · by_cases he : j = k
      · rw [he, hk]
      · rw [ho j he, hj]
    · obtain ⟨hkn, hn⟩ := List.nodup_cons.1 hn
      have hm : ks.map v.markersIn = ks.map s.markersIn :=
        List.map_congr_left fun j hj => by rw [State.markersIn, ho j fun he => hkn (he ▸ hj)]; rfl
      rw [hsum hn, hm, hf, List.map_cons, List.sum_cons, Nat.add_assoc]
    · rw [hcount, hc, List.length_cons, Nat.add_comm ks.length, BitVec.ofNat_add]
      exact BitVec.add_assoc _ _ _

/-- Every slot CLEAR_STORE and the pressure pass choose can be reclaimed. -/
theorem clears_of_clearable (h : k ∈ s.clearable) : Clears s k := fun x hx => by
  have hr := (List.mem_filter.1 h).2
  rw [hx] at hr
  exact hr

/-! ### The pressure pass -/

/-- The pass chooses the first of them (R35). -/
theorem firstReclaimable_eq_head : s.firstReclaimable = s.clearable.head? := List.head?_filter.symm

theorem take_of_clearable (h : k ∈ s.clearable) : s.take? k ≠ none := fun hn => by
  have hr := (List.mem_filter.1 h).2
  rw [hn] at hr
  cases hr

/-- A reclaim leaves the clearable takes but its own, in order. -/
theorem clearable_of_reclaimed (h : k ∈ s.clearable) (hr : Reclaimed k s t) : t.clearable = s.clearable.filter (· != k) := by
  unfold State.clearable
  rw [hr.retention (take_of_clearable h), List.filter_filter, List.filter_filter]
  refine List.filter_congr fun j _ => ?_
  by_cases hj : j = k
  · simp [hj]
  · simp [hr.other j hj, Bool.and_comm]

/-- One counted reclaim of the pass. -/
def pressureReclaim (k : Nat) (s : State) : State :=
  (reclaim k s).countStore fun q => { q with pressureReclaims := q.pressureReclaims + 1 }

theorem pressureReclaim_reclaimed (h : Clears s k) : Reclaimed k s (pressureReclaim k s) := (reclaim_reclaimed h).countStore _

theorem pressureReclaim_pressureReclaims (k : Nat) (s : State) :
    (pressureReclaim k s).store.counters.pressureReclaims = s.store.counters.pressureReclaims + 1 :=
  congrArg (·.pressureReclaims + 1) (reclaim_counters k s)

theorem pressureSteps_succ (n : Nat) (hu : s.reserveUnmet = true) (hk : s.firstReclaimable = some k) :
    pressureSteps (n + 1) s = pressureSteps n (pressureReclaim k s) := by
  rw [pressureSteps, if_pos hu, hk]
  rfl

theorem pressureSteps_stops (n : Nat) (h : s.reserveUnmet = false ∨ s.firstReclaimable = none) : pressureSteps n s = s := by
  cases n with
  | zero => rfl
  | succ n =>
    rw [pressureSteps]
    rcases h with h | h
    · rw [if_neg (by simp [h])]
    · rw [h, ite_self]

/-- Either the pass ends at a state, or it has a take to reclaim. -/
theorem pressure_cases (s : State) : (s.reserveUnmet = false ∨ s.firstReclaimable = none) ∨
    ∃ k rest, s.reserveUnmet = true ∧ s.firstReclaimable = some k ∧ s.clearable = k :: rest := by
  rcases hu : s.reserveUnmet with _ | _
  · exact .inl (.inl rfl)
  · rcases hk : s.firstReclaimable with _ | k
    · exact .inl (.inr rfl)
    · obtain ⟨rest, hr⟩ := List.head?_eq_some_iff.1 (firstReclaimable_eq_head.symm.trans hk)
      exact .inr ⟨k, rest, rfl, rfl, hr⟩

/-- The pass ends when both reserves are met or no take is left to reclaim (R35). -/
theorem pressureSteps_end (n : Nat) (s : State) (h : s.clearable.length ≤ n) :
    (pressureSteps n s).reserveUnmet = false ∨ (pressureSteps n s).firstReclaimable = none := by
  induction n generalizing s with
  | zero =>
    right
    change s.firstReclaimable = none
    rw [firstReclaimable_eq_head, List.eq_nil_of_length_eq_zero (Nat.le_zero.1 h)]
    rfl
  | succ n ih =>
    rcases pressure_cases s with hs | ⟨k, rest, hu, hk, hr⟩
    · rw [pressureSteps_stops _ hs]
      exact hs
    · have hm : k ∈ s.clearable := hr ▸ List.mem_cons_self
      have hlt : (s.clearable.filter (· != k)).length < s.clearable.length :=
        List.length_filter_lt_length_iff_exists.2 ⟨k, hm, by simp⟩
      rw [pressureSteps_succ n hu hk]
      refine ih _ ?_
      rw [clearable_of_reclaimed hm (pressureReclaim_reclaimed (clears_of_clearable hm))]
      omega

/-- The pass takes the retained takes that may be reclaimed oldest first, and counts each (R35). -/
theorem pressureSteps_takes (n : Nat) (s : State) (h : s.store.retention.Nodup) :
    (pressureSteps n s).clearable <:+ s.clearable ∧
      (∀ j ∈ s.clearable, j ∉ (pressureSteps n s).clearable → (pressureSteps n s).take? j = none) ∧
      (pressureSteps n s).store.counters.pressureReclaims =
        s.store.counters.pressureReclaims + BitVec.ofNat 32 (s.clearable.length - (pressureSteps n s).clearable.length) := by
  have stay : ∀ s : State, s.clearable <:+ s.clearable ∧ (∀ j ∈ s.clearable, j ∉ s.clearable → s.take? j = none) ∧
      s.store.counters.pressureReclaims =
        s.store.counters.pressureReclaims + BitVec.ofNat 32 (s.clearable.length - s.clearable.length) := fun s =>
    ⟨List.suffix_refl _, fun _ hj hn => absurd hj hn, by simp⟩
  induction n generalizing s with
  | zero => exact stay s
  | succ n ih =>
    rcases pressure_cases s with hs | ⟨k, rest, hu, hk, hrest⟩
    · rw [pressureSteps_stops _ hs]
      exact stay s
    · have hm : k ∈ s.clearable := hrest ▸ List.mem_cons_self
      have hr := pressureReclaim_reclaimed (clears_of_clearable hm)
      have hcount := pressureReclaim_pressureReclaims k s
      have hkr : k ∉ rest := (List.nodup_cons.1 (hrest ▸ h.filter _)).1
      have hc : (pressureReclaim k s).clearable = rest := by
        rw [clearable_of_reclaimed hm hr, hrest, List.filter_cons_of_neg (by simp)]
        exact List.filter_eq_self.2 fun j hj => bne_iff_ne.2 fun he => hkr (he ▸ hj)
      rw [pressureSteps_succ n hu hk]
      generalize pressureReclaim k s = v at hr hcount hc
      have hp := pressureSteps_pressed n v
      obtain ⟨hsuf, hgone, hadd⟩ := ih v (by rw [hr.retention (take_of_clearable hm)]; exact h.filter _)
      rw [hc] at hsuf hgone hadd
      rw [hrest]
      refine ⟨hsuf.trans (List.suffix_cons k rest), fun j hj hn => ?_, ?_⟩
      · rcases List.mem_cons.1 hj with rfl | hj
        · exact hp.none hr.take
        · exact hgone j hj hn
      · rw [hadd, hcount, List.length_cons, Nat.add_comm rest.length, Nat.add_sub_assoc hsuf.length_le, BitVec.ofNat_add]
        exact BitVec.add_assoc _ _ _

/-- A report keeps what is latched. -/
theorem reportAlert_keeps {a b : Alert} (h : s.latched b = true) : (reportAlert a s).latched b = true := by
  unfold State.latched at *
  rw [reportAlert_latches]
  split
  · exact h
  · simp [h]

theorem reportReserves_told : Told s (reportReserves s) := by
  have h : ∀ (p : Prop) [Decidable p] (a : Alert) (s : State), Told s (if p then reportAlert a s else s) := fun p _ a s => by
    split
    · exact reportAlert_told a s
    · exact .refl
  exact (h _ _ _).trans (h _ _ _)

/-- What is unmet at the end of a check is reported (R36). -/
theorem reportReserves_latched : (s.pagesShort = true → (reportReserves s).latched .storeLow = true) ∧
    (s.slotsShort = true → (reportReserves s).latched .slotsLow = true) := by
  unfold reportReserves
  dsimp only
  generalize hv : (if s.pagesShort then reportAlert .storeLow s else s) = v
  have ht : Told s v := by
    rw [← hv]
    split
    · exact reportAlert_told _ _
    · exact .refl
  have hs : v.slotsShort = s.slotsShort := by unfold State.slotsShort State.freeSlots; rw [ht.takeTable]
  refine ⟨fun h => ?_, fun h => ?_⟩
  · have hl : v.latched .storeLow = true := by rw [← hv, if_pos h]; exact reportAlert_latched _ _
    split
    · exact reportAlert_keeps hl
    · exact hl
  · rw [hs, if_pos h]
    exact reportAlert_latched _ _

theorem Told.clearable (h : Told s t) : t.clearable = s.clearable := by
  unfold State.clearable
  rw [h.store]
  exact List.filter_congr fun j _ => by rw [h.take]

theorem Told.short (h : Told s t) : t.pagesShort = s.pagesShort ∧ t.slotsShort = s.slotsShort := by
  unfold State.pagesShort State.slotsShort State.freeSlots
  rw [h.store, h.takeTable]
  exact ⟨rfl, rfl⟩

end Sys2Proof.Machine

open Sys2Proof Sys2Proof.Machine in
/-- Settles O17: a moved take arrives at its new pool on a state that differs from the old one in what the sender's note, the move and the
response touch; reclaims and the pressure pass go by induction on the takes they reclaim. -/
theorem takeCommandsComplete : Obligations.TakeCommandsComplete := by
  unfold Obligations.TakeCommandsComplete
  refine ⟨fun c s hm => ⟨fun n b p k t hp hn ht htr => ?_, fun n k t hn ht hl hpins => ?_, fun hop hun => ?_⟩, fun s => ⟨fun h => ?_, fun h => ?_⟩⟩
  · have hv : Moved k t p s (moveTo p k t (handled c .moveTake s)) := moveTo_moved handled_noted ht
    have he := exec_moveTake_of hm hp hn htr
    generalize moveTo p k t (handled c .moveTake s) = v at hv he
    have hw := respond_told c .moveTake .ok [] v
    refine ⟨fun hwait => ⟨v, ?_, hv.take, ?_, fun hpt => ?_, hv.other, hv.playback, hv.store, hv.archive⟩, fun e hfe =>
      ⟨v, _, he, rfl, hv.arrive_offered hw hfe⟩⟩
    · have hnone : v.firstWaiting { t with pool := p } = none := (hv.firstWaiting _).trans (firstWaiting_none_of_wait hwait)
      rw [he, arrive_stays ((hw.take k).trans hv.take) ((firstWaiting_congr rfl rfl hw.handOff).trans hnone)]
    · rw [hv.pool, if_pos rfl]
    · rw [hv.pool, if_pos rfl, if_neg (Ne.symm hpt), List.append_nil]
  · have hr : Reclaimed k (handled c .releaseTake s) (reclaimByCommand k (handled c .releaseTake s)) :=
      reclaimByCommand_reclaimed fun y hy => by
        rw [handled_take, ht] at hy; cases hy; simp [Take.reclaimable, hl, hpins]
    refine ⟨reclaimByCommand k (handled c .releaseTake s), ?_, hr.take, ?_, ?_, ?_, fun j hj => (hr.other j hj).trans (handled_take j)⟩
    · exact congrArg Host.Outcome.next ((managerCommand_of hm).trans (by simp [hn, hl, hpins]))
    · refine hr.free.trans ?_
      simp [State.markersIn, ht]
    · refine (hr.retention (by simp [ht])).trans ?_
      rw [handled_store]
    · rw [reclaimByCommand_commandReclaims, handled_store]
  · have hcl : (handled c .clearStore s).clearable = s.clearable := by simp [State.clearable]
    have hsu : (handled c .clearStore s).someUnarchived = false := by rw [← hun]; simp [State.someUnarchived]
    have hf := forEach_reclaimByCommand s.clearable (handled c .clearStore s) fun k hk => clears_of_clearable (hcl ▸ hk)
    obtain ⟨hnone, _, hsum, hcount⟩ := hf
    refine ⟨forEach s.clearable reclaimByCommand (handled c .clearStore s), ?_, hnone, fun hn => ?_, ?_⟩
    · exact congrArg Host.Outcome.next ((managerCommand_of hm).trans (by simp [hop, hsu, hcl]))
    · have hmk : (handled c .clearStore s).markersIn = s.markersIn := funext fun k => by rw [State.markersIn, handled_take]; rfl
      rw [hsum hn, handled_markerPool, hmk]
      rfl
    · rw [hcount, handled_store]
  · unfold checkReserves
    rw [if_neg (by simp [h])]
  · have hu : checkReserves s = reportReserves (pressureSteps s.store.retention.length s) := by
      unfold checkReserves
      rw [if_pos h]
    have hend := pressureSteps_end s.store.retention.length s (List.length_filter_le _ _)
    have htakes := pressureSteps_takes s.store.retention.length s
    have hkept := (checkReserves_pressed (s := s)).kept
    rw [hu] at hkept ⊢
    generalize pressureSteps s.store.retention.length s = v at *
    have ht : Told v (reportReserves v) := reportReserves_told
    obtain ⟨hpl, hsl⟩ := reportReserves_latched (s := v)
    obtain ⟨hps, hss⟩ := ht.short
    refine ⟨_, rfl, ?_, fun hp => hpl (hps ▸ hp), fun hp => hsl (hss ▸ hp), hkept, fun hn => ?_⟩
    · rw [firstReclaimable_eq_head, ht.clearable, ← firstReclaimable_eq_head]
      unfold State.reserveUnmet at hend ⊢
      rw [hps, hss]
      exact hend
    · obtain ⟨hsuf, hgone, hadd⟩ := htakes hn
      rw [ht.clearable, ht.store]
      exact ⟨hsuf, fun j hj hc => (ht.take j).trans (hgone j hj hc), hadd⟩

/-! ## HALT and SESSION_RESET -/

namespace Sys2Proof.Machine

variable {s t u : State} {k : Nat} {x : Take} {r : RoomId} {c : Ctl} {cmd : CommandName} {why : Withdrawal} {reason : EndReason}
  {cause : CutCause} {source : Byte}

/-! ### The operating state -/

/-- The operating state and the cycle period. -/
def State.standing (s : State) : OpState × CyclePeriod := (s.mgmt.op, s.link.period)

theorem Change.standing (h : Change s t) : t.standing = s.standing := by
  cases h with
  | quiet _ hq => exact congrArg₂ Prod.mk (congrArg Shape.op hq) (congrArg Shape.period hq)
  | moved e x _ _ => exact moveContext_keeps (g := State.standing) (fun _ _ _ => rfl) (fun _ _ _ => rfl) e x s
  | port p f _ => cases p <;> rfl
  | linked k n rest t cell _ _ _ => rw [storeLinked_eq]; rfl
  | wrote k t cell ht _ => rw [writeCell_eq cell ht]; rfl
  | room _ _ _ _ => rfl
  | station _ _ _ => rfl
  | manager _ _ => rfl
  | context _ _ _ _ => rfl
  | take _ _ _ _ _ _ _ _ => rfl
  | place _ _ _ _ _ => rfl
  | opened _ _ _ _ _ _ _ _ => rfl
  | freed _ _ _ _ => rfl

/-- No chain of changes sets the operating state or the cycle period (R166, R188). -/
theorem Changes.standing (h : Changes s t) : t.standing = s.standing := by
  unfold Changes at h
  induction h with
  | refl => rfl
  | tail _ hc ih => exact hc.standing.trans ih

theorem Changes.op (h : Changes s t) : t.mgmt.op = s.mgmt.op := congrArg Prod.fst h.standing

theorem Changes.period (h : Changes s t) : t.link.period = s.link.period := congrArg Prod.snd h.standing

/-! ### Stations, wait list and contexts -/

/-- The parts of the state that the work of stations stands in. -/
def State.desk (s : State) : Vector Station 32 × List StationId × Vector Context 32 :=
  (s.handOff.stations, s.handOff.wait, s.playback.contexts)

theorem station_of_desk (h : t.desk = s.desk) (e : StationId) : t.station e = s.station e := by
  unfold State.station
  rw [show t.handOff.stations = s.handOff.stations from congrArg Prod.fst h]

theorem wait_of_desk (h : t.desk = s.desk) : t.handOff.wait = s.handOff.wait := congrArg (fun d => d.2.1) h

theorem context_of_desk (h : t.desk = s.desk) (e : StationId) : t.context e = s.context e :=
  context_of_contexts (congrArg (fun d => d.2.2) h) e

theorem Told.desk (h : Told s t) : t.desk = s.desk := by unfold State.desk; rw [h.handOff, h.playback]

theorem Pressed.desk (h : Pressed s t) : t.desk = s.desk := by
  unfold State.desk
  rw [h.frame]

theorem releaseHeld_told (p : Port) : Told s (releaseHeld p s) :=
  Told.trans (t := s.updPort p fun q => { q with held := [] }) (by cases p <;> rfl) (forEach_told (fun fr s => originate_told p fr s) _ _)

theorem updTake_desk (k : Nat) (f : Take → Take) (s : State) : (s.updTake k f).desk = s.desk := by
  unfold State.updTake
  split <;> rfl

theorem placeMarker_desk (k : Nat) (m : Marker) (s : State) : (placeMarker k m s).1.desk = s.desk := by
  unfold placeMarker
  split
  · rfl
  · split <;> rfl

theorem closeTake_desk (k : Nat) (rm : Room) (cause : CutCause) (source : Byte) (s : State) :
    (closeTake k rm cause source s).desk = s.desk := by
  unfold closeTake
  split
  · rfl
  · dsimp only
    rw [updTake_desk]
    split
    · exact placeMarker_desk _ _ _
    · split
      · exact placeMarker_desk _ _ _
      · rfl

theorem clearRings_desk (k : Nat) (s : State) : (clearRings k s).desk = s.desk := by
  have upd : ∀ (r : RoomId) (f : Room → Room) (s : State), (s.updRoom r f).desk = s.desk := fun _ _ _ => rfl
  unfold clearRings
  exact forEach_keeps (g := State.desk) (fun r s => upd r _ s) _ _

theorem freeTake_desk (k : Nat) (s : State) : (freeTake k s).desk = s.desk := by
  rcases h : s.take? k with _ | x
  · unfold freeTake; simp only [h]
  · rw [freeTake_of h]
    exact (clearRings_desk _ _).trans (by unfold State.freed; rfl)

/-- A station that no work holds, once HALT or SESSION_RESET has ended it (R110). -/
def Station.Free (x : Station) : Prop := x.state ≠ .offered ∧ x.state ≠ .holding ∧ x.state ≠ .listening ∧ x.state ≠ .archiving

/-- The work of every station has ended and every context is STOPPED (R110, R150). -/
structure DeskCleared (s : State) : Prop where
  wait : s.handOff.wait = []
  free : ∀ e, (s.station e).Free
  detached : ∀ e, (s.context e).take = none
  stopped : ∀ e, (s.context e).state = .stopped
  mix : ∀ e, (s.context e).mix = (s.station e).config.mix

theorem DeskCleared.of_desk (h : DeskCleared s) (ht : t.desk = s.desk) : DeskCleared t where
  wait := (wait_of_desk ht).trans h.wait
  free e := station_of_desk ht e ▸ h.free e
  detached e := context_of_desk ht e ▸ h.detached e
  stopped e := context_of_desk ht e ▸ h.stopped e
  mix e := by rw [context_of_desk ht, station_of_desk ht]; exact h.mix e

/-- What is made at its own turn and kept at every other holds of all at the end. -/
theorem forEach_all {α : Type} {f : α → State → State} {A : α → State → Prop} (make : ∀ x s, A x (f x s))
    (keep : ∀ x y s, A y s → A y (f x s)) (xs : List α) (s : State) : ∀ y ∈ xs, A y (forEach xs f s) := by
  have kept : ∀ (xs : List α) (s : State) (y : α), A y s → A y (forEach xs f s) := fun xs => by
    induction xs with
    | nil => exact fun _ _ h => h
    | cons x xs ih => exact fun s y h => ih _ y (keep x y s h)
  induction xs generalizing s with
  | nil => exact nofun
  | cons x xs ih =>
    intro y hy
    rcases List.mem_cons.1 hy with rfl | hy
    · exact kept xs _ y (make y s)
    · exact ih _ y hy

/-! ### The Hand-off Unit's part -/

/-- A station after step 2 of R110. -/
def Station.reset (x : Station) : Station :=
  if x.state = .offered ∨ x.state = .holding ∨ x.state = .archiving ∨ x.state = .listening then
    { x with state := .idle, take := none, timer := none }
  else x

theorem Station.reset_free (x : Station) : x.reset.Free := by
  unfold Station.reset Station.Free
  split
  · simp
  · rename_i h
    simp only [not_or] at h
    exact ⟨h.1, h.2.1, h.2.2.2, h.2.2.1⟩

/-- Step 2 of R110 resets its own station and touches no wait list, context or other station. -/
theorem resetStation_desk (e : StationId) : (resetStation why e s).desk = (s.updStation e Station.reset).desk := by
  have idle : ∀ t : State, t.desk = s.desk → (s.station e).reset = { s.station e with state := .idle, take := none, timer := none } →
      (makeIdle e t).desk = (s.updStation e Station.reset).desk := fun t ht hr => by
    have hst : t.handOff.stations = s.handOff.stations := congrArg Prod.fst ht
    unfold makeIdle State.updStation State.desk
    rw [station_of_desk ht, hr]
    exact congrArg₂ Prod.mk (by rw [hst]) (congrArg Prod.snd ht)
  have told : ∀ (n : Nat) (t : State), (withdrawnNotice e n why t).desk = t.desk := fun n t => (stationNotice_told _ _ _).desk
  have give : ∀ k, (match s.take? k with
      | some t => (s.setTake k { t with transcription := some .pending, holder := none }).updPool t.pool fun q => k :: q
      | none => s).desk = s.desk := fun k => by split <;> rfl
  have same : (s.station e).reset = s.station e → s.desk = (s.updStation e Station.reset).desk := fun h => by
    unfold State.updStation State.desk
    rw [h]
    simp [State.station]
  unfold resetStation
  dsimp only
  cases hx : (s.station e).state with
  | offered => exact (told _ _).trans (idle _ (give _) (by simp [Station.reset, hx]))
  | holding => exact (told _ _).trans (idle _ (give _) (by simp [Station.reset, hx]))
  | archiving => exact (told _ _).trans (idle _ (updTake_desk _ _ _) (by simp [Station.reset, hx]))
  | listening => exact idle _ rfl (by simp [Station.reset, hx])
  | offline => exact same (by simp [Station.reset, hx])
  | idle => exact same (by simp [Station.reset, hx])
  | waiting => exact same (by simp [Station.reset, hx])

theorem resetStations_spec (s : State) : (∀ e, ((forEach allStations (resetStation why) s).station e).Free) ∧
    (forEach allStations (resetStation why) s).handOff.wait = s.handOff.wait ∧
    (forEach allStations (resetStation why) s).playback.contexts = s.playback.contexts := by
  have hst : ∀ e q (s : State), (resetStation why e s).station q = (s.updStation e Station.reset).station q :=
    fun e q s => station_of_desk (resetStation_desk e) q
  refine ⟨fun e => forEach_all (A := fun e s => (s.station e).Free) (fun e s => ?_) (fun e q s h => ?_) _ _ e (List.mem_finRange e),
    forEach_keeps (g := fun s => s.handOff.wait) (fun e s => congrArg (fun d => d.2.1) (resetStation_desk (s := s) e)) _ _,
    forEach_keeps (g := fun s => s.playback.contexts) (fun e s => congrArg (fun d => d.2.2) (resetStation_desk (s := s) e)) _ _⟩
  · rw [hst, State.station_updStation]
    exact Station.reset_free _
  · rw [hst, State.station_updStation_eq]
    split
    · exact Station.reset_free _
    · exact h

/-- What step 3 of R110 needs and keeps: no station works, and none waits. -/
def Relieved (s : State) : Prop := s.handOff.wait = [] ∧ ∀ e, (s.station e).Free

theorem Relieved.of_handOff (h : Relieved s) (ht : t.handOff = s.handOff) : Relieved t := by
  unfold Relieved State.station
  rw [ht]
  exact h

theorem Relieved.unpin (h : Relieved s) : Relieved (unpin k s) := by
  have hu : Relieved (s.updTake k fun t => { t with pins := t.pins - 1 }) :=
    ⟨(wait_of_desk (updTake_desk _ _ _)).trans h.1, fun e => by rw [station_of_desk (updTake_desk _ _ _)]; exact h.2 e⟩
  unfold Machine.unpin
  dsimp only
  split
  · exact hu.of_handOff checkReserves_pressed.handOff
  · exact hu

theorem Relieved.resetContext {w : List StationId} {e : StationId} (h : Relieved s) : Relieved (resetContext reason w e s) := by
  have hd : Relieved (detach e s) := by
    unfold detach
    split
    · exact h
    · refine Relieved.unpin ?_
      unfold endListening
      split
      · rename_i hl
        exact absurd hl (h.2 e).2.2.1
      · exact h.of_handOff rfl
  unfold Machine.resetContext
  split
  · exact h
  · dsimp only
    split
    · exact hd
    · exact hd.of_handOff (stationNotice_told _ _ _).handOff

theorem resetContext_context_ne {w : List StationId} {e q : StationId} (h : q ≠ e) :
    (resetContext reason w e s).context q = s.context q := by
  unfold resetContext
  split
  · rfl
  · dsimp only
    split
    · exact detach_context_ne (Ne.symm h)
    · rw [context_of_contexts (endOfTakeNotice_contexts _ _ _ _), detach_context_ne (Ne.symm h)]

theorem resetContext_context {w : List StationId} {e : StationId} (h : (s.context e).coherent) :
    ((resetContext reason w e s).context e).take = none ∧ ((resetContext reason w e s).context e).state = .stopped := by
  unfold resetContext
  split
  · rename_i hn
    exact ⟨hn, h.1.2 hn⟩
  · rename_i k hk
    have hd := detach_context e s (by rw [hk]; simp)
    dsimp only
    split
    · rw [hd]; exact ⟨rfl, rfl⟩
    · rw [context_of_contexts (endOfTakeNotice_contexts _ _ _ _), hd]; exact ⟨rfl, rfl⟩

/-- Every STOPPED context's mix is its entry's default (R129). -/
theorem defaultMixes_spec (s : State) : (defaultMixes s).handOff = s.handOff ∧
    ∀ e, (defaultMixes s).context e = { s.context e with mix := (s.station e).config.mix } := by
  have h := allStations_context (f := fun e s => s.updContext e fun c => { c with mix := (s.station e).config.mix })
    (P := fun e c d => d = { c with mix := (s.station e).config.mix }) (I := fun t => t.handOff = s.handOff)
    (fun _ _ h => h) (fun e t h => by
      have hst : t.station e = s.station e := by unfold State.station; rw [h]
      rw [State.context_updContext, hst]) (fun e q t h => State.context_updContext_ne _ _ (Ne.symm h)) s rfl
  exact h

/-- HALT and SESSION_RESET end every station's work and stop every context (R110, R150). -/
theorem handOffReset_cleared (h : ContextsCoherent s) : DeskCleared (handOffReset why reason s) := by
  unfold handOffReset
  dsimp only
  obtain ⟨hfree, hwait, hctx⟩ := resetStations_spec (why := why) (emptyWaitList s)
  have hempty : (emptyWaitList s).playback.contexts = s.playback.contexts :=
    forEach_keeps (g := fun s => s.playback.contexts) (f := fun e s => s.updStation e fun x => { x with state := .idle })
      (fun _ _ => rfl) s.handOff.wait s
  generalize forEach allStations (resetStation why) (emptyWaitList s) = v at hfree hwait hctx
  obtain ⟨⟨hw, hf⟩, hc⟩ := allStations_context (f := resetContext reason (allStations.filter fun e => (s.station e).withdrawn))
    (P := fun _ c d => c.coherent → d.take = none ∧ d.state = .stopped) (I := Relieved) (fun _ _ h => h.resetContext)
    (fun _ _ _ => resetContext_context) (fun _ _ _ h => resetContext_context_ne h) v ⟨hwait, hfree⟩
  generalize forEach allStations _ v = w at hw hf hc
  obtain ⟨hh, hm⟩ := defaultMixes_spec w
  have hst : ∀ e, (defaultMixes w).station e = w.station e := fun e => by unfold State.station; rw [hh]
  have hco : ∀ e, (w.context e).take = none ∧ (w.context e).state = .stopped := fun e =>
    hc e (by rw [context_of_contexts (hctx.trans hempty)]; exact h e)
  refine ⟨by rw [hh]; exact hw, fun e => ?_, fun e => ?_, fun e => ?_, fun e => ?_⟩
  · rw [hst]; exact hf e
  · rw [hm]; exact (hco e).1
  · rw [hm]; exact (hco e).2
  · rw [hm, hst]

/-! ### Every room closed -/

theorem enterQueues_desk (h : s.handOff.wait = []) : (enterQueues k s).desk = s.desk := by
  rcases hx : s.take? k with _ | x
  · unfold enterQueues; simp only [hx]
  · rw [enterQueues_eq hx]
    generalize hv : (((s.updPool x.pool fun q => q ++ [k]).updArchive fun q => q ++ [k]).countTakes
      fun c => { c with takesClosed := c.takesClosed + 1 }) = v
    have ht : v.take? k = some x := by rw [← hv]; exact hx
    have hd : v.desk = s.desk := by rw [← hv]; rfl
    rw [arrive_stays ht (firstWaiting_none_of_wait ((wait_of_desk hd).trans h)), hd]

/-- A discard meets no reader when every context is detached (R146). -/
theorem discardTake_desk (o : Option Nat) (h : ∀ e, (s.context e).take = none) : (discardTake k o s).desk = s.desk := by
  have hf : ∀ es, forEach es (discardContext k o) s = s := fun es => by
    induction es with
    | nil => rfl
    | cons e es ih =>
      have he : discardContext k o e s = s := if_neg (by rw [h]; simp)
      exact (congrArg (forEach es _) he).trans ih
  unfold discardTake
  rw [hf]
  exact freeTake_desk k s

theorem closeRoomWith_desk (h : DeskCleared s) : (closeRoomWith r cause source s).desk = s.desk := by
  have upd : ∀ t : State, (t.updRoom r Room.afterClose).desk = t.desk := fun _ => rfl
  unfold closeRoomWith
  split
  · rfl
  · rename_i k _
    have hc := closeTake_desk k (s.room r) cause source s
    have hcl := h.of_desk hc
    dsimp only
    generalize closeTake k (s.room r) cause source s = v at hc hcl
    rw [upd, ← hc]
    split
    · exact discardTake_desk none hcl.detached
    · exact enterQueues_desk hcl.wait

theorem Room.state_of_bare {a b : Room} (h : a.bare = b.bare) : a.state = b.state := (congrArg Room.state h :)

/-- A closed room is CLOSED, and no other room changes its state (R4). -/
theorem closeRoomWith_state (q : RoomId) :
    ((closeRoomWith r cause source s).room q).state = if q = r then .closed else (s.room q).state := by
  have upd : ∀ t : State, (t.room q).state = (s.room q).state →
      ((t.updRoom r Room.afterClose).room q).state = if q = r then .closed else (s.room q).state := fun t ht => by
    rw [State.room_updRoom_eq]
    by_cases h : q = r
    · rw [if_pos h.symm, if_pos h]; rfl
    · rw [if_neg (Ne.symm h), if_neg h, ht]
  unfold closeRoomWith
  split
  · exact upd s rfl
  · rename_i k _
    have hw : Writes false true s _ := (closeTake_writes k (s.room r) cause source).trans
      (either_writes (p := s.cellsOf k = 0) (discardTake_writes k none) (enterQueues_writes k))
    have hb := hw.room rfl q
    exact upd _ (Room.state_of_bare hb)

theorem closeRooms_state (rs : List RoomId) (s : State) (q : RoomId) :
    ((forEach rs (fun r => closeRoomWith r cause source) s).room q).state = if q ∈ rs then .closed else (s.room q).state := by
  induction rs generalizing s with
  | nil => rfl
  | cons r rs ih =>
    refine (ih _).trans ?_
    rw [closeRoomWith_state]
    by_cases hr : q = r
    · simp [hr]
    · simp [hr]

theorem closeRooms_cleared (rs : List RoomId) (h : DeskCleared s) :
    DeskCleared (forEach rs (fun r => closeRoomWith r cause source) s) := by
  induction rs generalizing s with
  | nil => exact h
  | cons r rs ih => exact ih (h.of_desk (closeRoomWith_desk h))

theorem closeRooms_writes (rs : List RoomId) : Writes true false s (forEach rs (fun r => closeRoomWith r cause source) s) :=
  forEach_writes (fun r _ => closeRoomWith_writes r _ _) _ _

/-- Every room that is open is among those closed (R190). -/
theorem not_mem_openRooms (q : RoomId) : q ∉ s.openRooms ↔ (s.room q).state = .closed := by
  unfold State.openRooms
  simp [allRooms]

theorem openRooms_eq_nil : s.openRooms = [] ↔ ∀ r, (s.room r).state = .closed := by
  simp only [← not_mem_openRooms, List.eq_nil_iff_forall_not_mem]

/-! ### The held responses -/

theorem releaseBoth_told : Told s (releaseBoth s) := (releaseHeld_told _).trans (releaseHeld_told _)

/-- Both ports' held responses join their originate lists (R189, R190, R192). -/
theorem releaseBoth_joins (h : ∀ p, (s.port p).Grown (t.port p)) (p : Port) : HeldJoined p [] s (releaseBoth t) := by
  unfold releaseBoth
  cases p with
  | capture =>
    have hj := (releaseHeld_joins .capture).after (h .capture)
    unfold HeldJoined at *
    rw [releaseHeld_port_ne (by decide)]
    exact hj
  | office =>
    refine ((releaseHeld_joins .office).after ?_).after (h .office)
    rw [releaseHeld_port_ne (by decide)]
    exact .refl _

/-- The stations are cleared once both ports' held responses are released. -/
theorem DeskCleared.stationsCleared (h : DeskCleared s) (hj : ∀ p : Port, HeldJoined p [] u s) : StationsCleared s :=
  ⟨h.wait, (hj .capture).1, (hj .office).1, fun e =>
    have ⟨ho, hh, hl, ha⟩ := h.free e
    ⟨h.detached e, h.stopped e, h.mix e, ho, hh, hl, ha⟩⟩

/-- What an accepted HALT or SESSION_RESET leaves once the responses held are released. -/
theorem releaseBoth_leaves {ports : Bool} (hc : DeskCleared t) (hg : Writes ports false s t) (hr : ∀ r : RoomId, (t.room r).state = .closed) :
    StationsCleared (releaseBoth t) ∧ (∀ p : Port, HeldJoined p [] s (releaseBoth t)) ∧
      ∀ r : RoomId, ((releaseBoth t).room r).state = .closed :=
  have hj := releaseBoth_joins (hg.grown rfl)
  ⟨(hc.of_desk releaseBoth_told.desk).stationsCleared hj, hj, fun r => by rw [releaseBoth_told.room]; exact hr r⟩

end Sys2Proof.Machine

namespace Sys2Proof.Machine

variable {s : State} {c : Ctl} {cmd : CommandName} {p : Port}

theorem handled_coherent (h : ContextsCoherent s) : ContextsCoherent (handled c cmd s) := fun e => by
  rw [handled_context]
  exact h e

theorem heldJoined_of_handled {u : State} (h : HeldJoined p [] (handled c cmd s) u) : HeldJoined p [] s u :=
  h.after (by rw [handled_port]; exact .refl _)

theorem handled_openRooms : (handled c cmd s).openRooms = s.openRooms := by simp [State.openRooms]

theorem handled_closeAllNeeds : (handled c cmd s).closeAllNeeds = s.closeAllNeeds := by
  simp [State.closeAllNeeds, handled_openRooms]

theorem handled_sessionResetFields : sessionResetFields (handled c cmd s) = sessionResetFields s := by
  unfold sessionResetFields State.emptyOpenTakes
  simp [handled_openRooms]

/-- An accepted HALT (R189). -/
theorem haltNow_leaves (h : ContextsCoherent s) (hr : ∀ r : RoomId, (s.room r).state = .closed) :
    (haltNow s).mgmt.op = .config ∧ StationsCleared (haltNow s) ∧ (∀ p : Port, HeldJoined p [] s (haltNow s)) ∧
      ∀ r : RoomId, ((haltNow s).room r).state = .closed := by
  have hw : Writes false false s (handOffReset .halt .halt s) := handOffReset_writes _ _
  obtain ⟨hc, hj, hcl⟩ := releaseBoth_leaves (handOffReset_cleared h) hw fun r =>
    (Room.state_of_bare (hw.room rfl r)).trans (hr r)
  unfold haltNow
  generalize releaseBoth (handOffReset .halt .halt s) = v at hc hj hcl
  exact ⟨rfl, hc, fun p => by have := hj p; cases p <;> exact this, hcl⟩

/-- An accepted SESSION_RESET (R190). -/
theorem sessionResetNow_leaves (source : Byte) (h : ContextsCoherent s) : (sessionResetNow source s).mgmt.op = s.mgmt.op ∧
    StationsCleared (sessionResetNow source s) ∧ (∀ p : Port, HeldJoined p [] s (sessionResetNow source s)) ∧
      ∀ r : RoomId, ((sessionResetNow source s).room r).state = .closed := by
  have hw : Writes false false s (handOffReset .sessionReset .sessionReset s) := handOffReset_writes _ _
  have hwr : Writes true false s (handOffReset .sessionReset .sessionReset s) := handOffReset_writes _ _
  refine ⟨(sessionResetNow_changes source).op, ?_⟩
  refine releaseBoth_leaves (closeRooms_cleared _ (handOffReset_cleared h)) (hwr.trans (closeRooms_writes _)) fun r => ?_
  rw [closeRooms_state]
  split
  · rfl
  · exact (Room.state_of_bare (hw.room rfl r)).trans ((not_mem_openRooms r).1 ‹_›)

theorem exec_halt_of (hm : FromManager c s) : exec (.halt c) s = .next (if s.mgmt.op = .run ∧ s.openRooms = [] then
    respond c .halt .ok [] (haltNow (handled c .halt s)) else respond c .halt .wrongState [] (handled c .halt s)) :=
  congrArg Host.Outcome.next ((managerCommand_of hm).trans (by simp only [handled_op, handled_openRooms]))

theorem exec_sessionReset_of (hm : FromManager c s) : exec (.sessionReset c) s = .next (
    if s.mgmt.op ≠ .run then respond c .sessionReset .wrongState [] (handled c .sessionReset s)
    else if s.markerPool.free < s.closeAllNeeds then respond c .sessionReset .tableFull [] (handled c .sessionReset s)
    else respond c .sessionReset .ok (sessionResetFields s) (sessionResetNow c.src (handled c .sessionReset s))) :=
  congrArg Host.Outcome.next ((managerCommand_of hm).trans (by
    simp only [handled_op, handled_markerPool, handled_closeAllNeeds, handled_sessionResetFields]))

end Sys2Proof.Machine

open Sys2Proof Sys2Proof.Machine in
/-- Settles O8: after the Hand-off Unit's part no station works, none waits and every context is detached, so closing the rooms disturbs no
station; the writes only add frames to the ports before both release what they hold. -/
theorem operatingStatesComplete : Obligations.OperatingStatesComplete := by
  unfold Obligations.OperatingStatesComplete
  refine ⟨fun c s hm => ⟨fun hop => ?_, fun hop => ?_⟩, fun c s hm => ⟨fun h => ?_, fun hop => ?_, fun hop hf => ?_⟩,
    fun c s hm hop hco => ⟨fun hr => ?_, fun hf => ?_⟩⟩
  · exact congrArg Host.Outcome.next ((managerCommand_of hm).trans (by simp only [handled_op, hop]))
  · exact congrArg Host.Outcome.next ((managerCommand_of hm).trans (by simp only [handled_op, hop]))
  · rw [exec_halt_of hm, if_neg]
    rintro ⟨hop, ho⟩
    rcases h with h | ⟨r, h⟩
    · rw [h] at hop; cases hop
    · exact h (openRooms_eq_nil.1 ho r)
  · rw [exec_sessionReset_of hm, if_pos (by simp [hop])]
  · rw [exec_sessionReset_of hm, if_neg (by simp [hop]), if_pos hf]
  · obtain ⟨hc, hs, hj, hcl⟩ := haltNow_leaves (handled_coherent (c := c) (cmd := .halt) hco) fun r => by rw [handled_room]; exact hr r
    refine ⟨haltNow (handled c .halt s), ?_, hc, hs, fun p => heldJoined_of_handled (hj p), hcl⟩
    rw [exec_halt_of hm, if_pos ⟨hop, openRooms_eq_nil.2 hr⟩]
  · obtain ⟨ho, hs, hj, hcl⟩ := sessionResetNow_leaves c.src (handled_coherent (c := c) (cmd := .sessionReset) hco)
    refine ⟨sessionResetNow c.src (handled c .sessionReset s), ?_, ho.trans (handled_op.trans hop), hs,
      fun p => heldJoined_of_handled (hj p), hcl⟩
    rw [exec_sessionReset_of hm, if_neg (by simp [hop]), if_neg (Nat.not_lt.2 hf)]
    rfl

/-! ## The close of a cell, step by step -/

namespace Sys2Proof.Machine

variable {s t u w : State} {r : RoomId} {k n : Nat} {x : Take} {cell : AudioCell}

/-! ### One room changed twice -/

theorem State.updRoom_updRoom (s : State) (r : RoomId) (f g : Room → Room) : (s.updRoom r f).updRoom r g = s.updRoom r fun x => g (f x) := by
  have h : (s.updRoom r f).room r = f (s.room r) := State.room_updRoom _ _ _
  unfold State.updRoom at *
  rw [h]
  simp

theorem State.updRoom_congr {f g : Room → Room} (h : f (s.room r) = g (s.room r)) : s.updRoom r f = s.updRoom r g := by
  unfold State.updRoom
  rw [h]

theorem State.updRoom_self {f : Room → Room} (h : f (s.room r) = s.room r) : s.updRoom r f = s := by
  unfold State.updRoom
  rw [h]
  simp [State.room]

theorem loseCycles_eq (n : Nat) : loseCycles r n s = s.updRoom r (Room.losing n) := by
  unfold loseCycles
  split <;> rename_i h
  · exact (State.updRoom_self (by unfold Room.losing; rw [h])).symm
  · exact State.updRoom_congr (by unfold Room.losing; rw [h])
  · exact State.updRoom_congr (by unfold Room.losing; rw [h])

/-! ### What the steps write into the room -/

/-- The end of a close: skipped cycles counted, an empty cell begun (R10, R14). -/
def Room.nextCell (n : Nat) (x : Room) : Room := { x.losing n with assembly := emptyAssembly x.config.tracks }

/-- The history ring with an entry (R23). -/
def Room.entered (e : RingEntry) (x : Room) : Room := { x with ring := ringAdd x.ring e }

/-- A stored cell counted and entered in the ring (R10, R23). -/
def Room.storing (missing : Nat) (e : RingEntry) (x : Room) : Room :=
  { x with
    counters := { x.counters with cellsStored := x.counters.cellsStored + 1, missing := x.counters.missing + BitVec.ofNat 32 missing }
    ring := ringAdd x.ring e }

/-- A cell dropped (R12). -/
def Room.dropping (cause : DropCause) (x : Room) : Room :=
  { x with
    gap := satAdd 65535 x.gap 1, counters := { x.counters with cellsDropped := x.counters.cellsDropped + 1 }
    overrun := some ⟨cause, satAdd 65535 (match x.overrun with | some o => o.dropped | none => 0) 1⟩ }

theorem Room.losing_deferred (n : Nat) (x : Room) : (x.losing n).deferred = x.deferred := by
  unfold Room.losing
  split <;> rfl

theorem Room.nextCell_deferred (n : Nat) (x : Room) : (x.nextCell n).deferred = x.deferred := Room.losing_deferred n x

theorem Room.state_cases (x : Room) : x.state = .closed ∨ x.state = .onRecord ∨ x.state = .offRecord := by
  cases x.state <;> simp

theorem Room.losing_closed {x : Room} (h : x.state = .closed) (n : Nat) : x.losing n = x := by unfold Room.losing; rw [h]

theorem Room.losing_onRecord {x : Room} (h : x.state = .onRecord) (n : Nat) : x.losing n =
    { x with gap := min 65535 (x.gap + n), counters := { x.counters with cyclesLost := x.counters.cyclesLost + BitVec.ofNat 32 n } } := by
  unfold Room.losing; rw [h]; rfl

theorem Room.losing_offRecord {x : Room} (h : x.state = .offRecord) (n : Nat) :
    x.losing n = { x with offCycles := min 65535 (x.offCycles + n) } := by
  unfold Room.losing; rw [h]; rfl

theorem Room.losing_losing (n : Nat) (x : Room) : (x.losing 0).losing n = x.losing n := by
  have hmin : ∀ a : Nat, min 65535 (min 65535 a + n) = min 65535 (a + n) := fun a => by omega
  rcases x.state_cases with h | h | h
  · rw [Room.losing_closed h, Room.losing_closed h]
  · rw [Room.losing_onRecord h, Room.losing_onRecord h]
    exact (Room.losing_onRecord (by exact h) n).trans (by simp [hmin])
  · rw [Room.losing_offRecord h, Room.losing_offRecord h]
    exact (Room.losing_offRecord (by exact h) n).trans (by simp [hmin])

theorem Room.losing_withAssembly (n : Nat) (x : Room) (a : List (Option Granule)) :
    Room.losing n { x with assembly := a } = { x.losing n with assembly := a } := by
  rcases x.state_cases with h | h | h
  · rw [Room.losing_closed h]
    exact Room.losing_closed (x := { x with assembly := a }) h n
  · rw [Room.losing_onRecord h]
    exact Room.losing_onRecord (x := { x with assembly := a }) h n
  · rw [Room.losing_offRecord h]
    exact Room.losing_offRecord (x := { x with assembly := a }) h n

/-- Counting skipped cycles at the close comes to counting them after it (R14). -/
theorem Room.losing_nextCell (n : Nat) (x : Room) : (x.nextCell 0).losing n = x.nextCell n := by
  unfold Room.nextCell
  rw [Room.losing_withAssembly, Room.losing_losing]

/-- What a close without skipped cycles leaves of an ON_RECORD room. -/
theorem Room.nextCell_onRecord {x : Room} (h : x.state = .onRecord) :
    x.nextCell 0 = { x with gap := min 65535 x.gap, assembly := emptyAssembly x.config.tracks } := by
  unfold Room.nextCell
  rw [Room.losing_onRecord h]
  simp

/-! ### The steps -/

/-- A deferred cut that still lacks what it needs leaves the state as it is (R58). -/
theorem retryDeferred_stays (ho : (s.room r).openTake = some k) (h : (s.room r).deferred = none ∨ s.lowestFreeSlot = none ∨
    s.markerPool.free < (s.room r).cutNeeds .deferred) : retryDeferred r s = s := by
  unfold retryDeferred
  rcases h with h | h
  · rw [h]; rfl
  · rw [tryCut_short ho h, ite_self]

/-- What follows the record of a cell: its entry in the ring, and for a stored cell step 5 of R10. -/
def afterRecord (r : RoomId) (cycle : Word) (k : Nat) (x : State × Option Nat) : State :=
  let s := x.1.updRoom r (Room.entered ⟨cycle, some k, x.2, x.1.now⟩)
  match x.2 with
  | some p => afterStore r k p s
  | none => s

theorem closeCell_closed {cycle : Word} (h : (s.room r).state = .closed) : closeCell cycle n r s = s := if_pos h

theorem closeCell_of {cycle : Word} (hc : (s.room r).state ≠ .closed) (hret : retryDeferred r s = s)
    (ho : (s.room r).openTake = some k) : closeCell cycle n r s =
      (afterRecord r cycle k (recordCell r k ((s.room r).cellNow s.link.period) (s.room r).missingNow s)).updRoom r (Room.nextCell n) := by
  unfold closeCell
  rw [if_neg hc]
  dsimp only
  rw [hret, ho]
  dsimp only
  rw [loseCycles_eq, State.updRoom_updRoom]
  refine State.updRoom_congr ?_
  unfold Room.nextCell
  congr 2
  unfold Room.losing
  split <;> rfl

theorem dropCell_eq (cause : DropCause) : dropCell r cause s =
    if (s.room r).overrun = none then reportAlert .overrun (s.updRoom r (Room.dropping cause)) else s.updRoom r (Room.dropping cause) := by
  unfold dropCell
  dsimp only
  cases ho : (s.room r).overrun with
  | none =>
    rw [if_pos rfl]
    exact congrArg (reportAlert .overrun) (State.updRoom_congr (by unfold Room.dropping; rw [ho]))
  | some o =>
    rw [if_neg (by nofun)]
    exact State.updRoom_congr (by unfold Room.dropping; rw [ho])

theorem dropCell_told (cause : DropCause) : Told (s.updRoom r (Room.dropping cause)) (dropCell r cause s) := by
  rw [dropCell_eq]
  split
  · exact reportAlert_told _ _
  · exact .refl

theorem recordCell_stored {missing p : Nat} (hs : (s.room r).state = .onRecord) (hl : s.cellsOf k < (s.room r).config.lengthLimit)
    (h : storeCell k cell s = (t, some p)) : recordCell r k cell missing s =
      (t.countRoom r fun q => { q with cellsStored := q.cellsStored + 1, missing := q.missing + BitVec.ofNat 32 missing }, some p) := by
  unfold recordCell offerCell
  rw [hs, if_neg (Nat.not_le.2 hl), h]

theorem recordCell_noPage {missing : Nat} (hs : (s.room r).state = .onRecord) (hl : s.cellsOf k < (s.room r).config.lengthLimit)
    (h : storeCell k cell s = (t, none)) : recordCell r k cell missing s = (dropCell r .store t, none) := by
  unfold recordCell offerCell
  rw [hs, if_neg (Nat.not_le.2 hl), h]

theorem recordCell_full {missing : Nat} (hs : (s.room r).state = .onRecord) (hl : (s.room r).config.lengthLimit ≤ s.cellsOf k) :
    recordCell r k cell missing s = (dropCell r .length s, none) := by
  unfold recordCell offerCell
  rw [hs, if_pos hl]

theorem recordCell_off {missing : Nat} (hs : (s.room r).state = .offRecord) :
    recordCell r k cell missing s = (s.updRoom r fun x => { x with offCycles := satAdd 65535 x.offCycles 1 }, none) := by
  unfold recordCell
  rw [hs]

/-- The close of a cell that is stored (R10, R29). -/
theorem closeCell_stored {cycle : Word} {p : Nat} (hs : (s.room r).state = .onRecord) (hret : retryDeferred r s = s)
    (ho : (s.room r).openTake = some k) (hl : s.cellsOf k < (s.room r).config.lengthLimit)
    (h : storeCell k ((s.room r).cellNow s.link.period) s = (t, some p)) : closeCell cycle n r s =
      (afterStore r k p (t.updRoom r (Room.storing (s.room r).missingNow ⟨cycle, some k, some p, t.now⟩))).updRoom r (Room.nextCell n) := by
  rw [closeCell_of (by rw [hs]; nofun) hret ho, recordCell_stored hs hl h]
  exact congrArg (fun y => (afterStore r k p y).updRoom r (Room.nextCell n)) (State.updRoom_updRoom _ _ _ _)

/-- The close of a cell that is dropped: the store has been tried, or the take is at its limit (R11, R12). -/
theorem closeCell_dropped {cycle : Word} {cause : DropCause} (hc : (s.room r).state ≠ .closed) (hret : retryDeferred r s = s)
    (ho : (s.room r).openTake = some k)
    (h : recordCell r k ((s.room r).cellNow s.link.period) (s.room r).missingNow s = (dropCell r cause t, none)) :
    closeCell cycle n r s = (dropCell r cause t).updRoom r fun y =>
      Room.nextCell n (y.entered ⟨cycle, some k, none, (dropCell r cause t).now⟩) := by
  rw [closeCell_of hc hret ho, h]
  exact State.updRoom_updRoom _ _ _ _

/-! ### Storing a cell -/

/-- The state with a cell written at the fill of a take's last page (R29 steps 2 and 3). -/
def State.written (s : State) (k : Nat) (x : Take) (n : Nat) (pg : Page) (cell : AudioCell) : State :=
  { s with
    store := { s.store with pages := mapSet n { pg with fill := pg.fill + 1, cells := pg.cells ++ [cell] } s.store.pages }
    takeTable := { s.takeTable with takes := mapSet k { x with cells := x.cells + 1 } s.takeTable.takes } }

/-- The state with a page linked behind a take's chain, the cell its first (R29 step 1). -/
def State.linked (s : State) (k n : Nat) (rest : List Nat) (x : Take) (cell : AudioCell) : State :=
  { s with
    store := { s.store with
      freePages := rest
      pages := mapSet n { next := none, fill := 1, owner := k, cells := [cell] } (linkedPages s.store.pages k n x)
      counters := { s.store.counters with pagesAllocated := s.store.counters.pagesAllocated + 1 } }
    takeTable := { s.takeTable with
      takes := mapSet k { x with firstPage := some (x.firstPage.getD n), lastPage := some n, cells := x.cells + 1 }
        (mapSet k { x with firstPage := some (x.firstPage.getD n), lastPage := some n } s.takeTable.takes) } }

theorem needsPage_of (h : ∀ pg, x.lastPage.bind s.page? = some pg → 256 ≤ pg.fill) : s.needsPage x = true := by
  unfold State.needsPage
  split
  · rename_i pg hp
    exact decide_eq_true (h pg hp)
  · rfl

theorem storeCell_written {pg : Page} (h : s.take? k = some x) (hl : x.lastPage = some n) (hp : s.page? n = some pg) (hf : pg.fill < 256) :
    storeCell k cell s = (s.written k x n pg cell, some x.cells) := by
  have hn : s.needsPage x = false := by
    unfold State.needsPage
    rw [hl, Option.bind_some, hp]
    exact decide_eq_false (Nat.not_le.2 hf)
  have hw : writtenPages s.store.pages x.lastPage cell =
      mapSet n { pg with fill := pg.fill + 1, cells := pg.cells ++ [cell] } s.store.pages := by
    have hg : mapGet n s.store.pages = some pg := hp
    unfold writtenPages
    simp only [hl, hg]
  unfold storeCell
  simp only [h, hn, Bool.false_eq_true, if_false, writeCell_eq cell h, hw]
  rfl

theorem storeCell_linked {rest : List Nat} (h : s.take? k = some x) (hn : s.needsPage x = true) (hf : s.store.freePages = n :: rest) :
    storeCell k cell s = (checkReserves (s.linked k n rest x cell), some x.cells) := by
  unfold storeCell
  simp only [h, hn, if_true, hf, storeLinked_eq]
  rfl

theorem storeCell_noPage (h : s.take? k = some x) (hn : s.needsPage x = true) (hf : s.store.freePages = []) :
    storeCell k cell s = (s.countStore fun q => { q with noPage := q.noPage + 1 }, none) := by
  unfold storeCell
  simp only [h, hn, if_true, hf]

/-- Reading depends on the page store alone (R31). -/
theorem readCell_of_store (h : t.store = s.store) (k n j : Nat) : t.readCell k n j = s.readCell k n j := by
  unfold State.readCell State.page?
  rw [h]

theorem written_take (k n : Nat) (x : Take) (pg : Page) (cell : AudioCell) : (s.written k x n pg cell).take? k = some { x with cells := x.cells + 1 } := mapGet_mapSet_same

/-- What a cell written at its page's fill leaves: it can be read there, and no other page, cell or take has changed (R29, R31). -/
theorem written_reads {pg : Page} (x : Take) (cell : AudioCell) (hp : s.page? n = some pg) (ho : pg.owner = k)
    (hc : pg.cells.length = pg.fill) :
    (s.written k x n pg cell).take? k = some { x with cells := x.cells + 1 } ∧
      (s.written k x n pg cell).readCell k n pg.fill = some cell ∧
      (∀ j, j < pg.fill → (s.written k x n pg cell).readCell k n j = s.readCell k n j) ∧
      (∀ m, m ≠ n → (s.written k x n pg cell).page? m = s.page? m) ∧
      (s.written k x n pg cell).store.freePages = s.store.freePages ∧
      ∀ j, j ≠ k → (s.written k x n pg cell).take? j = s.take? j := by
  have hpage : (s.written k x n pg cell).page? n = some { pg with fill := pg.fill + 1, cells := pg.cells ++ [cell] } :=
    mapGet_mapSet_same
  refine ⟨written_take _ _ _ _ _, ?_, fun j hj => ?_, fun m hm => mapGet_mapSet_ne hm, rfl, fun j hj => mapGet_mapSet_ne hj⟩
  · unfold State.readCell
    rw [hpage]
    simp [ho, ← hc]
  · unfold State.readCell
    rw [hpage, hp]
    simp [hj, Nat.lt_succ_of_lt hj, List.getElem?_append_left (hc ▸ hj)]

theorem page_of_store (h : t.store = s.store) (n : Nat) : t.page? n = s.page? n := by
  unfold State.page?
  rw [h]

section Linked
variable {rest : List Nat}

theorem linked_take : (s.linked k n rest x cell).take? k =
    some { x with firstPage := some (x.firstPage.getD n), lastPage := some n, cells := x.cells + 1 } := mapGet_mapSet_same

theorem linked_page : (s.linked k n rest x cell).page? n = some { next := none, fill := 1, owner := k, cells := [cell] } :=
  mapGet_mapSet_same

/-- The page before is linked to the new one (R29 step 1). -/
theorem linked_page_old {old : Nat} {pg : Page} (hl : x.lastPage = some old) (hp : s.page? old = some pg) (hn : n ≠ old) :
    (s.linked k n rest x cell).page? old = some { pg with next := some n } := by
  have hg : mapGet old s.store.pages = some pg := hp
  refine (mapGet_mapSet_ne (Ne.symm hn)).trans ((mapGet_mapSet_ne (Ne.symm hn)).trans ?_)
  rw [hl]
  dsimp only
  rw [hg]
  exact mapGet_mapSet_same

theorem length_mapSet {α : Type} {m : SMap α} {v y : α} (hw : mapWf m) (h : mapGet k m = some v) : (mapSet k y m).length = m.length := by
  have hp := (mapKeys_mapSet_of_some (v := y) hw h).length_eq
  simpa [mapKeys] using hp

/-- A linked page leaves the reserves met when the pages that stay free meet theirs (R32, R35). -/
theorem linked_reserves (h : s.take? k = some x) (hw : mapWf s.takeTable.takes) (hp : s.store.pageReserve ≤ rest.length)
    (hs : Config.slotReserve ≤ s.freeSlots) : checkReserves (s.linked k n rest x cell) = s.linked k n rest x cell := by
  have hlen : (s.linked k n rest x cell).takeTable.takes.length = s.takeTable.takes.length :=
    (length_mapSet (mapWf_mapSet hw) mapGet_mapSet_same).trans (length_mapSet hw h)
  unfold checkReserves
  refine if_neg ?_
  unfold State.reserveUnmet State.pagesShort State.slotsShort State.freeSlots at *
  rw [hlen]
  simp only [Bool.or_eq_true, decide_eq_true_eq, not_or, Nat.not_lt]
  exact ⟨hp, hs⟩

end Linked

/-! ### The waiting GAP and the length check -/

/-- The marker of a room's waiting gap (R13, R77). -/
def State.gapMarker (s : State) (r : RoomId) (p : Nat) : Marker :=
  { plainMarker .gap p s.now s.link.node with gapCycles := (s.room r).gap }

theorem placeGap_zero {p : Nat} (h : (s.room r).gap = 0) : placeGap r k p s = s := if_pos h

theorem placeGap_placed {p : Nat} (hg : (s.room r).gap ≠ 0) (h : s.take? k = some x) (hf : 0 < s.markerPool.free) :
    placeGap r k p s = (s.placed k x (s.gapMarker r p)).updRoom r fun y => { y with gap := 0 } := by
  unfold placeGap
  rw [if_neg hg]
  dsimp only
  rw [placeMarker_of h rfl hf]
  rfl

theorem placeGap_denied {p : Nat} (hg : (s.room r).gap ≠ 0) (h : s.take? k = some x) (hf : s.markerPool.free = 0) :
    placeGap r k p s = reportAlert .markersLow s := by
  unfold placeGap
  rw [if_neg hg]
  dsimp only
  have hm : ∀ m : Marker, m.kind = .gap → placeMarker k m s = (s, none) := fun m hm => by
    unfold placeMarker State.grants
    simp [h, hm, MarkerKind.isAnnotation, hf]
  rw [hm _ rfl]

/-- What an attempt to place a waiting gap can do. -/
structure GapTried (r : RoomId) (k : Nat) (x : Take) (s t : State) : Prop where
  store : t.store = s.store
  take : ∃ y, t.take? k = some y ∧ y.cells = x.cells ∧ y.firstPage = x.firstPage ∧ y.lastPage = x.lastPage ∧ y.lifecycle = x.lifecycle
  room : t.room r = { s.room r with gap := (t.room r).gap }

theorem placeGap_tried (p : Nat) (h : s.take? k = some x) : GapTried r k x s (placeGap r k p s) := by
  by_cases hg : (s.room r).gap = 0
  · rw [placeGap_zero hg]
    exact ⟨rfl, ⟨x, h, rfl, rfl, rfl, rfl⟩, rfl⟩
  · by_cases hf : s.markerPool.free = 0
    · rw [placeGap_denied hg h hf]
      have ht := reportAlert_told .markersLow s
      exact ⟨ht.store, ⟨x, (ht.take k).trans h, rfl, rfl, rfl, rfl⟩, by rw [ht.room r]⟩
    · rw [placeGap_placed hg h (Nat.pos_of_ne_zero hf)]
      refine ⟨rfl, ⟨x.withMarker (s.gapMarker r p), State.placed_take _ _ _ _, rfl, rfl, rfl, rfl⟩, ?_⟩
      rw [State.room_updRoom]
      rfl

/-- Step 5 of R10 below the length limit. -/
theorem afterStore_below {p : Nat} (h : s.take? k = some x) (hl : x.cells ≠ (s.room r).config.lengthLimit) :
    afterStore r k p s = (placeGap r k p s).updRoom r fun y => { y with overrun := none } := by
  have hg := placeGap_tried (r := r) p h
  obtain ⟨y, hy, hc, _⟩ := hg.take
  have hr := hg.room
  unfold afterStore
  generalize placeGap r k p s = v at hy hr
  dsimp only
  rw [if_neg]
  rw [State.room_updRoom, cellsOf_of (s := v.updRoom r _) hy, hc, hr]
  exact hl

/-- Step 5 of R10 at the length limit, with no gap waiting: a cut is asked for (R11). -/
theorem afterStore_limit {p : Nat} (hg : (s.room r).gap = 0) (h : s.take? k = some x) (hl : x.cells = (s.room r).config.lengthLimit) :
    afterStore r k p s = (requestCut r .length s.link.node (s.updRoom r fun y => { y with overrun := none })).1 := by
  unfold afterStore
  rw [placeGap_zero hg]
  dsimp only
  rw [if_pos]
  · rfl
  · rw [State.room_updRoom, cellsOf_of (s := s.updRoom r _) h]
    exact hl

/-! ### What a deferred cut is known by -/

/-- A room's deferred cut, the count of deferred cuts and the latch of CUT_DEFERRED. -/
def State.deferral (s : State) (r : RoomId) : Option CutCause × Counter × Bool :=
  ((s.room r).deferred, s.takeTable.counters.deferredCuts, s.latched .cutDeferred)

theorem updRoom_deferral {f : Room → Room} (h : (f (s.room r)).deferred = (s.room r).deferred) : (s.updRoom r f).deferral r = s.deferral r := by
  unfold State.deferral
  rw [State.room_updRoom, h]
  rfl

theorem bare_deferred {x y : Room} (h : x.bare = y.bare) : x.deferred = y.deferred := (congrArg Room.deferred h :)

theorem alertBit_cutDeferred {a : Alert} (h : a ≠ .cutDeferred) : (alertBit a).getLsbD Alert.cutDeferred.code = false := by
  revert h
  cases a <;> decide

theorem reportAlert_deferral {a : Alert} (h : a ≠ .cutDeferred) : (reportAlert a s).deferral r = s.deferral r := by
  have ht := reportAlert_told a s
  unfold State.deferral State.latched
  rw [ht.room, ht.takeTable, reportAlert_latches]
  split
  · rfl
  · rw [BitVec.getLsbD_or, alertBit_cutDeferred h, Bool.or_false]

theorem reportReserves_deferral : (reportReserves s).deferral r = s.deferral r := by
  have h : ∀ (p : Prop) [Decidable p] (a : Alert) (s : State), a ≠ .cutDeferred → (if p then reportAlert a s else s).deferral r = s.deferral r :=
    fun p _ a s ha => by
      split
      · exact reportAlert_deferral ha
      · rfl
  exact (h _ _ _ (by nofun)).trans (h _ _ _ (by nofun))

theorem reclaim_mgmt (k : Nat) (s : State) : (reclaim k s).mgmt = s.mgmt := by
  rcases hx : s.take? k with _ | x
  · unfold reclaim; simp only [hx]
  · by_cases hr : x.reclaimable = true
    · rw [reclaim_of hx hr, clearRings_eq]; rfl
    · unfold reclaim; simp only [hx, hr]; rfl

theorem pressureSteps_mgmt (n : Nat) (s : State) : (pressureSteps n s).mgmt = s.mgmt := by
  induction n generalizing s with
  | zero => rfl
  | succ n ih =>
    rcases pressure_cases s with hs | ⟨k, rest, hu, hk, hr⟩
    · rw [pressureSteps_stops _ hs]
    · rw [pressureSteps_succ n hu hk, ih]
      exact reclaim_mgmt k s

theorem checkReserves_deferral : (checkReserves s).deferral r = s.deferral r := by
  unfold checkReserves
  split
  · rw [reportReserves_deferral]
    have hp := pressureSteps_pressed s.store.retention.length s
    have hm := pressureSteps_mgmt s.store.retention.length s
    generalize pressureSteps s.store.retention.length s = v at hp hm
    have hc : v.takeTable.counters = s.takeTable.counters := by rw [hp.frame]
    unfold State.deferral State.latched
    rw [hm, bare_deferred (hp.bare r), hc]
  · rfl

theorem storeCell_deferral : (storeCell k cell s).1.deferral r = s.deferral r := by
  rcases h : s.take? k with _ | x
  · unfold storeCell; simp only [h]
  · rcases hn : s.needsPage x with _ | _
    · unfold storeCell
      simp only [h, hn, Bool.false_eq_true, if_false, writeCell_eq cell h]
      rfl
    · rcases hf : s.store.freePages with _ | ⟨n, rest⟩
      · rw [storeCell_noPage h hn hf]; rfl
      · rw [storeCell_linked h hn hf]
        exact checkReserves_deferral.trans rfl

theorem dropCell_deferral (cause : DropCause) : (dropCell r cause s).deferral r = s.deferral r := by
  rw [dropCell_eq]
  split
  · exact (reportAlert_deferral (by nofun)).trans (updRoom_deferral rfl)
  · exact updRoom_deferral rfl

theorem placeGap_deferral (p : Nat) : (placeGap r k p s).deferral r = s.deferral r := by
  by_cases hg : (s.room r).gap = 0
  · rw [placeGap_zero hg]
  · rcases h : s.take? k with _ | x
    · have hm : ∀ m : Marker, placeMarker k m s = (s, none) := fun m => by unfold placeMarker; simp only [h]
      unfold placeGap
      rw [if_neg hg]
      dsimp only
      rw [hm]
      exact reportAlert_deferral (by nofun)
    · by_cases hf : s.markerPool.free = 0
      · rw [placeGap_denied hg h hf]
        exact reportAlert_deferral (by nofun)
      · rw [placeGap_placed hg h (Nat.pos_of_ne_zero hf), updRoom_deferral rfl]
        rfl

end Sys2Proof.Machine

/-! ## The close of a cell -/

namespace Sys2Proof.Machine

variable {s t u v w : State} {r : RoomId} {k k' n skipped p : Nat} {x y : Take} {cell : AudioCell} {cycle : Word} {cause : DropCause}

/-! ### A cell stored below the length limit -/

/-- The room at the end of the close of a stored cell, after an attempt to place its gap. -/
def Room.afterStored (n : Nat) (x : Room) : Room := Room.nextCell n { x with overrun := none }

theorem Room.afterStored_onRecord {x : Room} (h : x.state = .onRecord) :
    x.afterStored 0 = { x with overrun := none, gap := min 65535 x.gap, assembly := emptyAssembly x.config.tracks } :=
  Room.nextCell_onRecord (x := { x with overrun := none }) h

/-- The state whose gap is tried once a cell is stored: the store, with the room's counters and ring (R10, R23). -/
def State.storedIn (t : State) (r : RoomId) (missing : Nat) (cycle : Word) (k p : Nat) : State :=
  t.updRoom r (Room.storing missing ⟨cycle, some k, some p, t.now⟩)

section Stored
variable (hs : (s.room r).state = .onRecord) (hret : retryDeferred r s = s) (ho : (s.room r).openTake = some k)
  (hl : s.cellsOf k < (s.room r).config.lengthLimit) (h : storeCell k ((s.room r).cellNow s.link.period) s = (t, some p))
  (ht : t.take? k = some y)
include hs hret ho hl h ht

/-- The close of a cell stored below the length limit. -/
theorem closeCell_below (hne : y.cells ≠ (t.room r).config.lengthLimit) : closeCell cycle skipped r s =
    (placeGap r k p (t.storedIn r (s.room r).missingNow cycle k p)).updRoom r (Room.afterStored skipped) := by
  have hb : afterStore r k p (t.storedIn r (s.room r).missingNow cycle k p) = _ :=
    afterStore_below (x := y) ht (by unfold State.storedIn; rw [State.room_updRoom]; exact hne)
  rw [closeCell_stored hs hret ho hl h]
  exact (congrArg (fun z => z.updRoom r (Room.nextCell skipped)) hb).trans (State.updRoom_updRoom _ _ _ _)

/-- Whatever comes of the gap, the store stays as it is and the take keeps its cells and pages. -/
theorem closeCell_below_spec (hne : y.cells ≠ (t.room r).config.lengthLimit) : (closeCell cycle skipped r s).store = t.store ∧
    ∃ z, (closeCell cycle skipped r s).take? k = some z ∧ z.cells = y.cells ∧ z.firstPage = y.firstPage ∧ z.lastPage = y.lastPage ∧
      z.lifecycle = y.lifecycle := by
  have hg := placeGap_tried (s := t.storedIn r (s.room r).missingNow cycle k p) (r := r) p ht
  rw [closeCell_below hs hret ho hl h ht hne]
  exact ⟨hg.store, hg.take⟩

end Stored

/-- A page with room takes the cell at its fill, and no gap waits (R10, R29). -/
theorem closeCell_written {pg : Page} (hs : (s.room r).state = .onRecord) (hret : retryDeferred r s = s)
    (ho : (s.room r).openTake = some k) (h : s.take? k = some x) (hl : x.cells + 1 < (s.room r).config.lengthLimit)
    (hlast : x.lastPage = some n) (hp : s.page? n = some pg) (hf : pg.fill < 256) :
    closeCell cycle 0 r s = (placeGap r k x.cells
      ((s.written k x n pg ((s.room r).cellNow s.link.period)).storedIn r (s.room r).missingNow cycle k x.cells)).updRoom r
        (Room.afterStored 0) :=
  closeCell_below hs hret ho (by rw [cellsOf_of h]; omega) (storeCell_written h hlast hp hf) (written_take _ _ _ _ _) (Nat.ne_of_lt hl)

/-- The room once a cell is written and counted. -/
theorem written_storedIn_room {pg : Page} {missing : Nat} : ((s.written k x n pg cell).storedIn r missing cycle k p).room r =
    (s.room r).storing missing ⟨cycle, some k, some p, s.now⟩ := State.room_updRoom _ _ _

/-! ### A cell dropped -/

/-- What the close of a dropped cell leaves (R12, R23); `t` is the state that the drop finds. -/
theorem closeCell_dropped_spec (hs : (s.room r).state = .onRecord) (hret : retryDeferred r s = s)
    (ho : (s.room r).openTake = some k)
    (h : recordCell r k ((s.room r).cellNow s.link.period) (s.room r).missingNow s = (dropCell r cause t, none))
    (hroom : t.room r = s.room r) (hclock : t.clock = s.clock) :
    (∀ j, (closeCell cycle 0 r s).take? j = t.take? j) ∧ (closeCell cycle 0 r s).store = t.store ∧
      ((closeCell cycle 0 r s).room r).gap = min 65535 ((s.room r).gap + 1) ∧
      ((closeCell cycle 0 r s).room r).counters.cellsDropped = (s.room r).counters.cellsDropped + 1 ∧
      ((closeCell cycle 0 r s).room r).overrun.map Overrun.cause = some cause ∧
      ((closeCell cycle 0 r s).room r).ring = ringAdd (s.room r).ring ⟨cycle, some k, none, s.now⟩ ∧
      ((s.room r).overrun = none → (closeCell cycle 0 r s).latched .overrun = true) := by
  have hd := dropCell_told (s := t) (r := r) cause
  have hnow : (dropCell r cause t).now = s.now := congrArg Calendar.stamp (hd.clock.trans hclock)
  have hr : (dropCell r cause t).room r = (s.room r).dropping cause := by rw [hd.room, State.room_updRoom, hroom]
  have hlat : (s.room r).overrun = none → (dropCell r cause t).latched .overrun = true := fun hn => by
    rw [dropCell_eq, hroom, if_pos hn]
    exact reportAlert_latched _ _
  rw [closeCell_dropped (by rw [hs]; nofun) hret ho h, hnow]
  generalize dropCell r cause t = v at hd hr hlat
  refine ⟨fun j => hd.take j, hd.store, ?_⟩
  rw [State.room_updRoom, hr, Room.nextCell_onRecord (by exact hs)]
  refine ⟨?_, rfl, rfl, rfl, hlat⟩
  change min 65535 (min 65535 ((s.room r).gap + 1)) = _
  rw [← min_assoc, min_self]

/-! ### Deferred cuts at a close -/

theorem requestCut_of_deferred {c : CutCause} {source : Byte} (h : (s.room r).deferred ≠ none) : (requestCut r c source s).1 = s := by
  by_cases hc : (s.room r).state = .closed
  · unfold requestCut
    rw [if_pos hc]
  · rw [requestCut_absorbed hc h]

/-- With a cut already deferred, the length check asks for nothing new (R16). -/
theorem afterStore_deferral (h : (s.room r).deferred ≠ none) : (afterStore r k p s).deferral r = s.deferral r := by
  have hg : ((placeGap r k p s).updRoom r fun x => { x with overrun := none }).deferral r = s.deferral r :=
    (updRoom_deferral rfl).trans (placeGap_deferral p)
  have hd : (((placeGap r k p s).updRoom r fun x => { x with overrun := none }).room r).deferred = (s.room r).deferred :=
    congrArg Prod.fst hg
  unfold afterStore
  dsimp only
  split
  · rw [requestCut_of_deferred (by rw [hd]; exact h)]
    exact hg
  · exact hg

/-- A close defers no cut but by the length check after a store. -/
theorem closeCell_deferral (hc : (s.room r).state ≠ .closed) (hret : retryDeferred r s = s) (ho : (s.room r).openTake = some k)
    (h : ∀ t p, storeCell k ((s.room r).cellNow s.link.period) s = (t, some p) →
      (afterStore r k p (t.storedIn r (s.room r).missingNow cycle k p)).deferral r = t.deferral r) :
    (closeCell cycle skipped r s).deferral r = s.deferral r := by
  have drop : ∀ (t : State) (cause : DropCause), t.deferral r = s.deferral r →
      recordCell r k ((s.room r).cellNow s.link.period) (s.room r).missingNow s = (dropCell r cause t, none) →
      (closeCell cycle skipped r s).deferral r = s.deferral r := fun t cause ht hrec => by
    rw [closeCell_dropped hc hret ho hrec]
    refine (updRoom_deferral ?_).trans ((dropCell_deferral _).trans ht)
    exact Room.nextCell_deferred _ _
  rcases (s.room r).state_cases with hs | hs | hs
  · exact absurd hs hc
  · by_cases hl : s.cellsOf k < (s.room r).config.lengthLimit
    · have hd := storeCell_deferral (s := s) (k := k) (cell := (s.room r).cellNow s.link.period) (r := r)
      rcases hst : storeCell k ((s.room r).cellNow s.link.period) s with ⟨t, _ | p⟩
      · rw [hst] at hd
        exact drop t .store hd (recordCell_noPage hs hl hst)
      · rw [hst] at hd
        rw [closeCell_stored hs hret ho hl hst, updRoom_deferral (Room.nextCell_deferred _ _)]
        exact (h t p hst).trans hd
    · exact drop s .length rfl (recordCell_full hs (Nat.not_lt.1 hl))
  · rw [closeCell_of hc hret ho, recordCell_off hs, updRoom_deferral (Room.nextCell_deferred _ _)]
    unfold afterRecord
    exact (updRoom_deferral rfl).trans (updRoom_deferral rfl)

theorem closeCell_keeps_deferred (hret : retryDeferred r s = s) (ho : (s.room r).openTake = some k) (hd : (s.room r).deferred ≠ none) :
    (closeCell cycle skipped r s).deferral r = s.deferral r := by
  by_cases hc : (s.room r).state = .closed
  · rw [closeCell_closed hc]
  · refine closeCell_deferral hc hret ho fun t p hst => ?_
    have ht : t.deferral r = s.deferral r := by
      have := storeCell_deferral (s := s) (k := k) (cell := (s.room r).cellNow s.link.period) (r := r)
      rwa [hst] at this
    have hw : (t.storedIn r (s.room r).missingNow cycle k p).deferral r = t.deferral r := updRoom_deferral rfl
    have hdw : ((t.storedIn r (s.room r).missingNow cycle k p).room r).deferred = (s.room r).deferred := congrArg Prod.fst (hw.trans ht)
    exact (afterStore_deferral (by rw [hdw]; exact hd)).trans hw

/-! ### Skipped cycles -/

/-- The skipped count of a sync is counted on what the close leaves (R14). -/
theorem closeCell_skipped (hret : retryDeferred r s = s) (ho : (s.room r).openTake = some k) (n : Nat) :
    closeCell cycle n r s = (closeCell cycle 0 r s).updRoom r (Room.losing n) := by
  by_cases hc : (s.room r).state = .closed
  · rw [closeCell_closed hc, closeCell_closed hc]
    exact (State.updRoom_self (Room.losing_closed hc n)).symm
  · rw [closeCell_of hc hret ho, closeCell_of hc hret ho, State.updRoom_updRoom]
    exact State.updRoom_congr (Room.losing_nextCell n _).symm

/-! ### A deferred cut made -/

/-- The close of a cell once the deferred cut has been tried. -/
def closeRest (cycle : Word) (skipped : Nat) (r : RoomId) (cell : AudioCell) (missing : Nat) (s : State) : State :=
  match (s.room r).openTake with
  | none => s
  | some slot =>
    let (s, position) := recordCell r slot cell missing s
    let s := s.updRoom r fun x => { x with ring := ringAdd x.ring ⟨cycle, some slot, position, s.now⟩ }
    let s := match position with
      | some p => afterStore r slot p s
      | none => s
    (loseCycles r skipped s).updRoom r fun x => { x with assembly := emptyAssembly x.config.tracks }

theorem closeCell_eq (hc : (s.room r).state ≠ .closed) : closeCell cycle skipped r s =
    closeRest cycle skipped r ((s.room r).cellNow s.link.period) (s.room r).missingNow (retryDeferred r s) := by
  unfold closeCell
  rw [if_neg hc]
  rfl

/-- A close that makes its deferred cut goes on as a close on what the cut leaves (R58). -/
theorem closeCell_of_retried (hc : (s.room r).state ≠ .closed) (h : retryDeferred r s = t) (hstay : retryDeferred r t = t)
    (hs : (t.room r).state = (s.room r).state) (ha : (t.room r).assembly = (s.room r).assembly)
    (hp : t.link.period = s.link.period) : closeCell cycle skipped r s = closeCell cycle skipped r t := by
  rw [closeCell_eq hc, closeCell_eq (by rw [hs]; exact hc), h, hstay, hp]
  unfold Room.cellNow Room.missingNow
  rw [ha]

/-- The first cell of a take with no page is stored at position 0 of a new page, or dropped: no cut is deferred (R29, R58). -/
theorem closeCell_first (hc : (s.room r).state ≠ .closed) (hret : retryDeferred r s = s) (ho : (s.room r).openTake = some k)
    (h : s.take? k = some x) (ho' : x.lifecycle = .open) (hcells : x.cells = 0) (hfirst : x.firstPage = none) (hlast : x.lastPage = none)
    (hl : 1 < (s.room r).config.lengthLimit) :
    ((closeCell cycle skipped r s).room r).deferred = (s.room r).deferred ∧
      ∀ (n : Nat) (rest : List Nat), (s.room r).state = .onRecord → s.store.freePages = n :: rest →
        ∃ t', (closeCell cycle skipped r s).take? k = some t' ∧ t'.lifecycle = .open ∧ t'.cells = 1 ∧ t'.firstPage = some n ∧
          t'.lastPage = some n := by
  have hn : s.needsPage x = true := needsPage_of fun pg hpg => by rw [hlast] at hpg; cases hpg
  have stored : ∀ n rest, s.store.freePages = n :: rest → ∃ y,
      (checkReserves (s.linked k n rest x ((s.room r).cellNow s.link.period))).take? k = some y ∧ y.lifecycle = .open ∧ y.cells = 1 ∧
        y.firstPage = some n ∧ y.lastPage = some n := fun n rest _ =>
    ⟨_, checkReserves_pressed.kept k _ linked_take (by simp [Take.reclaimable, ho']), ho', by rw [hcells], by rw [hfirst]; rfl, rfl⟩
  have limit : ∀ n rest, ((checkReserves (s.linked k n rest x ((s.room r).cellNow s.link.period))).room r).config.lengthLimit =
      (s.room r).config.lengthLimit := fun n rest => (congrArg (fun z : Room => z.config.lengthLimit) (checkReserves_pressed.bare r) :)
  refine ⟨congrArg Prod.fst (closeCell_deferral hc hret ho fun t p hst => ?_), fun n rest hs hf => ?_⟩
  · rcases hf : s.store.freePages with _ | ⟨n, rest⟩
    · rw [storeCell_noPage h hn hf] at hst
      cases hst
    · obtain ⟨y, hy, _, hy1, _⟩ := stored n rest hf
      have hlim := limit n rest
      rw [storeCell_linked h hn hf] at hst
      generalize checkReserves (s.linked k n rest x ((s.room r).cellNow s.link.period)) = v at hy hlim hst
      obtain ⟨rfl, rfl⟩ : v = t ∧ x.cells = p := by simpa using hst
      have hne : y.cells ≠ ((v.storedIn r (s.room r).missingNow cycle k x.cells).room r).config.lengthLimit := by
        unfold State.storedIn
        rw [State.room_updRoom, hy1]
        exact fun he => absurd (he.trans hlim) (Nat.ne_of_lt hl)
      rw [afterStore_below (s := v.storedIn r (s.room r).missingNow cycle k x.cells) (x := y) hy hne, updRoom_deferral rfl, placeGap_deferral]
      exact updRoom_deferral rfl
  · obtain ⟨y, hy, hyo, hy1, hyf, hyl⟩ := stored n rest hf
    have hlim := limit n rest
    obtain ⟨_, z, hz, hzc, hzf, hzl, hzo⟩ := closeCell_below_spec (cycle := cycle) (skipped := skipped) hs hret ho
      (by rw [cellsOf_of h, hcells]; omega) (storeCell_linked h hn hf) hy (by rw [hlim, hy1]; exact Nat.ne_of_lt hl)
    exact ⟨z, hz, hzo.trans hyo, hzc.trans hy1, hzf.trans hyf, hzl.trans hyl⟩


/-! ### A store that brings the take to its length limit -/

/-- The state that the length check finds once a cell is written with no gap waiting. -/
def State.writtenIn (s : State) (r : RoomId) (k : Nat) (x : Take) (n : Nat) (pg : Page) (cell : AudioCell) (missing : Nat) (cycle : Word) :
    State :=
  (s.written k x n pg cell).updRoom r fun y => { y.storing missing ⟨cycle, some k, some x.cells, s.now⟩ with overrun := none }

theorem storedIn_overrun {pg : Page} {missing : Nat} :
    (((s.written k x n pg cell).storedIn r missing cycle k x.cells).updRoom r fun y => { y with overrun := none }) =
      s.writtenIn r k x n pg cell missing cycle := State.updRoom_updRoom _ _ _ _

theorem writtenIn_room {pg : Page} {missing : Nat} : (s.writtenIn r k x n pg cell missing cycle).room r =
    { (s.room r).storing missing ⟨cycle, some k, some x.cells, s.now⟩ with overrun := none } := State.room_updRoom _ _ _

/-- A slot keeps its take's place in the table when the take is written anew (R44). -/
theorem firstUnlisted_mapSet {m : SMap Take} (h : (mapGet k m).isSome = true) (fuel j : Nat) :
    firstUnlisted (mapSet k y m) fuel j = firstUnlisted m fuel j := by
  induction fuel generalizing j with
  | zero => rfl
  | succ fuel ih =>
    have hj : (mapGet j (mapSet k y m)).isSome = (mapGet j m).isSome := by
      by_cases he : j = k
      · rw [he, mapGet_mapSet_same, h]; rfl
      · rw [mapGet_mapSet_ne he]
    rw [firstUnlisted, firstUnlisted, hj, ih]

theorem writtenIn_lowestFreeSlot {pg : Page} {missing : Nat} (h : s.take? k = some x) :
    (s.writtenIn r k x n pg cell missing cycle).lowestFreeSlot = s.lowestFreeSlot :=
  firstUnlisted_mapSet (by rw [show mapGet k s.takeTable.takes = some x from h]; rfl) _ _

theorem closeCell_atLimit {pg : Page} (hs : (s.room r).state = .onRecord) (hret : retryDeferred r s = s)
    (ho : (s.room r).openTake = some k) (h : s.take? k = some x) (hl : x.cells + 1 = (s.room r).config.lengthLimit)
    (hg : (s.room r).gap = 0) (hlast : x.lastPage = some n) (hp : s.page? n = some pg) (hf : pg.fill < 256) :
    closeCell cycle 0 r s = (requestCut r .length s.link.node
      (s.writtenIn r k x n pg ((s.room r).cellNow s.link.period) (s.room r).missingNow cycle)).1.updRoom r (Room.nextCell 0) := by
  rw [closeCell_stored hs hret ho (by rw [cellsOf_of h]; omega) (storeCell_written h hlast hp hf)]
  have ht : ((s.written k x n pg ((s.room r).cellNow s.link.period)).storedIn r (s.room r).missingNow cycle k x.cells).take? k = _ :=
    written_take k n x pg ((s.room r).cellNow s.link.period)
  have hb := afterStore_limit (r := r) (p := x.cells) (by rw [written_storedIn_room]; exact hg) ht (by rw [written_storedIn_room]; exact hl)
  rw [storedIn_overrun] at hb
  exact congrArg (fun z => z.updRoom r (Room.nextCell 0)) hb

/-- A cut request keeps its room's state and gap (R16, R52). -/
theorem requestCut_room {c : CutCause} {source : Byte} (hc : (s.room r).state ≠ .closed) (hd : (s.room r).deferred = none)
    (ho : (s.room r).openTake = some k) (h : s.take? k = some x) :
    ((requestCut r c source s).1.room r).state = (s.room r).state ∧ ((requestCut r c source s).1.room r).gap = (s.room r).gap := by
  by_cases hn : s.lowestFreeSlot = none ∨ s.markerPool.free < (s.room r).cutNeeds c
  · rw [requestCut_short hc hd ho hn, (cutDeferred_spec r c s).1]
    exact ⟨rfl, rfl⟩
  · obtain ⟨hk, hf⟩ := not_or.1 hn
    obtain ⟨k', hk'⟩ := Option.ne_none_iff_exists'.1 hk
    obtain ⟨hroom, _⟩ := requestCut_cutMade (source := source) hc hd ho h hk' (Nat.not_lt.1 hf)
    exact ⟨(congrArg Room.state hroom :), (congrArg Room.gap hroom :)⟩

/-- The close after a request by the length check, with no gap waiting: it begins an empty cell, and the cut is made or deferred (R11, R51). -/
theorem requestCut_nextCell {source : Byte} (hs : (w.room r).state = .onRecord) (hg : (w.room r).gap = 0)
    (hd : (w.room r).deferred = none) (ho : (w.room r).openTake = some k) (h : w.take? k = some x) :
    (requestCut r .length source w).1.updRoom r (Room.nextCell 0) =
        (requestCut r .length source w).1.updRoom r (fun y => { y with assembly := emptyAssembly y.config.tracks }) ∧
      (∀ k' : Nat, w.lowestFreeSlot = some k' → (w.room r).cutNeeds .length ≤ w.markerPool.free →
        CutMade r k k' x .length source w (requestCut r .length source w).1) ∧
      ((w.lowestFreeSlot = none ∨ w.markerPool.free < (w.room r).cutNeeds .length) →
        (((requestCut r .length source w).1.updRoom r (Room.nextCell 0)).room r).deferred = some .length ∧
          ((requestCut r .length source w).1.updRoom r (Room.nextCell 0)).take? k = some x ∧
          ((requestCut r .length source w).1.updRoom r (Room.nextCell 0)).latched .cutDeferred = true) := by
  have hc : (w.room r).state ≠ .closed := by rw [hs]; nofun
  obtain ⟨hstate, hgap⟩ := requestCut_room (c := .length) (source := source) hc hd ho h
  refine ⟨State.updRoom_congr ?_, fun k' hk hf => requestCut_cutMade hc hd ho h hk hf, fun hf => ?_⟩
  · rw [Room.nextCell_onRecord (hstate.trans hs), hgap.trans hg]
    rfl
  · obtain ⟨hroom, htakes, _, _, hlat⟩ := cutDeferred_spec r .length w
    rw [requestCut_short hc hd ho hf, State.room_updRoom, Room.nextCell_deferred, hroom]
    exact ⟨rfl, (congrArg (mapGet k) htakes).trans h, hlat⟩

/-! ### A waiting gap at the close of a stored cell -/

/-- What the rest of the close makes of a waiting gap: it is placed, or, with no entry free, it stays and MARKERS_LOW is reported (R13, R82). -/
theorem placeGap_afterStored (hs : (w.room r).state = .onRecord) (hg : 0 < (w.room r).gap) (h : w.take? k = some x) :
    ((placeGap r k p w).updRoom r (Room.afterStored 0)).store = w.store ∧
      (((placeGap r k p w).updRoom r (Room.afterStored 0)).room r).ring = (w.room r).ring ∧
      (0 < w.markerPool.free → (((placeGap r k p w).updRoom r (Room.afterStored 0)).room r).gap = 0 ∧
        ((placeGap r k p w).updRoom r (Room.afterStored 0)).markerPool = { w.markerPool with free := w.markerPool.free - 1 } ∧
        ((placeGap r k p w).updRoom r (Room.afterStored 0)).take? k = some (x.withMarker (w.gapMarker r p))) ∧
      (w.markerPool.free = 0 → (((placeGap r k p w).updRoom r (Room.afterStored 0)).room r).gap = min 65535 (w.room r).gap ∧
        ((placeGap r k p w).updRoom r (Room.afterStored 0)).markerPool = w.markerPool ∧
        ((placeGap r k p w).updRoom r (Room.afterStored 0)).take? k = some x ∧
        ((placeGap r k p w).updRoom r (Room.afterStored 0)).latched .markersLow = true) := by
  have ht := placeGap_tried (r := r) p h
  have hroom := (State.room_updRoom (s := placeGap r k p w) r (Room.afterStored 0)).trans
    (Room.afterStored_onRecord (by rw [ht.room]; exact hs))
  refine ⟨ht.store, by rw [hroom, ht.room], fun hf => ?_, fun hf => ?_⟩
  · rw [hroom, placeGap_placed (Nat.ne_of_gt hg) h hf, State.room_updRoom]
    exact ⟨rfl, rfl, State.placed_take _ _ _ _⟩
  · have hto := reportAlert_told .markersLow w
    rw [hroom, placeGap_denied (Nat.ne_of_gt hg) h hf, hto.room]
    exact ⟨rfl, hto.markerPool, (hto.take k).trans h, reportAlert_latched _ _⟩

/-! ### A deferred cut made at a close -/

/-- The successor of a deferred cut takes the cell that closes (R58). -/
theorem closeCell_retried {c : CutCause} (hc : (s.room r).state ≠ .closed) (ho : (s.room r).openTake = some k) (h : s.take? k = some x)
    (hd : (s.room r).deferred = some c) (hk : s.lowestFreeSlot = some k') (hf : (s.room r).cutNeeds .deferred ≤ s.markerPool.free)
    (hv : v = (tryCut r .deferred s.link.node s).1) : CutMade r k k' x .deferred s.link.node s v ∧
      closeCell cycle skipped r s = closeCell cycle skipped r (v.updRoom r fun y => { y with deferred := none }) ∧
      (1 < (s.room r).config.lengthLimit → ((closeCell cycle skipped r s).room r).deferred = none) ∧
      ∀ (n : Nat) (rest : List Nat), (s.room r).state = .onRecord → 1 < (s.room r).config.lengthLimit → v.store.freePages = n :: rest →
        ∃ t', (closeCell cycle skipped r s).take? k' = some t' ∧ t'.lifecycle = .open ∧ t'.cells = 1 ∧ t'.firstPage = some n ∧
          t'.lastPage = some n := by
  have htry := tryCut_of (source := s.link.node) ho h hk hf
  obtain ⟨hcut, y, hy, hyf, hyl⟩ := makeCut_made (source := s.link.node) h (lowestFreeSlot_ne hk h) hf
  have hper : v.link.period = s.link.period := hv ▸ (tryCut_changes r .deferred s.link.node).period
  have hretry : retryDeferred r s = v.updRoom r fun x => { x with deferred := none } := by
    unfold retryDeferred
    rw [hd, hv, htry]
    rfl
  have hmade : makeCut r k k' .deferred s.link.node s = v := by rw [hv, htry]
  rw [hmade] at hcut hy
  refine ⟨hcut, ?_⟩
  obtain ⟨hroom, ⟨y', hy', hopen, _, _, hcells, _⟩, _⟩ := hcut
  obtain rfl : y = y' := Option.some.inj (hy.symm.trans hy')
  have hw : (v.updRoom r fun x => { x with deferred := none }).room r = { v.room r with deferred := none } := State.room_updRoom _ _ _
  have hstate : ((v.updRoom r fun x => { x with deferred := none }).room r).state = (s.room r).state := by
    rw [hw]; exact (congrArg Room.state hroom :)
  have hlimit : ((v.updRoom r fun x => { x with deferred := none }).room r).config.lengthLimit = (s.room r).config.lengthLimit := by
    rw [hw]; exact (congrArg (fun z : Room => z.config.lengthLimit) hroom :)
  have hslot : ((v.updRoom r fun x => { x with deferred := none }).room r).openTake = some k' := by
    rw [hw]; exact (congrArg Room.openTake hroom :)
  have hstay : retryDeferred r (v.updRoom r fun x => { x with deferred := none }) = v.updRoom r fun x => { x with deferred := none } :=
    retryDeferred_stays hslot (.inl (by rw [hw]))
  have he := closeCell_of_retried (cycle := cycle) (skipped := skipped) hc hretry hstay hstate
    (by rw [hw]; exact (congrArg Room.assembly hroom :)) hper
  have hfirst := fun h1 => closeCell_first (cycle := cycle) (skipped := skipped) (by rw [hstate]; exact hc) hstay hslot hy hopen hcells hyf
    hyl (hlimit ▸ h1)
  refine ⟨he, fun h1 => ?_, fun n rest hs h1 hfree => ?_⟩
  · rw [he, (hfirst h1).1, hw]
  · rw [he]
    exact (hfirst h1).2 n rest (hstate.trans hs) hfree

end Sys2Proof.Machine

open Sys2Proof Sys2Proof.Machine in
/-- Settles O45: the close is a store or a drop, step 5 of R10 and the room's next cell; each clause names what the store finds, and a deferred cut
that is made hands the close on to the successor. -/
theorem cellsClose : Obligations.CellsClose := by
  unfold Obligations.CellsClose
  refine ⟨fun r k t cycle s ho ht hdef => ?_, fun r k k' t cause cycle skipped s hc ho ht hd hk hf =>
    ⟨_, rfl, closeCell_retried hc ho ht hd hk hf rfl⟩⟩
  have hret : retryDeferred r s = s := retryDeferred_stays ho hdef
  have hcells : s.cellsOf k = t.cells := cellsOf_of ht
  refine ⟨fun n pg hs hl hg hlast hp hown hlen hfill => ?_, fun n pg hs hl hg hlast hp hown hlen hfill => ?_,
    fun n pg hs hl hg hd hlast hp hown hlen hfill => ?_, fun n old rest pg hs hl hlast hp hfull hfree hne hpages hslots hwf => ?_,
    fun n rest hs hl hfirst hlast hfree hpages hslots hwf => ?_, fun hs hl hfree hfull => ?_, fun hs hl => ?_, fun hs => ?_,
    fun n => ?_, fun hd => ?_⟩
  · obtain ⟨htake, hread, hbelow, hpages, hfree, hother⟩ := written_reads t ((s.room r).cellNow s.link.period) hp hown hlen
    refine ⟨closeCell cycle 0 r s, _, rfl, rfl, ?_⟩
    rw [closeCell_written hs hret ho ht hl hlast hp hfill, placeGap_zero (by rw [written_storedIn_room]; exact hg)]
    refine ⟨htake, hread, hbelow, hpages, hfree, hother, ?_⟩
    rw [State.room_updRoom, written_storedIn_room, Room.afterStored_onRecord (by exact hs)]
    simp [Room.storing, hg]
  · obtain ⟨htake, hread, -⟩ := written_reads t ((s.room r).cellNow s.link.period) hp hown hlen
    have hw := written_storedIn_room (s := s) (r := r) (k := k) (n := n) (p := t.cells) (x := t) (cell := (s.room r).cellNow s.link.period)
      (cycle := cycle) (pg := pg) (missing := (s.room r).missingNow)
    obtain ⟨hstore, hring, hplaced, hdenied⟩ := placeGap_afterStored (r := r) (k := k) (p := t.cells)
      (w := (s.written k t n pg ((s.room r).cellNow s.link.period)).storedIn r (s.room r).missingNow cycle k t.cells)
      (by rw [hw]; exact hs) (by rw [hw]; exact hg) htake
    unfold State.gapMarker at hplaced
    rw [hw] at hring hplaced hdenied
    refine ⟨closeCell cycle 0 r s, _, rfl, rfl, ?_⟩
    rw [closeCell_written hs hret ho ht hl hlast hp hfill]
    exact ⟨(readCell_of_store hstore _ _ _).trans hread, hring, hplaced, hdenied⟩
  · obtain ⟨htake, hread, -⟩ := written_reads t ((s.room r).cellNow s.link.period) hp hown hlen
    have hw := writtenIn_room (s := s) (r := r) (k := k) (n := n) (x := t) (cell := (s.room r).cellNow s.link.period) (cycle := cycle)
      (pg := pg) (missing := (s.room r).missingNow)
    obtain ⟨hend, hmade, hshort⟩ := requestCut_nextCell (source := s.link.node) (k := k)
      (w := s.writtenIn r k t n pg ((s.room r).cellNow s.link.period) (s.room r).missingNow cycle)
      (by rw [hw]; exact hs) (by rw [hw]; exact hg) (by rw [hw]; exact hd) (by rw [hw]; exact ho) htake
    rw [writtenIn_lowestFreeSlot ht, hw] at hmade hshort
    refine ⟨s.writtenIn r k t n pg ((s.room r).cellNow s.link.period) (s.room r).missingNow cycle, closeCell cycle 0 r s, _, rfl, rfl,
      htake, hread, hw, ?_⟩
    rw [closeCell_atLimit hs hret ho ht hl hg hlast hp hfill]
    exact ⟨hend, hmade, hshort⟩
  · have hn : s.needsPage t = true := needsPage_of fun q hq => by
      rw [hlast, Option.bind_some, hp] at hq; cases hq; exact hfull
    have hst := storeCell_linked (cell := (s.room r).cellNow s.link.period) ht hn hfree
    rw [linked_reserves ht hwf hpages hslots] at hst
    obtain ⟨hstore, z, hz, hzc, _, hzl, _⟩ := closeCell_below_spec (cycle := cycle) (skipped := 0) hs hret ho
      (by rw [hcells]; omega) hst linked_take (Nat.ne_of_lt hl)
    refine ⟨closeCell cycle 0 r s, _, rfl, rfl, (page_of_store hstore n).trans linked_page,
      (page_of_store hstore old).trans (linked_page_old hlast hp hne), ?_, ?_, z, hz, hzc, hzl⟩
    · rw [hstore]; rfl
    · rw [hstore]; rfl
  · have hn : s.needsPage t = true := needsPage_of fun q hq => by rw [hlast] at hq; cases hq
    have hst := storeCell_linked (cell := (s.room r).cellNow s.link.period) ht hn hfree
    rw [linked_reserves ht hwf hpages hslots] at hst
    obtain ⟨hstore, z, hz, hzc, hzf, hzl, _⟩ := closeCell_below_spec (cycle := cycle) (skipped := 0) hs hret ho
      (by rw [hcells]; omega) hst linked_take (Nat.ne_of_lt hl)
    refine ⟨closeCell cycle 0 r s, _, rfl, rfl, (page_of_store hstore n).trans linked_page, ?_, ?_, z, hz, hzc,
      hzf.trans (by rw [hfirst]; rfl), hzl⟩
    · rw [hstore]; rfl
    · rw [hstore]; rfl
  · have hrec := recordCell_noPage (missing := (s.room r).missingNow) hs (by rw [hcells]; exact hl)
      (storeCell_noPage (cell := (s.room r).cellNow s.link.period) ht (needsPage_of hfull) hfree)
    obtain ⟨htake, hrest⟩ := closeCell_dropped_spec (cycle := cycle) hs hret ho hrec rfl rfl
    exact ⟨_, rfl, (htake k).trans ht, hrest⟩
  · obtain ⟨htake, hrest⟩ := closeCell_dropped_spec (cycle := cycle) hs hret ho (recordCell_full hs (by rw [hcells]; exact hl)) rfl rfl
    exact ⟨_, rfl, (htake k).trans ht, hrest⟩
  · rw [closeCell_of (by rw [hs]; nofun) hret ho, recordCell_off hs]
    unfold afterRecord
    dsimp only
    rw [State.updRoom_updRoom, State.updRoom_updRoom]
    refine State.updRoom_congr ?_
    unfold Room.nextCell
    rw [Room.losing_offRecord (by exact hs)]
    simp [Room.entered, satAdd]
  · rw [closeCell_skipped hret ho n]
    exact State.updRoom_congr (by unfold Room.losing; rfl)
  · have hk := closeCell_keeps_deferred (cycle := cycle) (skipped := 0) hret ho hd
    exact ⟨congrArg Prod.fst hk, congrArg (fun z => z.2.1) hk, congrArg (fun z => z.2.2) hk⟩

/-! ## Pages and chains -/

namespace Sys2Proof.Machine

variable {s t u : State} {pages : SMap Page} {k n : Nat} {first last : Option Nat} {l : List Nat} {x : Take} {cell : AudioCell}
  {f : Page → Page}

/-! ### A store of a cell changes the last page, and may link one behind it -/

/-- The page table with a page changed, if it is listed. -/
def pageChanged (last : Option Nat) (f : Page → Page) (pages : SMap Page) : SMap Page :=
  match last with
  | some n => match mapGet n pages with
    | some pg => mapSet n (f pg) pages
    | none => pages
  | none => pages

/-- A page with one more cell (R29 steps 2 and 3). -/
def Page.withCell (pg : Page) (cell : AudioCell) : Page := { pg with fill := pg.fill + 1, cells := pg.cells ++ [cell] }

theorem writtenPages_eq : writtenPages pages last cell = pageChanged last (·.withCell cell) pages := rfl

theorem pageChanged_cases (last : Option Nat) (f : Page → Page) (pages : SMap Page) :
    (∃ n pg, last = some n ∧ mapGet n pages = some pg ∧ pageChanged last f pages = mapSet n (f pg) pages) ∨
      (∀ n, last = some n → mapGet n pages = none) ∧ pageChanged last f pages = pages := by
  unfold pageChanged
  rcases last with _ | n
  · exact .inr ⟨nofun, rfl⟩
  · dsimp only
    rcases h : mapGet n pages with _ | pg
    · exact .inr ⟨fun m hm => Option.some.inj hm ▸ h, rfl⟩
    · exact .inl ⟨n, pg, rfl, h, rfl⟩

theorem mapGet_pageChanged (last : Option Nat) (f : Page → Page) (pages : SMap Page) (j : Nat) :
    mapGet j (pageChanged last f pages) = if last = some j then (mapGet j pages).map f else mapGet j pages := by
  rcases pageChanged_cases last f pages with ⟨n, pg, rfl, hn, he⟩ | ⟨hn, he⟩
  · rw [he]
    by_cases hj : j = n
    · subst hj; rw [mapGet_mapSet_same, if_pos rfl, hn]; rfl
    · rw [mapGet_mapSet_ne hj, if_neg fun h => hj (Option.some.inj h).symm]
  · rw [he]
    split
    · rw [hn j ‹_›]; rfl
    · rfl

/-- Pages hold as many cells as their fills say if the changed one still does. -/
theorem pageChanged_filled {j : Nat} {pg : Page} (hf : ∀ pg, pg.cells.length = pg.fill → (f pg).cells.length = (f pg).fill)
    (h : ∀ m q, mapGet m pages = some q → q.cells.length = q.fill) (hp : mapGet j (pageChanged last f pages) = some pg) :
    pg.cells.length = pg.fill := by
  rw [mapGet_pageChanged] at hp
  split at hp
  · obtain ⟨q, hq, rfl⟩ := Option.map_eq_some_iff.1 hp
    exact hf q (h j q hq)
  · exact h j pg hp

theorem mapWf_pageChanged (h : mapWf pages) : mapWf (pageChanged last f pages) := by
  rcases pageChanged_cases last f pages with ⟨n, pg, _, _, he⟩ | ⟨_, he⟩ <;> rw [he]
  · exact mapWf_mapSet h
  · exact h

theorem mapKeys_pageChanged (h : mapWf pages) : (mapKeys (pageChanged last f pages)).Perm (mapKeys pages) := by
  rcases pageChanged_cases last f pages with ⟨n, pg, _, hn, he⟩ | ⟨_, he⟩ <;> rw [he]
  exact mapKeys_mapSet_of_some h hn

/-- A key written twice holds what was written last. -/
theorem mapSet_mapSet {α : Type} (k : Nat) (v w : α) (m : SMap α) : mapSet k v (mapSet k w m) = mapSet k v m := by
  induction m with
  | nil => simp [mapSet]
  | cons p m ih =>
    obtain ⟨k', v'⟩ := p
    by_cases hlt : k < k'
    · simp [mapSet, hlt]
    · by_cases he : k = k'
      · simp [mapSet, he]
      · simp [mapSet, hlt, he, ih]

/-! ### One slot's chain at a time -/

theorem fillOf_of {pg : Page} (h : mapGet n pages = some pg) : fillOf pages n = pg.fill := by
  unfold fillOf
  rw [h]
  rfl

theorem chainIs_first (h : chainIs pages k first l) : first = l.head? := by
  cases l with
  | nil => cases first with
    | none => rfl
    | some f => exact h.elim
  | cons m l => cases first with
    | none => exact h.elim
    | some f => obtain ⟨rfl, _⟩ := h; rfl

/-- The chains are kept when only the take of one slot and the pages that it owns have changed, and they make a chain again. -/
theorem ChainsKept.of_slot (hs : ChainsKept s)
    (hpage : ∀ n pg, pg.owner ≠ k → (u.page? n = some pg ↔ s.page? n = some pg))
    (htake : ∀ j, j ≠ k → u.take? j = s.take? j)
    (hchain : ∀ x, u.take? k = some x → ∃ l, chainOf u.store.pages k x l)
    (hown : ∀ n pg, u.page? n = some pg → pg.owner = k → (u.take? k).isSome = true ∧ pg.cells.length = pg.fill) : ChainsKept u := by
  refine ⟨fun j y hy => ?_, fun n pg hn => ?_⟩
  · by_cases hj : j = k
    · subst hj; exact hchain y hy
    · rw [htake j hj] at hy
      obtain ⟨l, hl⟩ := hs.1 j y hy
      exact ⟨l, chainOf_other (fun n pg ho => hpage n pg (by rw [ho]; exact hj)) hl⟩
  · by_cases hk : pg.owner = k
    · rw [hk]; exact hown n pg hn hk
    · rw [htake _ hk]; exact hs.2 n pg ((hpage n pg hk).1 hn)

/-! ### A take that is freed -/

/-- Once a take's chain is out of the page table the other takes' chains stand as before (R34). -/
theorem ChainsKept.freed (hs : ChainsKept s) (hl : chainOf s.store.pages k x l)
    (hpages : u.store.pages = l.foldl (fun m n => mapErase n m) s.store.pages)
    (htakes : u.takeTable.takes = mapErase k s.takeTable.takes) : ChainsKept u := by
  obtain ⟨hc, _, _, howned, _⟩ := hl
  have hread : ∀ n, u.page? n = if n ∈ l then none else s.page? n := fun n => by
    unfold State.page?; rw [hpages, mapGet_erased]
  have hk : u.take? k = none := by unfold State.take?; rw [htakes]; exact mapGet_mapErase_same
  refine hs.of_slot (k := k) (fun n pg ho => ?_) (fun j hj => ?_) (fun y hy => ?_) (fun n pg hn ho => ?_)
  · rw [hread]
    split
    · rename_i hn
      obtain ⟨q, hq, hqo⟩ := chainIs_mem hc hn
      refine ⟨nofun, fun hp => absurd hqo ?_⟩
      obtain rfl : q = pg := Option.some.inj (hq.symm.trans hp)
      exact ho
    · exact .rfl
  · unfold State.take?; rw [htakes]; exact mapGet_mapErase_ne hj
  · rw [hk] at hy; cases hy
  · rw [hread] at hn
    split at hn
    · cases hn
    · exact absurd (howned n pg hn ho) ‹_›

theorem PagesKept.freed (hs : PagesKept s) (h : s.take? k = some x) : PagesKept (s.freed k x) := by
  obtain ⟨hw, hp, hc⟩ := hs
  obtain ⟨l, hl⟩ := hc.1 k x h
  have hst : (s.freed k x).store = { s.store with
      pages := l.foldl (fun m n => mapErase n m) s.store.pages, freePages := s.store.freePages ++ l } :=
    freeChain_spec hl.1 hl.2.1 (chain_len hl)
  have hkeys := erased_keys l hl.2.1 hw fun m hm => by
    obtain ⟨pg, hpg, _⟩ := chainIs_mem hl.1 hm
    exact key_of_get hpg
  refine ⟨?_, ?_, hc.freed hl (by rw [hst]) rfl⟩ <;> rw [hst]
  · exact mapWf_erased l hw
  · dsimp only
    rw [List.append_assoc]
    exact (hkeys.append_left _).trans hp

/-! ### A take that opens -/

theorem PagesKept.opened (hs : PagesKept s) (h : s.take? k = none) (hx : x.chain = (none, none, 0)) : PagesKept (s.setTake k x) := by
  obtain ⟨hw, hp, hc⟩ := hs
  simp only [Take.chain, Prod.mk.injEq] at hx
  obtain ⟨hf, hl, hn⟩ := hx
  have hno : ∀ n pg, s.page? n = some pg → pg.owner ≠ k := fun n pg hn ho => by
    have hlive := (hc.2 n pg hn).1
    rw [ho, h] at hlive
    cases hlive
  refine ⟨hw, hp, hc.of_slot (k := k) (fun _ _ _ => .rfl) (fun j hj => mapGet_mapSet_ne hj) (fun y hy => ⟨[], ?_⟩)
    (fun n pg hn ho => absurd ho (hno n pg hn))⟩
  obtain rfl : x = y := Option.some.inj (mapGet_mapSet_same.symm.trans hy)
  exact ⟨by rw [hf]; trivial, .nil, hl, fun n pg hn ho => absurd ho (hno n pg hn), nofun, nofun, hn⟩

/-! ### A cell stored -/

/-- The last page of a take that needs no page has room. -/
theorem lastPage_of_needsPage_false (h : s.needsPage x = false) :
    ∃ n pg, x.lastPage = some n ∧ s.page? n = some pg ∧ pg.fill < 256 := by
  unfold State.needsPage at h
  rcases hb : x.lastPage.bind s.page? with _ | pg
  · rw [hb] at h; cases h
  · obtain ⟨n, hn, hp⟩ := Option.bind_eq_some_iff.1 hb
    rw [hb] at h
    exact ⟨n, pg, hn, hp, Nat.lt_of_not_le (of_decide_eq_false h)⟩

/-- What a chain says of its last page: it stands at the end, once. -/
theorem chainOf_last (h : chainOf pages k x l) (hl : x.lastPage = some n) : ∃ l', l = l' ++ [n] ∧ n ∉ l' := by
  obtain ⟨_, hd, hlast, _⟩ := h
  obtain ⟨l', rfl⟩ := List.getLast?_eq_some_iff.1 (hlast.symm.trans hl)
  exact ⟨l', rfl, fun hn => (List.nodup_append.1 hd).2.2 n hn n (by simp) rfl⟩

theorem fillOf_pageChanged_ne {m : Nat} (h : last ≠ some m) : fillOf (pageChanged last f pages) m = fillOf pages m := by
  unfold fillOf
  rw [mapGet_pageChanged, if_neg h]

theorem fillOf_withCell {pg : Page} (hp : mapGet n pages = some pg) :
    fillOf (pageChanged (some n) (·.withCell cell) pages) n = fillOf pages n + 1 := by
  rw [fillOf_of hp, fillOf_of (pg := pg.withCell cell) (by rw [mapGet_pageChanged, if_pos rfl, hp]; rfl)]
  rfl

/-- A chain whose last page takes a cell is the same chain with one cell more (R29 steps 2 and 3). -/
theorem chainOf_written (h : chainOf pages k x l) (hl : x.lastPage = some n) {pg : Page} (hp : mapGet n pages = some pg)
    (hf : pg.fill < 256) : chainOf (pageChanged (some n) (·.withCell cell) pages) k { x with cells := x.cells + 1 } l := by
  obtain ⟨l', rfl, hn⟩ := chainOf_last h hl
  obtain ⟨hc, hd, hlast, hown, hfull, hfill, hcells⟩ := h
  have hfills : ∀ m ∈ l', fillOf (pageChanged (some n) (·.withCell cell) pages) m = fillOf pages m := fun m hm =>
    fillOf_pageChanged_ne fun h => hn (Option.some.inj h ▸ hm)
  have hfilln := fillOf_withCell (cell := cell) hp
  refine ⟨chainIs_congr (fun m _ q hq => ?_) hc, hd, hlast, fun m q hq ho => ?_, fun m hm => ?_, fun m hm => ?_, ?_⟩
  · rw [mapGet_pageChanged, hq]
    split
    · exact ⟨_, rfl, rfl, rfl⟩
    · exact ⟨_, rfl, rfl, rfl⟩
  · rw [mapGet_pageChanged] at hq
    split at hq
    · obtain rfl : n = m := Option.some.inj ‹_›
      simp
    · exact hown m q hq ho
  · rw [List.dropLast_concat] at hm hfull
    rw [hfills m hm]; exact hfull m hm
  · rcases List.mem_append.1 hm with hm | hm
    · rw [hfills m hm]; exact hfill m (List.mem_append_left _ hm)
    · obtain rfl : m = n := List.mem_singleton.1 hm
      rw [hfilln, fillOf_of hp]; omega
  · simp only [List.map_append, List.map_congr_left hfills, List.map_singleton, hfilln, List.sum_append, List.sum_singleton] at hcells ⊢
    omega

/-! ### A page linked -/

/-- A page with the next page of its chain (R29 step 1). -/
def Page.linkedTo (n : Nat) (pg : Page) : Page := { pg with next := some n }

/-- The page table once page `n` is linked behind a last page of slot `k` and holds one cell. -/
def extendedPages (pages : SMap Page) (k n : Nat) (last : Option Nat) (cell : AudioCell) : SMap Page :=
  mapSet n { next := none, fill := 1, owner := k, cells := [cell] } (pageChanged last (Page.linkedTo n) pages)

theorem linked_store_pages (s : State) (k n : Nat) (rest : List Nat) (x : Take) (cell : AudioCell) :
    (s.linked k n rest x cell).store.pages = extendedPages s.store.pages k n x.lastPage cell :=
  mapSet_mapSet n _ _ _

theorem mapGet_extendedPages_new :
    mapGet n (extendedPages pages k n last cell) = some { next := none, fill := 1, owner := k, cells := [cell] } := mapGet_mapSet_same

theorem mapGet_extendedPages {m : Nat} (h : m ≠ n) :
    mapGet m (extendedPages pages k n last cell) = mapGet m (pageChanged last (Page.linkedTo n) pages) := mapGet_mapSet_ne h

theorem fillOf_extendedPages {m : Nat} (h : m ≠ n) : fillOf (extendedPages pages k n last cell) m = fillOf pages m := by
  unfold fillOf
  rw [mapGet_extendedPages h, mapGet_pageChanged]
  split
  · rw [Option.map_map]; rfl
  · rfl

/-- The keys of the page table with the page that was free. -/
theorem mapKeys_extendedPages (hw : mapWf pages) (hn : n ∉ mapKeys pages) :
    (mapKeys (extendedPages pages k n last cell)).Perm (n :: mapKeys pages) := by
  have hkeys : (mapKeys (pageChanged last (Page.linkedTo n) pages)).Perm (mapKeys pages) := mapKeys_pageChanged hw
  exact (mapKeys_mapSet_of_none (mapWf_pageChanged hw) (mapGet_eq_none_iff.2 fun h => hn (hkeys.mem_iff.1 h))).trans (hkeys.cons n)

/-- The new page stands behind the chain (R27, R29). -/
theorem chainIs_extended (hc : chainIs pages k first l) (hd : l.Nodup) (hn : n ∉ mapKeys pages) :
    chainIs (extendedPages pages k n l.getLast? cell) k (some (first.getD n)) (l ++ [n]) := by
  have happ := chainIs_append (n := n) (pages' := extendedPages pages k n l.getLast? cell) hc hd mapGet_extendedPages_new rfl rfl
    fun m _ q hq => by
      have hm : m ≠ n := fun h => hn (h ▸ key_of_get hq)
      rw [mapGet_extendedPages hm, mapGet_pageChanged, hq]
      split
      · exact ⟨_, rfl, rfl, rfl⟩
      · exact ⟨_, rfl, rfl, rfl⟩
  have hfirst := chainIs_first hc
  cases l with
  | nil => rw [hfirst]; exact happ
  | cons a l => rw [hfirst] at happ ⊢; exact happ

/-- A chain of full pages followed by a page that was free, with one cell in it (R29). -/
theorem chainOf_extended (h : chainOf pages k x l) (hfull : ∀ m ∈ l, fillOf pages m = 256) (hn : n ∉ mapKeys pages) :
    chainOf (extendedPages pages k n x.lastPage cell) k
      { x with firstPage := some (x.firstPage.getD n), lastPage := some n, cells := x.cells + 1 } (l ++ [n]) := by
  obtain ⟨hc, hd, hlast, hown, _, _, hcells⟩ := h
  have hnl : n ∉ l := fun h => by
    obtain ⟨q, hq, _⟩ := chainIs_mem hc h
    exact hn (key_of_get hq)
  have hfills : ∀ m ∈ l, fillOf (extendedPages pages k n x.lastPage cell) m = fillOf pages m := fun m hm =>
    fillOf_extendedPages fun h => hnl (h ▸ hm)
  have hfilln : fillOf (extendedPages pages k n x.lastPage cell) n = 1 := fillOf_of mapGet_extendedPages_new
  refine ⟨by rw [hlast]; exact chainIs_extended hc hd hn, ?_, by simp, fun m q hq ho => ?_, fun m hm => ?_, fun m hm => ?_, ?_⟩
  · exact List.nodup_append.2 ⟨hd, List.nodup_singleton n, fun a ha b hb h => hnl (List.mem_singleton.1 hb ▸ h ▸ ha)⟩
  · by_cases hm : m = n
    · simp [hm]
    · rw [mapGet_extendedPages hm, mapGet_pageChanged] at hq
      refine List.mem_append_left _ ?_
      split at hq
      · exact List.mem_of_getLast? (hlast.symm.trans ‹_›)
      · exact hown m q hq ho
  · rw [List.dropLast_concat] at hm
    rw [hfills m hm]; exact hfull m hm
  · rcases List.mem_append.1 hm with hm | hm
    · rw [hfills m hm, hfull m hm]; omega
    · obtain rfl : m = n := List.mem_singleton.1 hm
      rw [hfilln]; omega
  · simp only [List.map_append, List.map_congr_left hfills, List.map_singleton, hfilln, List.sum_append, List.sum_singleton, hcells]

/-! ### A cell stored: the invariant -/

/-- Only the pages of slot `k` read differently once the last page of a chain of `k` is changed and keeps its owner. -/
theorem mapGet_pageChanged_other (h : chainOf pages k x l) (hf : ∀ pg, (f pg).owner = pg.owner) {j : Nat} {pg : Page}
    (hp : pg.owner ≠ k) : mapGet j (pageChanged x.lastPage f pages) = some pg ↔ mapGet j pages = some pg := by
  rw [mapGet_pageChanged]
  split
  · rename_i hj
    obtain ⟨hc, _, hlast, _⟩ := h
    obtain ⟨q, hq, ho⟩ := chainIs_mem hc (List.mem_of_getLast? (hlast.symm.trans hj))
    rw [hq, Option.map_some, Option.some.injEq, Option.some.injEq]
    exact ⟨fun h => absurd (h ▸ (hf q).trans ho) hp, fun h => absurd (h ▸ ho) hp⟩
  · exact .rfl

theorem PagesKept.written (hs : PagesKept s) (h : s.take? k = some x) (hn : s.needsPage x = false) :
    PagesKept (writeCell k cell s) := by
  obtain ⟨hw, hperm, hc⟩ := hs
  obtain ⟨l, hchain⟩ := hc.1 k x h
  obtain ⟨n, pg, hl, hp, hf⟩ := lastPage_of_needsPage_false hn
  rw [writeCell_eq cell h, writtenPages_eq]
  have hkeys := (mapKeys_pageChanged (last := x.lastPage) (f := (·.withCell cell)) hw).append_left s.store.freePages
  refine ⟨mapWf_pageChanged hw, hkeys.trans hperm, hc.of_slot (k := k) (fun m q ho => ?_) (fun j hj => mapGet_mapSet_ne hj)
    (fun y hy => ⟨l, ?_⟩) fun m q hq _ => ⟨?_, ?_⟩⟩
  · exact mapGet_pageChanged_other (f := (·.withCell cell)) hchain (fun _ => rfl) ho
  · obtain rfl : { x with cells := x.cells + 1 } = y := Option.some.inj (mapGet_mapSet_same.symm.trans hy)
    have hz := chainOf_written (cell := cell) hchain hl hp hf
    rw [← hl] at hz
    exact hz
  · exact congrArg Option.isSome mapGet_mapSet_same
  · exact pageChanged_filled (f := (·.withCell cell)) (fun q hq => by simp [Page.withCell, hq]) (fun m q hq => (hc.2 m q hq).2) hq

/-- The pages of a take that needs one are full (R29). -/
theorem full_of_needsPage (h : chainOf s.store.pages k x l) (hn : s.needsPage x = true) : ∀ m ∈ l, fillOf s.store.pages m = 256 := by
  obtain ⟨hc, _, hlast, _, hfull, hfill, _⟩ := h
  intro m hm
  by_cases hl : some m = l.getLast?
  · have hp := hlast.trans hl.symm
    obtain ⟨pg, hpg, _⟩ := chainIs_mem hc hm
    have hroom : 256 ≤ pg.fill := by
      have hpage : s.page? m = some pg := hpg
      unfold State.needsPage at hn
      rw [hp, Option.bind_some, hpage] at hn
      exact of_decide_eq_true hn
    have hle := (hfill m hm).2
    rw [fillOf_of hpg] at hle ⊢
    omega
  · exact hfull m (List.mem_dropLast_of_mem_of_ne_getLast? hm hl)

theorem PagesKept.linked {rest : List Nat} (hs : PagesKept s) (h : s.take? k = some x) (hn : s.needsPage x = true)
    (hf : s.store.freePages = n :: rest) : PagesKept (s.linked k n rest x cell) := by
  obtain ⟨hw, hperm, hc⟩ := hs
  obtain ⟨l, hchain⟩ := hc.1 k x h
  have hfree : n ∉ mapKeys s.store.pages := fun hm => by
    have hd := hperm.nodup_iff.2 List.nodup_range
    rw [hf] at hd
    exact (List.nodup_cons.1 hd).1 (List.mem_append_right _ hm)
  have hpages := linked_store_pages s k n rest x cell
  have hold : ∀ m, m ≠ n → (s.linked k n rest x cell).page? m = mapGet m (pageChanged x.lastPage (Page.linkedTo n) s.store.pages) :=
    fun m hm => (congrArg (mapGet m) hpages).trans (mapGet_extendedPages hm)
  have hnew : (s.linked k n rest x cell).page? n = some { next := none, fill := 1, owner := k, cells := [cell] } := linked_page
  refine ⟨?_, ?_, hc.of_slot (k := k) (fun m q ho => ?_) (fun j hj => (mapGet_mapSet_ne hj).trans (mapGet_mapSet_ne hj))
    (fun y hy => ⟨l ++ [n], ?_⟩) fun m q hq _ => ⟨by rw [linked_take]; rfl, ?_⟩⟩
  · rw [hpages]; exact mapWf_mapSet (mapWf_pageChanged hw)
  · have hkeys := (mapKeys_extendedPages (k := k) (last := x.lastPage) (cell := cell) hw hfree).append_left rest
    rw [hpages]
    refine (hkeys.trans ?_).trans hperm
    rw [hf]
    exact List.perm_middle
  · by_cases hm : m = n
    · subst hm
      rw [hnew]
      refine ⟨fun h => absurd ?_ ho, fun h => absurd (key_of_get h) hfree⟩
      rw [← Option.some.inj h]
    · rw [hold m hm]; exact mapGet_pageChanged_other (f := Page.linkedTo n) hchain (fun _ => rfl) ho
  · obtain rfl := Option.some.inj (linked_take.symm.trans hy)
    rw [hpages]
    exact chainOf_extended hchain (full_of_needsPage hchain hn) hfree
  · by_cases hm : m = n
    · subst hm
      obtain rfl := Option.some.inj (hnew.symm.trans hq)
      rfl
    · rw [hold m hm] at hq
      exact pageChanged_filled (f := Page.linkedTo n) (fun _ h => h) (fun m q hq => (hc.2 m q hq).2) hq

/-! ### Every kind of change -/

/-- The pages are kept where the page store's pages and every live take's chain are the same. -/
theorem PagesKept.of_same (hs : PagesKept s) (hn : t.store.pageCount = s.store.pageCount) (hp : t.store.pages = s.store.pages)
    (hf : t.store.freePages = s.store.freePages) (ht : ∀ j, (t.take? j).map Take.chain = (s.take? j).map Take.chain) :
    PagesKept t := by
  obtain ⟨hw, hperm, hc⟩ := hs
  exact ⟨by rw [hp]; exact hw, by rw [hp, hf, hn]; exact hperm, chains_take hp ht hc⟩

/-- A take's record written anew with the same chain. -/
theorem setTake_chains {y : Take} (h : s.take? k = some x) (hc : y.chain = x.chain) (j : Nat) :
    ((s.setTake k y).take? j).map Take.chain = (s.take? j).map Take.chain := by
  by_cases hj : j = k
  · subst hj; rw [setTake_take, h, Option.map_some, Option.map_some, hc]
  · rw [setTake_take_ne _ _ hj]

theorem Change.pagesKept (hc : Change s t) (hs : PagesKept s) : PagesKept t := by
  cases hc with
  | quiet _ hq =>
    have htakes : t.takeTable.takes = s.takeTable.takes := congrArg Shape.takes hq
    exact hs.of_same (congrArg Shape.pageCount hq) (congrArg Shape.pages hq) (congrArg Shape.freePages hq) fun j => by
      unfold State.take?; rw [htakes]
  | moved e x _ _ =>
    have hstore : (moveContext e x s).store = s.store :=
      moveContext_keeps (g := State.store) (fun _ _ _ => rfl) (fun _ _ _ => rfl) e x s
    exact hs.of_same (by rw [hstore]) (by rw [hstore]) (by rw [hstore]) fun j => by
      rw [moveContext_take, Option.map_map]; rfl
  | take k x y h _ _ hy _ => exact hs.of_same rfl rfl rfl (setTake_chains h hy)
  | place k x m h _ => exact hs.of_same rfl rfl rfl (setTake_chains (y := x.withMarker m) h rfl)
  | opened k x h _ _ _ hx _ => exact hs.opened h hx
  | freed k x h _ => exact hs.freed h
  | linked k n rest x cell h hf hn => rw [storeLinked_eq]; exact hs.linked h hn hf
  | wrote k x cell h hn => exact hs.written h hn
  | port p f _ => cases p <;> exact hs.of_same rfl rfl rfl fun _ => rfl
  | room _ _ _ _ => exact hs
  | station _ _ _ => exact hs
  | manager _ _ => exact hs
  | context _ _ _ _ => exact hs

theorem Move.pagesKept (hm : Move s t) (h : PagesKept s) : PagesKept t := by
  cases hm with
  | change _ hc => exact hc.pagesKept h
  | _ => exact h

/-- After reset every page is free and no take is live (R28, R41). -/
theorem afterReset_pagesKept (straps : Straps) (clock : Calendar) (l : List Instr) : PagesKept (State.afterReset straps clock l) := by
  have hpages : (State.afterReset straps clock l).store.pages = [] := rfl
  have htakes : (State.afterReset straps clock l).takeTable.takes = [] := rfl
  refine ⟨?_, ?_, fun k x hk => ?_, fun n pg hn => ?_⟩
  · rw [hpages]; exact .nil
  · rw [hpages]; exact .of_eq (List.append_nil _)
  · unfold State.take? at hk; rw [htakes] at hk; cases hk
  · unfold State.page? at hn; rw [hpages] at hn; cases hn

end Sys2Proof.Machine

/-- Settles O51: a store extends or fills one take's chain, a free returns one chain's pages, and every other change leaves the pages and the
chains as they are. -/
theorem pagesStayKept : Obligations.PagesStayKept := fun _ _ hs h =>
  Sys2Proof.Machine.step_keeps (fun _ _ hm => hm.pagesKept) (fun _ _ h => h)
    (fun s straps clock _ _ => Sys2Proof.Machine.afterReset_pagesKept straps clock s.pending) hs h

/-! ## Power and reset -/

namespace Sys2Proof.Machine

variable {s : State} {straps : Straps} {clock : Calendar} {l : List Instr}

/-- Without main power every command but a power-on, a tick arrival and a loss of power leaves the state alone (R154, log 7). -/
theorem exec_unpowered (i : Instr) (h : s.power ≠ .on) (hi : worksUnpowered i = false) : exec i s = .next s := by
  cases i with
  | powerOnReset _ _ => cases hi
  | tickArrival => cases hi
  | mainPowerLoss _ => cases hi
  | frameArrival _ _ _ => exact if_pos h
  | _ => exact congrArg Host.Outcome.next (if_neg h)

theorem strapNode_ne_zero (b : Byte) : strapNode b ≠ 0 := by
  unfold strapNode
  split
  · decide
  · rename_i h
    exact fun h0 => h (.inl h0)

/-- An unused entry of the manager list is sent no alert (R193). -/
theorem alertManager_unused {a : Alert} {m : Manager} (h : m.node = 0) : alertManager a m s = s := if_pos h

/-- The manager list after reset: the bootstrap manager and three unused entries (R184). -/
theorem resetManagers_toList (mgr : Byte) :
    (resetManagers mgr).toList = [⟨mgr, .office⟩, ⟨0, .office⟩, ⟨0, .office⟩, ⟨0, .office⟩] := rfl

/-- One ALERT notice to a manager last heard on the Office Port, whose originate list has room (R171, R193). -/
theorem alertManager_office {a : Alert} {node : Byte} (hn : node ≠ 0) (hl : s.link.officePort.originate.length < 512) :
    alertManager a ⟨node, .office⟩ s = { s with
      link := { s.link with
        officePort := { s.link.officePort with
          originate := s.link.officePort.originate ++
            [⟨s.link.nextSerial, mkFrame node s.link.node kindNotice (alertPayload a s.mgmt.latches s.clock.stamp)⟩] }
        nextSerial := s.link.nextSerial + 1 }
      mgmt := { s.mgmt with counters := { s.mgmt.counters with alertNotices := s.mgmt.counters.alertNotices + 1 } } } :=
  (if_neg hn).trans (congrArg (State.countMgmt · fun k => { k with alertNotices := k.alertNotices + 1 }) (if_pos hl))

/-- CLOCK_UNSET reported right after the reset values goes to the bootstrap manager alone (R184, R193). -/
theorem reportIfUnset_afterReset_unset (h : clock.validity = .unset) :
    reportIfUnset (State.afterReset straps clock l) = resetUnset straps clock l := by
  have hunset : (State.afterReset straps clock l).clock.validity = .unset := h
  have hclear : ¬ (State.afterReset straps clock l).latched .clockUnset = true := by
    change ¬ (0#11).getLsbD _ = true
    decide
  have hlatch : (State.afterReset straps clock l).mgmt.latches ||| alertBit .clockUnset = alertBit .clockUnset := by
    change 0#11 ||| alertBit .clockUnset = alertBit .clockUnset
    decide
  unfold reportIfUnset reportAlert
  rw [if_pos hunset, if_neg hclear, hlatch]
  change forEach (resetManagers (strapNode straps.mgr)).toList _ _ = _
  rw [resetManagers_toList]
  simp only [forEach, List.foldl_cons, List.foldl_nil]
  rw [alertManager_unused rfl, alertManager_unused rfl, alertManager_unused rfl,
    alertManager_office (strapNode_ne_zero _) (by exact Nat.zero_lt_succ _)]
  rfl

theorem reportIfUnset_set (h : s.clock.validity = .set) : reportIfUnset s = s := if_neg (by rw [h]; nofun)

theorem powerOnClock_held (h : s.power ≠ .dead) : s.powerOnClock true = { s.clock with outage := .held } := if_pos ⟨h, rfl⟩

theorem powerOnClock_lost {held : Bool} (h : held = false ∨ s.power = .dead) : s.powerOnClock held = lostCalendar :=
  if_neg fun ⟨hp, hh⟩ => h.elim (fun h => by rw [h] at hh; cases hh) hp

theorem exec_powerOnReset (straps : Straps) (held : Bool) (s : State) : exec (.powerOnReset straps held) s =
    .next (reportIfUnset (State.afterReset straps (s.powerOnClock held) s.pending)) := rfl

theorem exec_hardReset_on (straps : Straps) (h : s.power = .on) :
    exec (.hardReset straps) s = .next (reportIfUnset (State.afterReset straps s.clock s.pending)) :=
  congrArg Host.Outcome.next (if_pos h)

end Sys2Proof.Machine

open Sys2Proof Sys2Proof.Machine in
/-- Settles O21: a reset is the reset values with CLOCK_UNSET reported when the clock they keep is UNSET, and a command's own part runs only
while main power is present. -/
theorem powerAndResetComplete : Obligations.PowerAndResetComplete := by
  unfold Obligations.PowerAndResetComplete
  refine ⟨fun straps s => ⟨fun hp hv => ?_, fun hp hv => ?_, fun held hl => ?_, fun hp => ⟨fun hv => ?_, fun hv => ?_⟩, fun _ => rfl⟩,
    fun i s hp hi => exec_unpowered i hp hi⟩
  · rw [exec_powerOnReset, powerOnClock_held hp, reportIfUnset_set (by exact hv)]
  · rw [exec_powerOnReset, powerOnClock_held hp, reportIfUnset_afterReset_unset (by exact hv)]
  · rw [exec_powerOnReset, powerOnClock_lost hl, reportIfUnset_afterReset_unset rfl]
    exact ⟨_, rfl, rfl, rfl, rfl, rfl, rfl, rfl, rfl, rfl, rfl, rfl, rfl, rfl⟩
  · rw [exec_hardReset_on straps hp, reportIfUnset_set (by exact hv)]
  · rw [exec_hardReset_on straps hp, reportIfUnset_afterReset_unset hv]

/-! ## The reset state -/

namespace Sys2Proof.Machine

variable {straps : Straps} {clock : Calendar} {l : List Instr}

theorem afterReset_context (e : StationId) : (State.afterReset straps clock l).context e = stoppedContext defaultMix := by
  simp [State.context, State.afterReset, resetPlayback]

theorem afterReset_take (k : Nat) : (State.afterReset straps clock l).take? k = none := rfl

/-- Every marker entry is free after reset (R66). -/
theorem afterReset_markersKept (straps : Straps) (clock : Calendar) (l : List Instr) :
    MarkersKept (State.afterReset straps clock l) := by
  have htakes : (State.afterReset straps clock l).takeTable.takes = [] := rfl
  unfold MarkersKept State.placedMarkers
  rw [htakes]
  exact ⟨.nil, nofun, rfl⟩

theorem afterReset_listsOrdered (straps : Straps) (clock : Calendar) (l : List Instr) :
    ListsOrdered (State.afterReset straps clock l) := by
  have htakes : (State.afterReset straps clock l).takeTable.takes = [] := rfl
  intro x hx
  rw [htakes] at hx
  cases hx

/-- Every context is STOPPED after reset (R150). -/
theorem afterReset_contextsCoherent (straps : Straps) (clock : Calendar) (l : List Instr) :
    ContextsCoherent (State.afterReset straps clock l) := fun e => by
  rw [afterReset_context]
  simp [Context.coherent, stoppedContext]

theorem afterReset_pinsKept (straps : Straps) (clock : Calendar) (l : List Instr) : PinsKept (State.afterReset straps clock l) :=
  ⟨fun e k h => (by rw [afterReset_context] at h; cases h), fun k t h => (by rw [afterReset_take] at h; cases h)⟩

/-- State.reset is the reset values but for the one notice that waits and its latch (R193). -/
theorem reset_withinCapacity : WithinCapacity State.reset :=
  have ⟨hcapture, _, hrings⟩ := afterReset_withinCapacity resetStraps lostCalendar []
  have hlen : State.reset.link.officePort.originate.length = 1 := rfl
  ⟨hcapture, ⟨by rw [hlen]; decide, Nat.zero_le _, Nat.zero_le _⟩, hrings⟩

end Sys2Proof.Machine

open Sys2Proof Sys2Proof.Machine in
/-- Settles O57: the reset values satisfy each invariant, and the notice of CLOCK_UNSET that waits at State.reset disturbs none. -/
theorem resetSatisfiesTheInvariants : Obligations.ResetSatisfiesTheInvariants := by
  unfold Obligations.ResetSatisfiesTheInvariants
  exact ⟨afterReset_pagesKept resetStraps lostCalendar [], afterReset_markersKept resetStraps lostCalendar [],
    afterReset_listsOrdered resetStraps lostCalendar [], afterReset_contextsCoherent resetStraps lostCalendar [],
    afterReset_pinsKept resetStraps lostCalendar [], reset_withinCapacity, afterReset_tablesInRange resetStraps lostCalendar [],
    by show lostCalendar.legal; decide⟩

/-! ## What writes the configuration -/

namespace Sys2Proof.Machine

variable {w o : Bool} {s t u : State} {c : Ctl}

/-- The node address and the page count stay (R26, R166); the tables stay unless `w` is set, the operating state unless `o` is. -/
structure Configured (w o : Bool) (s t : State) : Prop where
  node : t.link.node = s.link.node
  pages : t.store.pageCount = s.store.pageCount
  tables : w = false → t.tables = s.tables
  op : o = false → t.mgmt.op = s.mgmt.op

theorem Configured.refl : Configured w o s s := ⟨rfl, rfl, fun _ => rfl, fun _ => rfl⟩

theorem Configured.trans (h : Configured w o s t) (h' : Configured w o t u) : Configured w o s u :=
  ⟨h'.node.trans h.node, h'.pages.trans h.pages, fun hw => (h'.tables hw).trans (h.tables hw), fun ho => (h'.op ho).trans (h.op ho)⟩

/-! ### Changes -/

theorem freeChain_pageCount (n : Nat) (first : Option Nat) (st : Store) : (freeChain n first st).pageCount = st.pageCount := by
  induction n generalizing first st with
  | zero => rfl
  | succ n ih =>
    cases first with
    | none => rfl
    | some f =>
      rw [freeChain]
      split
      · rfl
      · exact ih _ _

/-- The node address, the page count and the status items: what `SameTables` and `State.standing` leave of the configuration. -/
def State.fixtures (s : State) : Byte × Nat × Vector StatusItem 16 := (s.link.node, s.store.pageCount, s.mgmt.statusItems)

theorem Change.fixtures (h : Change s t) : t.fixtures = s.fixtures := by
  cases h with
  | quiet _ hq =>
    exact congrArg₂ Prod.mk (congrArg Shape.node hq) (congrArg₂ Prod.mk (congrArg Shape.pageCount hq) (congrArg Shape.statusItems hq))
  | moved e x _ _ => exact moveContext_keeps (g := State.fixtures) (fun _ _ _ => rfl) (fun _ _ _ => rfl) e x s
  | port p f _ => cases p <;> rfl
  | linked k n rest t cell _ _ _ => rw [storeLinked_eq]; rfl
  | wrote k t cell ht _ => rw [writeCell_eq cell ht]; rfl
  | freed k t _ _ => exact congrArg (fun n => (s.link.node, n, s.mgmt.statusItems)) (freeChain_pageCount _ _ _)
  | room _ _ _ _ => rfl
  | station _ _ _ => rfl
  | manager _ _ => rfl
  | context _ _ _ _ => rfl
  | take _ _ _ _ _ _ _ _ => rfl
  | place _ _ _ _ _ => rfl
  | opened _ _ _ _ _ _ _ _ => rfl

theorem Changes.fixtures (h : Changes s t) : t.fixtures = s.fixtures := by
  unfold Changes at h
  induction h with
  | refl => rfl
  | tail _ hc ih => exact hc.fixtures.trans ih

/-- Two vectors whose entries agree in one part agree in the list of that part. -/
theorem map_toList_congr {α β : Type} {n : Nat} {v x : Vector α n} {f : α → β} (h : ∀ i : Fin n, f v[i] = f x[i]) :
    v.toList.map f = x.toList.map f := by
  refine List.ext_getElem (by simp) fun i hi _ => ?_
  have hn : i < n := by simpa using hi
  simpa using h ⟨i, hn⟩

/-- No chain of changes writes a configuration table, the operating state, the node address or the page count. -/
theorem Changes.configured (h : Changes s t) : Configured w o s t := by
  have hf := h.fixtures
  have hs := h.sameTables
  simp only [State.fixtures, Prod.mk.injEq] at hf
  obtain ⟨hnode, hpages, hitems⟩ := hf
  refine ⟨hnode, hpages, fun _ => ?_, fun _ => h.op⟩
  have hrooms : t.rooms.toList.map Room.config = s.rooms.toList.map Room.config := map_toList_congr hs.room
  have hstations : t.handOff.stations.toList.map Station.config = s.handOff.stations.toList.map Station.config :=
    map_toList_congr hs.station
  have hmanagers : t.mgmt.managers.toList.map Manager.node = s.mgmt.managers.toList.map Manager.node := map_toList_congr hs.manager
  unfold State.tables
  rw [hrooms, hstations, hs.ingest, hs.schedule, hitems, hmanagers, h.period, hs.reserve, hs.timeouts]

theorem configuredChain : Chain (Configured w o) := ⟨Changes.configured, .trans⟩

theorem NextBy.configured {x : Host.Outcome State Fault Refusal} (h : NextBy Changes s x) : NextBy (Configured w o) s x := by
  obtain ⟨t, rfl, hc⟩ := h
  exact nextBy hc.configured

/-! ### The commands that write clock, power, operating state or tables -/

theorem takeTick_configured : Configured w o s (takeTick s) := by
  have htick : ∀ x : Calendar, Configured w o s { s with clock := x } := fun _ => ⟨rfl, rfl, fun _ => rfl, fun _ => rfl⟩
  unfold takeTick
  split
  · exact (htick _).trans (Changes.configured ((tickStations_changes.trans tickLinkAndStatus_changes).trans
      (ifThen_changes secondUpdate_changes)))
  · exact htick _
  · exact .refl

theorem execSetClock_configured (c : Ctl) (f : ClockFields) : NextBy (Configured w o) s (execSetClock c f s) := by
  refine nextBy (managerCommand_chain configuredChain c _ fun s => ?_)
  split
  · exact .trans (t := { s with clock := clockFieldsCalendar f }) ⟨rfl, rfl, fun _ => rfl, fun _ => rfl⟩
      (respond_changes _ _ _ _).configured
  · exact (respond_changes _ _ _ _).configured

/-- RUN and HALT write the operating state alone (R188, R189). -/
theorem op_configured (x : OpState) : Configured w true s { s with mgmt := { s.mgmt with op := x } } :=
  ⟨rfl, rfl, fun _ => rfl, nofun⟩

theorem execRun_configured (c : Ctl) : NextBy (Configured w true) s (execRun c s) := by
  refine nextBy (managerCommand_chain configuredChain c _ fun s => ?_)
  split
  · exact (op_configured .run).trans (respond_changes _ _ _ _).configured
  · exact (respond_changes _ _ _ _).configured

theorem execHalt_configured (c : Ctl) : NextBy (Configured w true) s (execHalt c s) := by
  refine nextBy (managerCommand_chain configuredChain c _ fun s => ?_)
  split
  · exact ((Changes.configured ((handOffReset_changes _ _).trans releaseBoth_changes)).trans (op_configured .config)).trans
      (respond_changes _ _ _ _).configured
  · exact (respond_changes _ _ _ _).configured

theorem accepted_configured {α : Type} {x : Option α} {k : α → State} (h : accepted x k = .ok t)
    (hk : ∀ v, Configured true o s (k v)) : Configured true o s t := by
  cases x with
  | none => cases h
  | some v => cases h; exact hk v

/-- A write of an entry leaves the node address, the page count and the operating state alone (R186, R187). -/
theorem writeTable_configured {n : TableName} {i : Nat} {bs : List Byte} (h : writeTable n i bs s = .ok t) : Configured true o s t := by
  cases n with
  | ingestMap => exact accepted_configured h fun _ => ⟨rfl, rfl, nofun, fun _ => rfl⟩
  | roomConfig =>
    simp only [writeTable] at h
    split at h
    · unfold writeRoomConfig at h
      split at h
      · cases h
      · exact accepted_configured h fun _ => ⟨rfl, rfl, nofun, fun _ => rfl⟩
    · cases h
  | stationTable =>
    simp only [writeTable] at h
    split at h
    · unfold writeStation at h
      split at h
      · cases h
      · split at h
        · cases h
        · exact accepted_configured h fun _ => ⟨rfl, rfl, nofun, fun _ => rfl⟩
    · cases h
  | cutSchedule => exact accepted_configured h fun _ => ⟨rfl, rfl, nofun, fun _ => rfl⟩
  | statusItems => exact accepted_configured h fun _ => ⟨rfl, rfl, nofun, fun _ => rfl⟩
  | managerList =>
    simp only [writeTable, writeManager] at h
    split at h
    · cases h
    · cases h; exact ⟨rfl, rfl, nofun, fun _ => rfl⟩
  | linkProfile =>
    simp only [writeTable, writeLinkProfile] at h
    split at h
    · cases h
    · exact accepted_configured h fun _ => ⟨rfl, rfl, nofun, fun _ => rfl⟩
  | storeSettings =>
    cases h
    exact .trans (t := { s with store := { s.store with pageReserve := min 4095 (fieldAt bs 0 2) } })
      ⟨rfl, rfl, nofun, fun _ => rfl⟩ checkReserves_changes.configured
  | timeouts => exact accepted_configured h fun _ => ⟨rfl, rfl, nofun, fun _ => rfl⟩

theorem writeAtCursor_configured (c : Ctl) (body : List Byte) : Configured true o s (writeAtCursor c body s) := by
  unfold writeAtCursor
  split
  · exact (respond_changes _ _ _ _).configured
  · split
    · exact (respond_changes _ _ _ _).configured
    · split
      · exact (respond_changes _ _ _ _).configured
      · exact (writeTable_configured ‹_›).trans ((setCursor_changes _ _).trans (respond_changes _ _ _ _)).configured

theorem execWriteEntry_configured (c : Ctl) (body : List Byte) : NextBy (Configured true o) s (execWriteEntry c body s) := by
  refine nextBy (control_chain configuredChain c _ fun who s => ?_)
  split
  · exact (respond_changes _ _ _ _).configured
  · split
    · split
      · exact (respond_changes _ _ _ _).configured
      · exact writeAtCursor_configured c body
    · exact (respond_changes _ _ _ _).configured

/-! ### Every command -/

/-- Whether a command arrives as a frame's bytes. -/
def isFrame : Instr → Bool
  | .frameArrival _ _ _ => true
  | _ => false

/-- A command that is no reset and no frame writes the configuration only as `writesTables` and `changesOpState` say. -/
theorem exec_configured (i : Instr) (hr : isReset i = false) (hf : isFrame i = false) :
    NextBy (Configured (s.writesTables i) (s.changesOpState i)) s (exec i s) := by
  by_cases hs : isSpecial i = true
  · cases i with
    | tickArrival => exact nextBy takeTick_configured
    | setClock _ _ => exact execSetClock_configured _ _
    | run _ => exact execRun_configured _
    | halt _ => exact execHalt_configured _
    | writeEntry _ _ => exact execWriteEntry_configured _ _
    | mainPowerLoss _ => exact nextBy ⟨rfl, rfl, fun _ => rfl, fun _ => rfl⟩
    | frameArrival _ _ _ => cases hf
    | _ => cases hs
  · exact (exec_changes i hr (by simpa using hs)).configured

/-- The block to which a CONTROL frame's command is handed carries out that command's row (R183, log 3). -/
theorem handCommand_eq (cmd : CommandName) (c : Ctl) (bs : List Byte) (s : State) :
    handCommand cmd c bs s = exec (controlCommand cmd c bs) s := by
  cases cmd <;> rfl

theorem handCommand_configured (cmd : CommandName) (c : Ctl) (bs : List Byte) :
    NextBy (Configured (cmd == .writeEntry) (cmd == .run || cmd == .halt)) s (handCommand cmd c bs s) := by
  have hi : isReset (controlCommand cmd c bs) = false ∧ isFrame (controlCommand cmd c bs) = false ∧
      s.writesTables (controlCommand cmd c bs) = (cmd == .writeEntry) ∧
      s.changesOpState (controlCommand cmd c bs) = (cmd == .run || cmd == .halt) := by
    cases cmd <;> exact ⟨rfl, rfl, rfl, rfl⟩
  obtain ⟨hr, hf, hw, ho⟩ := hi
  rw [handCommand_eq, ← hw, ← ho]
  exact exec_configured _ hr hf

/-! ### A frame arriving -/

theorem takeControl_configured (p : Port) (src : Byte) (payload : List Byte)
    (h : ∀ cmd, controlFault payload = none → commandOfCode (controlHeader payload).1 = some cmd →
      w = (cmd == .writeEntry) ∧ o = (cmd == .run || cmd == .halt)) : NextBy (Configured w o) s (takeControl p src payload s) := by
  unfold takeControl
  split
  · obtain ⟨rfl, rfl⟩ := h _ ‹_› ‹_›
    exact handCommand_configured _ _ _
  · exact (execUnknownCommand_changes _ _ _).configured

/-- Only the taking of a CONTROL frame can write the configuration (R169). -/
theorem takeFrame_configured (p : Port) (f : Parsed) (order : SyncOrder)
    (h : f.kind ≠ kindSync → f.kind ≠ kindAudio → f.kind ≠ kindMark → NextBy (Configured w o) s (takeControl p f.src f.payload s)) :
    NextBy (Configured w o) s (takeFrame p f order s) := by
  have hshort : NextBy (Configured w o) s (.next (countShort s)) := nextBy (Changes.configured (.countLink .refl _))
  unfold takeFrame
  split
  · split
    · exact hshort
    · exact (execCaptureSync_changes _ _).configured
  · split
    · split
      · exact hshort
      · exact (execAudioFrame_changes _ _ _ _).configured
    · split
      · split
        · exact hshort
        · exact (takeMarkFrame_changes _ _).configured
      · exact h ‹_› ‹_› ‹_›

/-- A frame that is no SYNC, AUDIO or MARK frame is taken only as a CONTROL frame for the device (R169). -/
theorem handling_taken {node kind dst : Byte} {p : Port} (hs : kind ≠ kindSync) (ha : kind ≠ kindAudio) (hm : kind ≠ kindMark)
    (h : handling node p kind dst = .take ∨ handling node p kind dst = .takeAndForward) : kind = kindControl ∧ dst = node := by
  unfold handling at h
  rw [if_neg hs, if_neg (not_or.2 ⟨ha, hm⟩)] at h
  by_cases hd : dst = node
  · rw [if_pos hd] at h
    by_cases hc : kind = kindControl
    · exact ⟨hc, hd⟩
    · rw [if_neg hc] at h
      rcases h with h | h <;> cases h
  · rw [if_neg hd] at h
    rcases h with h | h <;> cases h

/-- What the command of a taken CONTROL frame may write. -/
def CarriedBy (w o : Bool) (f : Parsed) (s : State) : Prop :=
  f.kind = kindControl → f.dst = s.link.node → ∀ cmd, controlFault f.payload = none →
    commandOfCode (controlHeader f.payload).1 = some cmd → w = (cmd == .writeEntry) ∧ o = (cmd == .run || cmd == .halt)

theorem handleFrame_configured (p : Port) (f : Parsed) (bytes : Frame) (order : SyncOrder) (h : CarriedBy w o f s) :
    NextBy (Configured w o) s (handleFrame p f bytes order s) := by
  have htaken : handling s.link.node p f.kind f.dst = .take ∨ handling s.link.node p f.kind f.dst = .takeAndForward →
      NextBy (Configured w o) s (takeFrame p f order s) := fun ht =>
    takeFrame_configured p f order fun hs ha hm => by
      obtain ⟨hk, hd⟩ := handling_taken hs ha hm ht
      exact takeControl_configured p f.src f.payload (h hk hd)
  unfold handleFrame
  split
  · exact htaken (.inl ‹_›)
  · obtain ⟨t, ht, hc⟩ := htaken (.inr ‹_›)
    rw [ht]
    exact nextBy (hc.trans (forward_changes _ _).configured)
  · exact nextBy (forward_changes _ _).configured
  · exact nextBy (Changes.configured (.countLink .refl _))
  · exact nextBy (Changes.configured (.countLink .refl _))

theorem countPort_configured (p : Port) (f : PortCounters → PortCounters) :
    Configured w o s (s.updPort p fun q => { q with counters := f q.counters }) :=
  (updPort_changes p (fun q => { q with counters := f q.counters }) fun _ => ⟨rfl, rfl, rfl⟩).configured

theorem received_configured (p : Port) (s : State) : Configured w o s (received p s) :=
  countPort_configured p fun k => { k with framesReceived := k.framesReceived + 1 }

theorem carriedBy_carried {p : Port} {bytes : Frame} {f : Parsed} (h : parseFrame bytes = some f) :
    CarriedBy (s.carried bytes == some .writeEntry) (s.carried bytes == some .run || s.carried bytes == some .halt) f (received p s) := by
  intro hk hd cmd hf hc
  have hnode : (received p s).link.node = s.link.node := State.updPort_link_node ..
  have hcarried : s.carried bytes = some cmd := by
    unfold State.carried
    rw [h]
    exact (if_pos ⟨hk, hd.trans hnode, hf⟩).trans hc
  rw [hcarried]
  cases cmd <;> exact ⟨rfl, rfl⟩

theorem execFrameArrival_configured (p : Port) (bytes : List Byte) (order : SyncOrder) :
    NextBy (Configured (s.carried bytes == some .writeEntry) (s.carried bytes == some .run || s.carried bytes == some .halt)) s
      (execFrameArrival p bytes order s) := by
  unfold execFrameArrival
  split
  · exact nextBy .refl
  · split
    · exact nextBy (countPort_configured p fun k => { k with crcErrors := k.crcErrors + 1 })
    · rename_i f hf
      have hchecked : NextBy (Configured (s.carried bytes == some .writeEntry)
          (s.carried bytes == some .run || s.carried bytes == some .halt)) (received p s) (checkAddresses p f bytes order (received p s)) := by
        unfold checkAddresses
        split
        · exact nextBy (Changes.configured (.countLink .refl _))
        · split
          · exact nextBy (Changes.configured (.countLink .refl _))
          · exact handleFrame_configured p f bytes order (carriedBy_carried hf)
      obtain ⟨t, ht, hc⟩ := hchecked
      exact ⟨t, ht, (received_configured p s).trans hc⟩

/-- Every command but the resets writes the configuration only as `writesTables` and `changesOpState` say. -/
theorem exec_configured_of_not_reset (i : Instr) (hr : isReset i = false) :
    NextBy (Configured (s.writesTables i) (s.changesOpState i)) s (exec i s) := by
  by_cases hf : isFrame i = true
  · cases i with
    | frameArrival p bytes order => exact execFrameArrival_configured p bytes order
    | _ => cases hf
  · exact exec_configured i hr (by simpa using hf)

end Sys2Proof.Machine

open Sys2Proof Sys2Proof.Machine in
/-- Settles O58: no chain of changes writes the configuration, and each of the few commands that are no such chain writes its own part; a frame
writes what the command it carries writes. -/
theorem configurationChangesOnlyByCommand : Obligations.ConfigurationChangesOnlyByCommand := by
  unfold Obligations.ConfigurationChangesOnlyByCommand
  intro i s t h
  have hconf : isReset i = false → Configured (s.writesTables i) (s.changesOpState i) s t := fun hr => by
    obtain ⟨u, hu, hc⟩ := exec_configured_of_not_reset (s := s) i hr
    obtain rfl : t = u := Host.Outcome.next.inj (h.symm.trans hu)
    exact hc
  cases i with
  | powerOnReset straps b => exact ⟨fun hp _ => absurd rfl (hp straps b), nofun, nofun⟩
  | hardReset straps => exact ⟨fun _ hh => absurd rfl (hh straps), nofun, nofun⟩
  | _ =>
    have hc := hconf rfl
    exact ⟨fun _ _ => ⟨hc.node, hc.pages⟩, hc.tables, hc.op⟩

/-! ## The end of an offer or a hold -/

namespace Sys2Proof.Machine

variable {s t u v : State} {e : StationId} {k : Nat} {x : Take} {c : Ctl} {cmd : CommandName}

/-! ### A take that is not RETAINED through a detachment -/

theorem HoldsBut.unpinned (h : HoldsBut k x s) : ∃ y, s.take? k = some y ∧ y.unpinned = x.unpinned := by
  obtain ⟨n, hn⟩ := h
  exact ⟨_, hn, rfl⟩

theorem holdsBut_of_take (h : s.take? k = some x) : HoldsBut k x s := ⟨x.pins, h⟩

/-- No check of the reserves reclaims a take that is not RETAINED (R34, R35). -/
theorem HoldsBut.pressed (h : HoldsBut k x s) (hr : x.lifecycle ≠ .retained) (hp : Pressed s t) : HoldsBut k x t := by
  obtain ⟨n, hn⟩ := h
  exact ⟨n, hp.kept k _ hn (by simp [Take.reclaimable, hr])⟩

theorem HoldsBut.unpin (h : HoldsBut k x s) (hr : x.lifecycle ≠ .retained) (j : Nat) : HoldsBut k x (unpin j s) := by
  have hu := pins_holdsBut j (f := fun t => { t with pins := t.pins - 1 }) (fun _ => ⟨_, rfl⟩) h
  unfold Machine.unpin
  dsimp only
  split
  · exact hu.pressed hr checkReserves_pressed
  · exact hu

theorem HoldsBut.detach (h : HoldsBut k x s) (hr : x.lifecycle ≠ .retained) (e : StationId) : HoldsBut k x (detach e s) := by
  unfold Machine.detach
  split
  · exact h
  · exact HoldsBut.unpin (h.of_take (by unfold State.take?; rw [endListening_takes]; rfl)) hr _

/-! ### What a detachment leaves of the Hand-off Unit -/

theorem updTake_handOff (k : Nat) (f : Take → Take) (s : State) : (s.updTake k f).handOff = s.handOff := by
  unfold State.updTake
  split <;> rfl

theorem unpin_handOff (k : Nat) (s : State) : (unpin k s).handOff = s.handOff := by
  unfold unpin
  dsimp only
  split
  · rw [checkReserves_pressed.handOff, updTake_handOff]
  · exact updTake_handOff _ _ _

/-- A detachment writes no part of the Hand-off Unit but the station table (R86, R131). -/
theorem detach_handOff (e : StationId) (s : State) :
    (detach e s).handOff = { s.handOff with stations := (detach e s).handOff.stations } := by
  unfold detach
  split
  · rfl
  · rw [unpin_handOff]
    unfold endListening
    split <;> rfl

/-! ### A station put at rest -/

/-- The station `e` has ended its work with the take of slot `k`: it is at rest, the take reads `x` but for its pins, and the wait list and the
counters are as in `s`. -/
structure Ended (e : StationId) (k : Nat) (x : Take) (s u : State) : Prop where
  rest : AtRest e u
  take : HoldsBut k x u
  wait : u.handOff.wait = s.handOff.wait
  counters : u.handOff.counters = s.handOff.counters

/-- The detachment with which an offer, a hold or a transfer ends. -/
def released (e : StationId) (s : State) : State := detach e (s.updStation e fun x => { x with timer := none })

theorem released_pools (e : StationId) (s : State) : (released e s).handOff.pools = s.handOff.pools := by
  unfold released
  rw [detach_handOff]
  rfl

/-- A released station made IDLE is at rest, whatever becomes of the take and the queues in between. -/
theorem Ended.of_released (ht : HoldsBut k x u) (hc : u.playback = (released e s).playback)
    (hh : u.handOff = { (released e s).handOff with pools := u.handOff.pools }) : Ended e k x s (makeIdle e u) where
  rest := by
    have hctx : ((released e s).context e).take = none := detach_take _ _
    have hst : (makeIdle e u).station e = { u.station e with state := .idle, take := none, timer := none } :=
      State.station_updStation ..
    refine ⟨by rw [hst], by rw [hst], by rw [hst], ?_⟩
    rw [← hctx]
    unfold makeIdle State.context
    rw [State.updStation_playback, hc]
  take := ht
  wait := by
    unfold makeIdle
    rw [State.updStation_handOff_wait, hh]
    unfold released
    rw [detach_handOff]
    rfl
  counters := by
    unfold makeIdle
    rw [State.updStation_handOff_counters, hh]
    unfold released
    rw [detach_handOff]
    rfl

theorem released_holdsBut (h : s.take? k = some x) (hr : x.lifecycle ≠ .retained) : HoldsBut k x (released e s) :=
  HoldsBut.detach (s := s.updStation e fun x => { x with timer := none }) (holdsBut_of_take h) hr e

/-! ### Give-backs to a pool (R96) -/

/-- Steps 1 to 4 of R96: the take is PENDING at its pool's head. -/
theorem returnToPool_ended (h : s.take? k = some x) (hr : x.lifecycle ≠ .retained) :
    Ended e k { x with transcription := some .pending, holder := none } s (returnToPool e k s) ∧
      (returnToPool e k s).pool x.pool = k :: s.pool x.pool := by
  obtain ⟨n, hn⟩ := released_holdsBut (e := e) h hr
  have heq : returnToPool e k s = makeIdle e (((released e s).setTake k
      { x with pins := n, transcription := some .pending, holder := none }).updPool x.pool fun q => k :: q) := by
    have hd : (detach e (s.updStation e fun x => { x with timer := none })).take? k = some { x with pins := n } := hn
    unfold returnToPool
    dsimp only
    rw [hd]
    rfl
  rw [heq]
  refine ⟨.of_released ⟨n, mapGet_mapSet_same⟩ rfl rfl, ?_⟩
  have hpool : (released e s).pool x.pool = s.pool x.pool := by
    unfold State.pool
    rw [released_pools]
  refine (State.pool_updPool _ _ _).trans ?_
  rw [State.setTake_pool, hpool]

/-- A give-back with no station waiting, of a take that was `x` before the sender's frame was noted: it stays PENDING at its pool's head, and
the cause's counter is what the cause makes of it (R94, R96). -/
theorem giveBack_counted (f : HandOffCounters → HandOffCounters) (hn : Noted s v) (hk : (v.station e).take = some k)
    (h : s.take? k = some x) (hr : x.lifecycle ≠ .retained) (hw : s.handOff.wait = []) :
    AtRest e (giveBack e (fun _ u => u.countHandOff f) v) ∧
      (giveBack e (fun _ u => u.countHandOff f) v).pool x.pool = k :: s.pool x.pool ∧
      (∃ y, (giveBack e (fun _ u => u.countHandOff f) v).take? k = some y ∧
        y.unpinned = { x with transcription := some .pending, holder := none }.unpinned) ∧
      (giveBack e (fun _ u => u.countHandOff f) v).handOff.counters = f s.handOff.counters := by
  obtain ⟨hend, hpool⟩ := returnToPool_ended (e := e) ((hn.take k).trans h) hr
  obtain ⟨n, hx⟩ := hend.take
  have hstays : arrive k ((returnToPool e k v).countHandOff f) = (returnToPool e k v).countHandOff f :=
    arrive_stays hx (firstWaiting_none_of_wait (hend.wait.trans (hn.wait.trans hw)))
  have heq : giveBack e (fun _ u => u.countHandOff f) v = (returnToPool e k v).countHandOff f := by
    unfold giveBack
    rw [hk]
    exact hstays
  rw [heq]
  exact ⟨hend.rest, hpool.trans (by rw [hn.pool]), hend.take.unpinned, congrArg f (hend.counters.trans hn.counters)⟩

/-! ### Commands on the take of a station -/

theorem withStationTake_of {state : StationState} {f : Nat → State → State} (hk : (s.station e).take = some k)
    (h : s.take? k = some x) (hs : (s.station e).state = state) : withStationTake c cmd state e f s = f k s := by
  have hst : s.stationTake e = some k := by
    unfold State.stationTake
    rw [hk, Option.filter_some, h]
    rfl
  unfold withStationTake
  rw [hst]
  exact if_pos hs

section Commands
variable (hk : (s.station e).take = some k) (h : s.take? k = some x)
include hk h

theorem exec_decline_of (hf : FromStation c .decline e s) (hs : (s.station e).state = .offered) :
    exec (.decline c) s = .next (respond c .decline .ok [] (giveBack e countDeclined (handled c .decline s))) :=
  congrArg Host.Outcome.next ((stationCommand_of hf).trans
    (withStationTake_of ((handled_stationTake e).trans hk) ((handled_take k).trans h) ((handled_state e).trans hs)))

theorem exec_returnTake_of (hf : FromStationPlain c .returnTake e s) (hs : (s.station e).state = .holding) :
    exec (.returnTake c) s = .next (respond c .returnTake .ok [] (giveBack e countReturned (handled c .returnTake s))) :=
  congrArg Host.Outcome.next ((plainStationCommand_of hf).trans
    (withStationTake_of ((handled_stationTake e).trans hk) ((handled_take k).trans h) ((handled_state e).trans hs)))

theorem exec_complete_of (hf : FromStationPlain c .complete e s) (hs : (s.station e).state = .holding) :
    exec (.complete c) s = .next (respond c .complete .ok (bytesOf 2 x.number) (completeHold e k (handled c .complete s))) :=
  congrArg Host.Outcome.next ((plainStationCommand_of hf).trans
    ((withStationTake_of ((handled_stationTake e).trans hk) ((handled_take k).trans h) ((handled_state e).trans hs)).trans
      (by rw [handled_numberOf, numberOf_of h])))

end Commands

/-! ### Reserves that are met -/

theorem checkReserves_of_met (h : s.reserveUnmet = false) : checkReserves s = s := by
  unfold checkReserves
  rw [if_neg (by rw [h]; nofun)]

/-- From `s` to `t` no page and no slot was taken or freed. -/
structure SameRoom (s t : State) : Prop where
  store : t.store = s.store
  slots : t.takeTable.takes.length = s.takeTable.takes.length
  canonical : mapWf t.takeTable.takes

theorem SameRoom.trans (h : SameRoom s t) (h' : SameRoom t u) : SameRoom s u :=
  ⟨h'.store.trans h.store, h'.slots.trans h.slots, h'.canonical⟩

theorem SameRoom.of_takes (hw : mapWf s.takeTable.takes) (hs : t.store = s.store) (ht : t.takeTable.takes = s.takeTable.takes) :
    SameRoom s t := ⟨hs, by rw [ht], by rw [ht]; exact hw⟩

theorem SameRoom.reserveUnmet (h : SameRoom s t) : t.reserveUnmet = s.reserveUnmet := by
  unfold State.reserveUnmet State.pagesShort State.slotsShort State.freeSlots
  rw [h.store, h.slots]

theorem updTake_sameRoom (k : Nat) (f : Take → Take) (hw : mapWf s.takeTable.takes) : SameRoom s (s.updTake k f) := by
  rcases h : s.take? k with _ | x
  · rw [State.updTake_none _ _ h]
    exact .of_takes hw rfl rfl
  · rw [State.updTake_some _ _ h]
    exact ⟨rfl, length_mapSet hw h, mapWf_mapSet hw⟩

theorem unpin_sameRoom (k : Nat) (hw : mapWf s.takeTable.takes) (hm : s.reserveUnmet = false) : SameRoom s (unpin k s) := by
  have hu := updTake_sameRoom k (fun t => { t with pins := t.pins - 1 }) hw
  unfold unpin
  dsimp only
  rw [checkReserves_of_met (hu.reserveUnmet.trans hm), ite_self]
  exact hu

theorem detach_sameRoom (e : StationId) (hw : mapWf s.takeTable.takes) (hm : s.reserveUnmet = false) : SameRoom s (detach e s) := by
  unfold detach
  split
  · exact .of_takes hw rfl rfl
  · have he : SameRoom s (endListening e (s.updContext e fun c => stoppedContext c.mix)) :=
      .of_takes hw (by unfold endListening; split <;> rfl) (endListening_takes e)
    exact he.trans (unpin_sameRoom _ he.canonical (he.reserveUnmet.trans hm))

/-! ### COMPLETE (R100, R49) -/

/-- A hold's take once its typist has completed it (R100). -/
def Take.typed (x : Take) : Take := { x with holder := none, transcription := some .typed }

/-- A completed hold before the take may become RETAINED. -/
def holdCompleted (e : StationId) (k : Nat) (s : State) : State :=
  (makeIdle e ((released e s).updTake k Take.typed)).countHandOff fun q => { q with takesTyped := q.takesTyped + 1 }

theorem completeHold_eq (e : StationId) (k : Nat) (s : State) : completeHold e k s = retainIfDone k (holdCompleted e k s) := rfl

theorem holdCompleted_ended (h : s.take? k = some x) (hr : x.lifecycle ≠ .retained) :
    AtRest e (holdCompleted e k s) ∧ HoldsBut k x.typed (holdCompleted e k s) ∧
      (holdCompleted e k s).handOff.counters.takesTyped = s.handOff.counters.takesTyped + 1 := by
  obtain ⟨n, hn⟩ := released_holdsBut (e := e) h hr
  have heq : (released e s).updTake k Take.typed = (released e s).setTake k { x.typed with pins := n } := by
    rw [State.updTake_some _ _ hn]
    rfl
  have hend : Ended e k x.typed s (makeIdle e ((released e s).updTake k Take.typed)) := by
    rw [heq]
    exact .of_released ⟨n, mapGet_mapSet_same⟩ rfl rfl
  exact ⟨hend.rest, hend.take, congrArg (fun q => q.takesTyped + 1) hend.counters⟩

theorem holdCompleted_sameRoom (hw : mapWf s.takeTable.takes) (hm : s.reserveUnmet = false) : SameRoom s (holdCompleted e k s) := by
  have hr : SameRoom s (released e s) :=
    .trans (t := s.updStation e fun x => { x with timer := none }) (.of_takes hw rfl rfl) (detach_sameRoom e hw hm)
  have hu := hr.trans (updTake_sameRoom k Take.typed hr.canonical)
  exact ⟨hu.store, hu.slots, hu.canonical⟩

/-- The retention of a take, before the reserves are checked (R49, R33). -/
def State.retaining (s : State) (k : Nat) (x : Take) : State :=
  { s.setTake k { x with lifecycle := .retained } with store := { s.store with retention := s.store.retention ++ [k] } }

theorem retainIfDone_done (h : s.take? k = some x) (hd : x.transcription = some .typed ∧ x.archive = some .archived) :
    retainIfDone k s = checkReserves (s.retaining k x) := by
  unfold retainIfDone
  rw [h]
  exact if_pos hd

theorem retainIfDone_not (h : s.take? k = some x) (hd : x.archive ≠ some .archived) : retainIfDone k s = s := by
  unfold retainIfDone
  rw [h]
  exact if_neg fun hx => hd hx.2

/-- Whether or not the take becomes RETAINED, the Hand-off and Playback Units stay (R49). -/
theorem retainIfDone_keeps (k : Nat) (s : State) :
    (retainIfDone k s).handOff = s.handOff ∧ ∀ q, (retainIfDone k s).context q = s.context q := by
  unfold retainIfDone
  split
  · exact ⟨rfl, fun _ => rfl⟩
  · split
    · exact ⟨checkReserves_pressed.handOff, fun q => checkReserves_pressed.context q⟩
    · exact ⟨rfl, fun _ => rfl⟩

theorem AtRest.of_same (h : AtRest e s) (hh : t.handOff = s.handOff) (hc : t.context e = s.context e) : AtRest e t := by
  unfold AtRest State.station at *
  rw [hh, hc]
  exact h

theorem retaining_sameSlots (h : s.take? k = some x) (hw : mapWf s.takeTable.takes) (hm : s.reserveUnmet = false) :
    checkReserves (s.retaining k x) = s.retaining k x := by
  refine checkReserves_of_met ?_
  rw [← hm]
  have hlen : (s.retaining k x).takeTable.takes.length = s.takeTable.takes.length := length_mapSet hw h
  unfold State.reserveUnmet State.pagesShort State.slotsShort State.freeSlots
  rw [hlen]
  rfl

/-- A completed take that is ARCHIVED becomes RETAINED when no reclaim follows (R49). -/
theorem completeHold_retains (h : s.take? k = some x) (hr : x.lifecycle ≠ .retained) (ha : x.archive = some .archived)
    (hm : s.reserveUnmet = false) (hw : mapWf s.takeTable.takes) :
    (completeHold e k s).store.retention = s.store.retention ++ [k] ∧
      HoldsBut k { x.typed with lifecycle := .retained } (completeHold e k s) := by
  obtain ⟨_, ⟨n, hn⟩, _⟩ := holdCompleted_ended (e := e) h hr
  have hroom : SameRoom s (holdCompleted e k s) := holdCompleted_sameRoom hw hm
  rw [completeHold_eq, retainIfDone_done hn ⟨rfl, ha⟩, retaining_sameSlots hn hroom.canonical (hroom.reserveUnmet.trans hm)]
  exact ⟨congrArg (fun q : Store => q.retention ++ [k]) hroom.store, ⟨n, mapGet_mapSet_same⟩⟩

theorem handled_reserveUnmet : (handled c cmd s).reserveUnmet = s.reserveUnmet := by
  unfold State.reserveUnmet State.pagesShort State.slotsShort State.freeSlots
  rw [handled_store, handled_takeTable]

end Sys2Proof.Machine

open Sys2Proof Sys2Proof.Machine in
/-- Settles O24: each of the three commands detaches the station's context and puts it at rest, which can free a RETAINED take but not the
CLOSED one it works on; a DECLINE or RETURN with no station waiting ends there, a COMPLETE may go on to retain the take. -/
theorem holdsEndComplete : Obligations.HoldsEndComplete := by
  unfold Obligations.HoldsEndComplete
  refine ⟨fun c e k t s hk h hl hw => ⟨fun hf hs => ?_, fun hf hs => ?_⟩, fun c e k t s hf hs hk h hl => ?_⟩
  all_goals have hr : t.lifecycle ≠ .retained := by rw [hl]; nofun
  · obtain ⟨hrest, hpool, htake, hcount⟩ := giveBack_counted (fun q => { q with offersDeclined := q.offersDeclined + 1 })
      handled_noted ((handled_stationTake e).trans hk) h hr hw
    exact ⟨_, exec_decline_of hk h hf hs, hrest, hpool, htake, congrArg (·.offersDeclined) hcount⟩
  · obtain ⟨hrest, hpool, htake, hcount⟩ := giveBack_counted (fun q => { q with takesReturned := q.takesReturned + 1 })
      handled_noted ((handled_stationTake e).trans hk) h hr hw
    exact ⟨_, exec_returnTake_of hk h hf hs, hrest, hpool, htake, congrArg (·.takesReturned) hcount⟩
  · have hn : Noted s (handled c .complete s) := handled_noted
    have ht := (handled_take (c := c) (cmd := .complete) (s := s) k).trans h
    obtain ⟨hrest, htake, hcount⟩ := holdCompleted_ended (e := e) ht hr
    obtain ⟨hh, hc⟩ := retainIfDone_keeps k (holdCompleted e k (handled c .complete s))
    refine ⟨_, exec_complete_of hk h hf hs, hrest.of_same hh (hc e), ?_, fun ha => ?_, fun ha hm hwf => ?_⟩
    · exact (congrArg (·.counters.takesTyped) hh).trans (hcount.trans (by rw [hn.counters]))
    · obtain ⟨n, hn'⟩ := htake
      rw [completeHold_eq, retainIfDone_not hn' ha]
      exact HoldsBut.unpinned ⟨n, hn'⟩
    · obtain ⟨hret, hkeep⟩ := completeHold_retains (e := e) ht hr ha (handled_reserveUnmet.trans hm)
        (by rw [hn.takeTable]; exact hwf)
      exact ⟨hret.trans (by rw [hn.store]), hkeep.unpinned⟩

/-! ## Reads of takes, queues and markers -/

namespace Sys2Proof.Machine

variable {s : State} {c : Ctl} {cmd : CommandName} {n : Word} {k : Nat} {t : Take}

/-- A queue's entries are read from what noting the sender's frame leaves alone: the queues, the takes' numbers and the stations' nodes (R63). -/
theorem handled_queueEntries (q : Byte) : (handled c cmd s).queueEntries q = s.queueEntries q := by
  have hn : Noted s (handled c cmd s) := handled_noted
  unfold State.queueEntries
  simp only [hn.pool, hn.archive, hn.store, hn.wait, hn.config, handled_numberOf]

theorem exec_readTake_of (hf : FromManager c s) (h : s.namedTake n = .ok (k, t)) :
    exec (.readTake c n) s = .next (respond c .readTake .ok (takeRecord k t) (handled c .readTake s)) := by
  have hn : (handled c .readTake s).namedTake n = .ok (k, t) := (handled_namedTake n).trans h
  refine congrArg Host.Outcome.next ((managerCommand_of hf).trans ?_)
  rw [hn]

theorem exec_readQueue_of {q : Byte} {start : Word} {entries : List (List Byte)} (hf : FromManager c s)
    (h : s.queueEntries q = some entries) (hstart : start.toNat ≤ 1023) :
    exec (.readQueue c q start) s = .next (respond c .readQueue .ok
      (bytesOf 2 entries.length ++ ((entries.drop start.toNat).take 64).flatten) (handled c .readQueue s)) := by
  have hq : (handled c .readQueue s).queueEntries q = some entries := (handled_queueEntries q).trans h
  refine congrArg Host.Outcome.next ((managerCommand_of hf).trans ?_)
  rw [hq]
  exact if_neg (Nat.not_lt.2 hstart)

theorem exec_readMarker_of {sel : Byte} {byIndex : Bool} {v : Word} {i : Nat} {m : Marker} (hf : FromManager c s)
    (h : s.namedTake n = .ok (k, t)) (hsel : boolOfCode sel = some byIndex)
    (hm : selectMarker t.markers byIndex v.toNat = some (i, m)) :
    exec (.readMarker c n sel v) s = .next (respond c .readMarker .ok
      (bytesOf 2 t.markers.length ++ bytesOf 2 i ++ m.bytes) (handled c .readMarker s)) := by
  have hn : (handled c .readMarker s).namedTake n = .ok (k, t) := (handled_namedTake n).trans h
  refine congrArg Host.Outcome.next ((managerCommand_of hf).trans ?_)
  rw [hsel, hn]
  dsimp only
  rw [hm]

end Sys2Proof.Machine

open Sys2Proof Sys2Proof.Machine in
/-- Settles O16: the takes and the queues read the same once the manager's frame is noted, so each read answers what it finds. -/
theorem takeReadsComplete : Obligations.TakeReadsComplete := by
  intro c s hf
  exact ⟨fun _ _ _ h => exec_readTake_of hf h, fun _ _ _ h hstart => exec_readQueue_of hf h hstart,
    fun _ _ _ _ _ _ _ _ h hsel hm => exec_readMarker_of hf h hsel hm⟩

/-! ## Archive transfers -/

namespace Sys2Proof.Machine

variable {s t u : State} {e : StationId} {k : Nat} {x : Take} {c : Ctl} {cmd : CommandName}

/-! ### A station that is not a READBACK attached to a take -/

theorem becomeListening_of_cls (h : (s.station e).config.cls ≠ .readback) : becomeListening e s = s := if_neg h

/-- The attachment of a station that cannot become LISTENING writes no part of the Hand-off Unit (R86, R131). -/
theorem attach_handOff (k : Nat) (mix : Mix) (h : (s.station e).config.cls ≠ .readback) : (attach e k mix s).handOff = s.handOff := by
  have hb : ∀ f : Context → Context,
      (becomeListening e (setPosition e k 0 ((pin k s).updContext e f))).handOff = s.handOff := fun f => by
    have hp : ((pin k s).updContext e f).handOff = s.handOff := updTake_handOff ..
    have hs : (setPosition e k 0 ((pin k s).updContext e f)).station e = s.station e := by
      unfold State.station
      exact congrArg (·.stations[e]) hp
    rw [becomeListening_of_cls (by rw [hs]; exact h)]
    exact hp
  unfold attach
  dsimp only
  split
  · exact (unpin_handOff ..).trans (hb _)
  · exact hb _

theorem HoldsBut.attach (h : HoldsBut k x s) (hr : x.lifecycle ≠ .retained) (e : StationId) (j : Nat) (mix : Mix) :
    HoldsBut k x (attach e j mix s) := by
  have hp : ∀ f : Context → Context, HoldsBut k x (becomeListening e (setPosition e j 0 ((pin j s).updContext e f))) := fun f =>
    (pins_holdsBut j (f := fun t => { t with pins := t.pins + 1 }) (fun _ => ⟨_, rfl⟩) h).of_take
      (by unfold State.take?; rw [becomeListening_takes]; rfl)
  unfold Machine.attach
  dsimp only
  split
  · exact HoldsBut.unpin (hp _) hr _
  · exact hp _

/-! ### REQUEST_ARCHIVE (R104) -/

/-- A take whose transfer to a node has begun (R104). -/
def Take.archivingBy (x : Take) (node : Byte) : Take := { x with archive := some .archiving, archiver := some node }

/-- An archive assignment before the station's context is attached: the take has left the archive queue, and the station's stall timer runs. -/
def State.assigning (s : State) (e : StationId) (k : Nat) (x : Take) : State :=
  ((s.updArchive fun q => q.filter (· != k)).setTake k (x.archivingBy (s.station e).config.node)).updStation e fun y =>
    { y with state := .archiving, take := some k, timer := some ⟨.stall, ticksOfS s.timeouts.stall⟩ }

theorem assigning_station : (s.assigning e k x).station e =
    { s.station e with state := .archiving, take := some k, timer := some ⟨.stall, ticksOfS s.timeouts.stall⟩ } :=
  State.station_updStation ..

theorem assignArchive_of (h : s.take? k = some x) : assignArchive e k s =
    ((attach e k (s.station e).config.mix (s.assigning e k x)).updContext e fun y => { y with state := .bulk }).countHandOff
      fun q => { q with archiveAssigned := q.archiveAssigned + 1 } := by
  have hk : (s.updArchive fun q => q.filter (· != k)).take? k = some x := h
  have hmix : ((s.assigning e k x).station e).config.mix = (s.station e).config.mix := by rw [assigning_station]
  rw [← hmix]
  unfold assignArchive
  dsimp only
  rw [State.updTake_some _ _ hk]
  rfl

theorem assignArchive_handOff (h : s.take? k = some x) (hc : (s.station e).config.cls ≠ .readback) :
    (assignArchive e k s).handOff = { (s.assigning e k x).handOff with
      counters := { s.handOff.counters with archiveAssigned := s.handOff.counters.archiveAssigned + 1 } } := by
  have ha : (attach e k (s.station e).config.mix (s.assigning e k x)).handOff = (s.assigning e k x).handOff :=
    attach_handOff k _ (by rw [assigning_station]; exact hc)
  rw [assignArchive_of h]
  exact congrArg (fun q : HandOff => { q with counters := { q.counters with archiveAssigned := q.counters.archiveAssigned + 1 } }) ha

theorem assignArchive_station (h : s.take? k = some x) (hc : (s.station e).config.cls ≠ .readback) :
    (assignArchive e k s).station e =
      { s.station e with state := .archiving, take := some k, timer := some ⟨.stall, ticksOfS s.timeouts.stall⟩ } := by
  rw [← assigning_station (x := x)]
  unfold State.station
  rw [assignArchive_handOff h hc]

theorem assignArchive_archive (h : s.take? k = some x) (hc : (s.station e).config.cls ≠ .readback) :
    (assignArchive e k s).handOff.archive = s.handOff.archive.filter (· != k) := by
  rw [assignArchive_handOff h hc]
  rfl

theorem assignArchive_take (h : s.take? k = some x) (hr : x.lifecycle ≠ .retained) :
    HoldsBut k (x.archivingBy (s.station e).config.node) (assignArchive e k s) := by
  have ha : (s.assigning e k x).take? k = some (x.archivingBy (s.station e).config.node) := mapGet_mapSet_same
  rw [assignArchive_of h]
  exact HoldsBut.attach (holdsBut_of_take ha) hr e k _

/-- The context of a transfer starts in BULK at the take's first cell, with no credit (R131, R148). -/
theorem assignArchive_context (h : s.take? k = some x) :
    ((assignArchive e k s).context e).take = some k ∧ ((assignArchive e k s).context e).state = .bulk ∧
      ((assignArchive e k s).context e).position = some 0 ∧ ((assignArchive e k s).context e).credits = 0 ∧
      ((assignArchive e k s).context e).markersSent = 0 := by
  rw [assignArchive_of h, State.countHandOff_context, State.context_updContext, attach_context]
  exact ⟨rfl, rfl, rfl, rfl, rfl⟩

theorem exec_requestArchive_of {rest : List Nat} (hf : FromStation c .requestArchive e s) (hs : (s.station e).state = .idle)
    (hq : s.handOff.archive = k :: rest) (h : s.take? k = some x) :
    exec (.requestArchive c) s =
      .next (respond c .requestArchive .ok (archiveFields x) (assignArchive e k (handled c .requestArchive s))) := by
  have hq' : (handled c .requestArchive s).handOff.archive = k :: rest := handled_noted.archive.trans hq
  have ht : (handled c .requestArchive s).take? k = some x := (handled_take k).trans h
  refine congrArg Host.Outcome.next ((stationCommand_of hf).trans ?_)
  rw [if_neg (not_not.2 ((handled_state e).trans hs)), hq', List.head?_cons, Option.bind_some, ht]
  rfl

/-- A READBACK station does not pass the checks of a REQUEST_ARCHIVE (R183). -/
theorem cls_ne_readback_of_requestArchive (hf : FromStation c .requestArchive e s) : (s.station e).config.cls ≠ .readback := by
  obtain ⟨_, _, _, hpermits, _⟩ := hf
  intro hc
  rw [hc] at hpermits
  exact absurd hpermits (by decide)

/-! ### Work with a take that ends (R105, R107) -/

/-- A station's work with its take ended: the context is detached, the take's record changed, the station at rest. -/
def workEnded (e : StationId) (k : Nat) (f : Take → Take) (s : State) : State := makeIdle e ((released e s).updTake k f)

theorem workEnded_ended {f : Take → Take} (hf : ∀ n, f { x with pins := n } = { f x with pins := n }) (h : s.take? k = some x)
    (hr : x.lifecycle ≠ .retained) : Ended e k (f x) s (workEnded e k f s) := by
  obtain ⟨n, hn⟩ := released_holdsBut (e := e) h hr
  have heq : (released e s).updTake k f = (released e s).setTake k { f x with pins := n } := by
    rw [State.updTake_some _ _ hn, hf]
  unfold workEnded
  rw [heq]
  exact .of_released ⟨n, mapGet_mapSet_same⟩ rfl rfl

theorem workEnded_archive (f : Take → Take) : (workEnded e k f s).handOff.archive = s.handOff.archive := by
  unfold workEnded makeIdle
  rw [State.updStation_handOff_archive, updTake_handOff, released, detach_handOff]
  rfl

theorem workEnded_sameRoom (f : Take → Take) (hw : mapWf s.takeTable.takes) (hm : s.reserveUnmet = false) :
    SameRoom s (workEnded e k f s) := by
  have hr : SameRoom s (released e s) :=
    .trans (t := s.updStation e fun x => { x with timer := none }) (.of_takes hw rfl rfl) (detach_sameRoom e hw hm)
  have hu := hr.trans (updTake_sameRoom k f hr.canonical)
  exact ⟨hu.store, hu.slots, hu.canonical⟩

/-- A take that is TYPED and ARCHIVED joins the retention queue's tail, and with the reserves met stays there (R33, R35, R49). -/
theorem retainIfDone_retains (h : HoldsBut k x s) (hd : x.transcription = some .typed ∧ x.archive = some .archived)
    (hw : mapWf s.takeTable.takes) (hm : s.reserveUnmet = false) :
    (retainIfDone k s).store.retention = s.store.retention ++ [k] ∧
      HoldsBut k { x with lifecycle := .retained } (retainIfDone k s) := by
  obtain ⟨n, hn⟩ := h
  rw [retainIfDone_done hn hd, retaining_sameSlots hn hw hm]
  exact ⟨rfl, ⟨n, mapGet_mapSet_same⟩⟩

theorem retainIfDone_untyped (h : HoldsBut k x s) (hd : x.transcription ≠ some .typed) : retainIfDone k s = s := by
  obtain ⟨n, hn⟩ := h
  unfold retainIfDone
  rw [hn]
  exact if_neg fun hx => hd hx.1

/-! ### ARCHIVED (R105, R49) -/

/-- A transfer's take once its station has confirmed it (R105). -/
def Take.confirmed (x : Take) : Take := { x with archiver := none, archive := some .archived }

/-- A confirmed transfer before the take may become RETAINED. -/
def transferConfirmed (e : StationId) (k : Nat) (s : State) : State :=
  (workEnded e k Take.confirmed s).countHandOff fun q => { q with takesArchived := q.takesArchived + 1 }

theorem confirmArchive_eq (e : StationId) (k : Nat) (s : State) : confirmArchive e k s = retainIfDone k (transferConfirmed e k s) := rfl

theorem confirmArchive_rest (h : s.take? k = some x) (hr : x.lifecycle ≠ .retained) :
    AtRest e (confirmArchive e k s) ∧
      (confirmArchive e k s).handOff.counters.takesArchived = s.handOff.counters.takesArchived + 1 := by
  have hend : Ended e k x.confirmed s (workEnded e k Take.confirmed s) := workEnded_ended (fun _ => rfl) h hr
  obtain ⟨hh, hc⟩ := retainIfDone_keeps k (transferConfirmed e k s)
  have hrest : AtRest e (transferConfirmed e k s) := hend.rest
  have hcount : (transferConfirmed e k s).handOff.counters.takesArchived = s.handOff.counters.takesArchived + 1 :=
    congrArg (·.takesArchived + 1) hend.counters
  exact ⟨hrest.of_same hh (hc e), (congrArg (·.counters.takesArchived) hh).trans hcount⟩

theorem transferConfirmed_take (h : s.take? k = some x) (hr : x.lifecycle ≠ .retained) :
    HoldsBut k x.confirmed (transferConfirmed e k s) :=
  (workEnded_ended (e := e) (f := Take.confirmed) (fun _ => rfl) h hr).take

/-- A confirmed take that is still to be typed is only ARCHIVED. -/
theorem confirmArchive_untyped (h : s.take? k = some x) (hr : x.lifecycle ≠ .retained) (ht : x.transcription ≠ some .typed) :
    HoldsBut k x.confirmed (confirmArchive e k s) := by
  have hk : HoldsBut k x.confirmed (transferConfirmed e k s) := transferConfirmed_take h hr
  rw [confirmArchive_eq, retainIfDone_untyped hk ht]
  exact hk

/-- A confirmed take that is TYPED becomes RETAINED when no reclaim follows (R49). -/
theorem confirmArchive_retains (h : s.take? k = some x) (hr : x.lifecycle ≠ .retained) (ht : x.transcription = some .typed)
    (hm : s.reserveUnmet = false) (hw : mapWf s.takeTable.takes) :
    (confirmArchive e k s).store.retention = s.store.retention ++ [k] ∧
      HoldsBut k { x.confirmed with lifecycle := .retained } (confirmArchive e k s) := by
  have hroom : SameRoom s (transferConfirmed e k s) :=
    (workEnded_sameRoom (e := e) (k := k) Take.confirmed hw hm).trans
      (.of_takes (workEnded_sameRoom Take.confirmed hw hm).canonical rfl rfl)
  obtain ⟨hret, hkeep⟩ := retainIfDone_retains (transferConfirmed_take h hr) ⟨ht, rfl⟩ hroom.canonical (hroom.reserveUnmet.trans hm)
  rw [confirmArchive_eq]
  exact ⟨hret.trans (by rw [hroom.store]), hkeep⟩

/-! ### ARCHIVE_FAILED (R107) -/

/-- A transfer's take once its station has given it up (R107). -/
def Take.unarchivedAgain (x : Take) : Take := { x with archive := some .unarchived, archiver := none }

/-- Steps 1 to 4 of R107: the archive queue and the station's entry are written apart. -/
theorem giveBackTransfer_of (hk : (s.station e).take = some k) :
    giveBackTransfer e s = (workEnded e k Take.unarchivedAgain s).updArchive fun q => k :: q := by
  unfold giveBackTransfer
  rw [hk]
  rfl

/-- A transfer given back leaves the station at rest, and the take UNARCHIVED at the archive queue's head (R107). -/
theorem giveBackTransfer_ended (hk : (s.station e).take = some k) (h : s.take? k = some x) (hr : x.lifecycle ≠ .retained) :
    Ended e k x.unarchivedAgain s (giveBackTransfer e s) ∧ (giveBackTransfer e s).handOff.archive = k :: s.handOff.archive := by
  have hend : Ended e k x.unarchivedAgain s (workEnded e k Take.unarchivedAgain s) := workEnded_ended (fun _ => rfl) h hr
  rw [giveBackTransfer_of hk]
  exact ⟨⟨hend.rest, hend.take, hend.wait, hend.counters⟩, congrArg (k :: ·) (workEnded_archive _)⟩

/-! ### Commands on the take of a transfer -/

section Transfers
variable (hk : (s.station e).take = some k) (h : s.take? k = some x) (hs : (s.station e).state = .archiving)
include hk h hs

theorem exec_archived_of (hf : FromStation c .archived e s) (hp : x.cells ≤ (s.context e).position.getD 0) :
    exec (.archived c) s = .next (respond c .archived .ok (bytesOf 2 x.number) (confirmArchive e k (handled c .archived s))) := by
  refine congrArg Host.Outcome.next ((stationCommand_of hf).trans ((withStationTake_of ((handled_stationTake e).trans hk)
    ((handled_take k).trans h) ((handled_state e).trans hs)).trans ?_))
  rw [handled_context, handled_cellsOf, cellsOf_of h, handled_numberOf, numberOf_of h]
  exact if_neg (Nat.not_lt.2 hp)

theorem exec_archiveFailed_of (hf : FromStation c .archiveFailed e s) :
    exec (.archiveFailed c) s = .next (respond c .archiveFailed .ok [] (failArchive e (handled c .archiveFailed s))) :=
  congrArg Host.Outcome.next ((stationCommand_of hf).trans
    (withStationTake_of ((handled_stationTake e).trans hk) ((handled_take k).trans h) ((handled_state e).trans hs)))

end Transfers

end Sys2Proof.Machine

open Sys2Proof Sys2Proof.Machine in
/-- Settles O25: an attachment or a detachment can reclaim RETAINED takes, but not the CLOSED one transferred; ARCHIVED may go on to retain that
take, and ARCHIVE_FAILED puts it back at the archive queue's head. -/
theorem archiveTransfersComplete : Obligations.ArchiveTransfersComplete := by
  unfold Obligations.ArchiveTransfersComplete
  refine ⟨fun c e k rest t s hf hs hq h hl => ?_, fun c e k t s hs hk h hl => ⟨fun hf hp => ?_, fun hf => ?_⟩⟩
  all_goals have hr : t.lifecycle ≠ .retained := by rw [hl]; nofun
  · have hn : Noted s (handled c .requestArchive s) := handled_noted
    have ht := (hn.take k).trans h
    have hc : ((handled c .requestArchive s).station e).config.cls ≠ .readback := by
      rw [hn.config]
      exact cls_ne_readback_of_requestArchive hf
    have hst := assignArchive_station ht hc
    obtain ⟨hctake, hcstate, hcpos, hccred, hcsent⟩ := assignArchive_context (e := e) ht
    refine ⟨_, exec_requestArchive_of hf hs hq h, by rw [hst], by rw [hst], by rw [hst, hn.timeouts], ?_, hctake, hcstate, hcpos,
      hccred, hcsent, ?_, ?_⟩
    · rw [assignArchive_archive ht hc, hn.archive, hq]
      simp
    · rw [← hn.config e]
      exact (assignArchive_take ht hr).unpinned
    · rw [assignArchive_handOff ht hc, hn.counters]
  · have hn : Noted s (handled c .archived s) := handled_noted
    have ht := (hn.take k).trans h
    obtain ⟨hrest, hcount⟩ := confirmArchive_rest (e := e) ht hr
    refine ⟨_, exec_archived_of hk h hs hf hp, hrest, by rw [hcount, hn.counters], fun hty => ?_, fun hty hm hw => ?_⟩
    · exact (confirmArchive_untyped ht hr hty).unpinned
    · obtain ⟨hret, hkeep⟩ := confirmArchive_retains (e := e) ht hr hty (handled_reserveUnmet.trans hm) (by rw [hn.takeTable]; exact hw)
      exact ⟨hret.trans (by rw [hn.store]), hkeep.unpinned⟩
  · have hn : Noted s (handled c .archiveFailed s) := handled_noted
    obtain ⟨hend, hqueue⟩ := giveBackTransfer_ended ((handled_stationTake e).trans hk) ((hn.take k).trans h) hr
    refine ⟨_, exec_archiveFailed_of hk h hs hf, hend.rest, hqueue.trans (by rw [hn.archive]), hend.take.unpinned, ?_⟩
    exact congrArg (·.archiveFailures + 1) (hend.counters.trans hn.counters)

/-! ## The marker entries: the takes' lists and the free count -/

namespace Sys2Proof.Machine

/-- Where the marker entries stand: the live takes, whose lists hold the placed ones, and the count of free ones (R66). -/
def State.entries (s : State) : SMap Take × Nat := (s.takeTable.takes, s.markerPool.free)

/-- One step of the marker entries: a take written with the same list, a marker placed in a list from a free entry (R68 to R70), a take opened
with an empty list (R46), or a take freed together with the entries of its list (R81). -/
inductive EntryStep : SMap Take × Nat → SMap Take × Nat → Prop where
  | write {takes : SMap Take} {n k : Nat} {x y : Take} (h : mapGet k takes = some x) (hm : y.markers = x.markers) 
      (hn : y.nextMarker = x.nextMarker) : EntryStep (takes, n) (mapSet k y takes, n)
  | place {takes : SMap Take} {n k : Nat} {x : Take} {m : Marker} (h : mapGet k takes = some x) (hf : 0 < n) :
      EntryStep (takes, n) (mapSet k (x.withMarker m) takes, n - 1)
  | opened {takes : SMap Take} {n k : Nat} {x : Take} (h : mapGet k takes = none) (hk : k < Config.takeSlots) (hm : x.markers = [])
      (hn : x.nextMarker = 1) : EntryStep (takes, n) (mapSet k x takes, n)
  | freed {takes : SMap Take} {n k : Nat} {x : Take} (h : mapGet k takes = some x) :
      EntryStep (takes, n) (mapErase k takes, n + x.markers.length)

variable {s t : State} {α : Type} {a : SMap α} {takes : SMap Take} {k n : Nat} {x y : Take} {m : Marker} {l : List Marker}

/-! ### What every step of the device does to the entries -/

section
variable {P : SMap Take × Nat → Prop} (hP : ∀ {a b}, EntryStep a b → P a → P b)
include hP

/-- A change of one take's record, but for its list, is at most one step of the entries. -/
theorem updTake_keeps_entries (k : Nat) (f : Take → Take) (hm : ∀ x, (f x).markers = x.markers)
    (hn : ∀ x, (f x).nextMarker = x.nextMarker) (hs : P s.entries) : P (s.updTake k f).entries := by
  cases h : s.take? k with
  | none => rw [State.updTake_none _ _ h]; exact hs
  | some x => rw [State.updTake_some _ _ h]; exact hP (.write h (hm x) (hn x)) hs

/-- A context's move counts pins, and leaves every list alone (R131). -/
theorem moveContext_keeps_entries (e : StationId) (c : Context) (hs : P s.entries) : P (moveContext e c s).entries := by
  have hpin : P (match c.take with | some k => pin k s | none => s).entries := by
    split
    · exact updTake_keeps_entries hP _ _ (fun _ => rfl) (fun _ => rfl) hs
    · exact hs
  unfold moveContext
  dsimp only
  split
  · exact updTake_keeps_entries hP _ _ (fun _ => rfl) (fun _ => rfl) hpin
  · exact hpin

/-- A page linked and a cell written: two writes of the take's record, both with its list. -/
theorem storeLinked_keeps_entries (cell : AudioCell) (rest : List Nat) (h : s.take? k = some x) (hs : P s.entries) :
    P (writeCell k cell (linkPage k n rest x s)).entries := by
  rw [storeLinked_eq]
  exact hP (.write mapGet_mapSet_same rfl rfl) (hP (.write h rfl rfl) hs)

theorem Change.keeps_entries (hc : Change s t) (hs : P s.entries) : P t.entries := by
  cases hc with
  | quiet _ hq =>
    have hsame : t.entries = s.entries := congrArg₂ Prod.mk (congrArg Shape.takes hq) (congrArg Shape.freeMarkers hq)
    rw [hsame]
    exact hs
  | take k x y h hm hn _ _ => exact hP (.write h hm hn) hs
  | place k x m h hf => exact hP (.place h hf) hs
  | opened k x h hk hm hn _ _ => exact hP (.opened h hk hm hn) hs
  | freed k x h _ => exact hP (.freed h) hs
  | moved e c _ _ => exact moveContext_keeps_entries hP e c hs
  | linked k n rest x cell h _ _ => exact storeLinked_keeps_entries hP cell rest h hs
  | wrote k x cell h _ => rw [writeCell_eq cell h]; exact hP (.write h rfl rfl) hs
  | port p f _ => cases p <;> exact hs
  | room _ _ _ _ => exact hs
  | station _ _ _ => exact hs
  | manager _ _ => exact hs
  | context _ _ _ _ => exact hs

theorem Move.keeps_entries (hm : Move s t) (hs : P s.entries) : P t.entries := by
  cases hm with
  | change _ hc => exact hc.keeps_entries hP hs
  | _ => exact hs

/-- What every step of the entries keeps, and what holds with every entry free and no take live, is kept by every step of the device. -/
theorem step_keeps_entries (hreset : P ([], Config.markerEntries)) (hs : P s.entries) (h : step s = .next t) : P t.entries :=
  step_keeps (P := fun s => P s.entries) (fun _ _ hm => hm.keeps_entries hP) (fun _ _ h => h) (fun _ _ _ _ _ => hreset) hs h

end

/-! ### The entries add up (R66) -/

/-- The entries placed in the lists of the live takes. -/
def placedIn (takes : SMap Take) : Nat := (takes.map fun x => x.2.markers.length).sum

/-- The entries of one live take's list stand apart from those of the others. -/
theorem placedIn_erase (hw : mapWf takes) (h : mapGet k takes = some x) : placedIn takes = x.markers.length + placedIn (mapErase k takes) :=
  ((mapErase_perm hw h).map fun p : Nat × Take => p.2.markers.length).sum_eq

theorem placedIn_set (hw : mapWf takes) : placedIn (mapSet k y takes) = y.markers.length + placedIn (mapErase k takes) :=
  ((mapSet_perm hw).map fun p : Nat × Take => p.2.markers.length).sum_eq

theorem insertMarker_perm (m : Marker) (l : List Marker) : (insertMarker m l).Perm (m :: l) := by
  induction l with
  | nil => exact .refl _
  | cons a l ih =>
    rw [insertMarker]
    split
    · exact .refl _
    · exact (ih.cons a).trans (.swap ..)

theorem withMarker_length (x : Take) (m : Marker) : (x.withMarker m).markers.length = x.markers.length + 1 :=
  (insertMarker_perm _ x.markers).length_eq

/-- The invariant of R66 on the entries: the takes stand canonically in slots below 1024, and placed and free entries add up to 8192. -/
def EntriesKept (a : SMap Take × Nat) : Prop :=
  mapWf a.1 ∧ (∀ k ∈ mapKeys a.1, k < Config.takeSlots) ∧ a.2 + placedIn a.1 = Config.markerEntries

theorem markersKept_iff : MarkersKept s ↔ EntriesKept s.entries := .rfl

/-- A listed key is within the bound of all keys. -/
theorem key_lt_of_get (hk : ∀ j ∈ mapKeys takes, j < n) (h : mapGet k takes = some x) : k < n :=
  hk k (List.mem_map.2 ⟨_, mapGet_mem h, rfl⟩)

theorem keys_lt_mapSet (hk : ∀ j ∈ mapKeys takes, j < n) (h : k < n) : ∀ j ∈ mapKeys (mapSet k y takes), j < n := fun j hj => by
  rcases mapKeys_mapSet_mem hj with rfl | hj
  · exact h
  · exact hk j hj

theorem EntryStep.entriesKept {a b : SMap Take × Nat} (h : EntryStep a b) (ha : EntriesKept a) : EntriesKept b := by
  obtain ⟨hw, hk, hsum⟩ := ha
  cases h with
  | write h hm _ =>
    refine ⟨mapWf_mapSet hw, keys_lt_mapSet hk (key_lt_of_get hk h), ?_⟩
    rw [placedIn_erase hw h] at hsum
    rw [placedIn_set hw, hm]
    exact hsum
  | place h hf =>
    refine ⟨mapWf_mapSet hw, keys_lt_mapSet hk (key_lt_of_get hk h), ?_⟩
    rw [placedIn_erase hw h] at hsum
    rw [placedIn_set hw, withMarker_length]
    omega
  | opened h hslot hm _ =>
    refine ⟨mapWf_mapSet hw, keys_lt_mapSet hk hslot, ?_⟩
    rw [placedIn_set hw, mapErase_of_none h, hm, List.length_nil, Nat.zero_add]
    exact hsum
  | freed h =>
    refine ⟨mapWf_mapErase hw, fun j hj => hk j (mapKeys_mapErase_mem hj), ?_⟩
    rw [placedIn_erase hw h] at hsum
    rw [Nat.add_assoc]
    exact hsum

/-! ### The lists stay ordered and numbered (R68, R69) -/

/-- A marker inserted before the first at a greater position keeps the list in order (R68). -/
theorem insertMarker_ordered (h : l.Pairwise fun a b => a.position ≤ b.position) :
    (insertMarker m l).Pairwise fun a b => a.position ≤ b.position := by
  induction l with
  | nil => exact List.pairwise_singleton _ _
  | cons a l ih =>
    obtain ⟨ha, hl⟩ := List.pairwise_cons.1 h
    rw [insertMarker]
    split
    · rename_i hlt
      exact List.pairwise_cons.2 ⟨List.forall_mem_cons.2 ⟨hlt.le, fun b hb => hlt.le.trans (ha b hb)⟩, h⟩
    · rename_i hge
      refine List.pairwise_cons.2 ⟨fun b hb => ?_, ih hl⟩
      rcases List.mem_cons.1 ((insertMarker_perm m l).mem_iff.1 hb) with rfl | hb
      · exact Nat.le_of_not_lt hge
      · exact ha b hb

/-- A marker placed in a list takes the next number (R69). -/
theorem withMarker_listed (h : x.listed) (m : Marker) : (x.withMarker m).listed := by
  obtain ⟨hord, hnum, hnext⟩ := h
  refine ⟨insertMarker_ordered hord, ?_, ?_⟩
  · have hnums := ((insertMarker_perm { m with number := x.nextMarker } x.markers).map Marker.number).trans (hnum.cons x.nextMarker)
    have hrange : List.range' 1 (x.markers.length + 1) = List.range' 1 x.markers.length ++ [x.nextMarker] := by
      rw [List.range'_1_concat, hnext, Nat.add_comm]
    rw [withMarker_length, hrange]
    exact hnums.trans (List.perm_append_singleton _ _).symm
  · rw [withMarker_length, ← hnext]; rfl

/-- An empty list whose take gives number 1 next is in order (R46). -/
theorem listed_of_empty (hm : x.markers = []) (hn : x.nextMarker = 1) : x.listed := by
  unfold Take.listed
  rw [hm, hn]
  exact ⟨.nil, .nil, rfl⟩

theorem listed_of_same (h : x.listed) (hm : y.markers = x.markers) (hn : y.nextMarker = x.nextMarker) : y.listed := by
  unfold Take.listed
  rw [hm, hn]
  exact h

theorem mem_mapSet {v : α} {p : Nat × α} (h : p ∈ mapSet k v a) : p = (k, v) ∨ p ∈ a := by
  induction a with
  | nil => exact .inl (List.mem_singleton.1 h)
  | cons q a ih =>
    obtain ⟨j, w⟩ := q
    rw [mapSet] at h
    split at h
    · exact List.mem_cons.1 h
    · split at h
      · exact (List.mem_cons.1 h).imp_right (List.mem_cons_of_mem _)
      · rcases List.mem_cons.1 h with rfl | h
        · exact .inr List.mem_cons_self
        · exact (ih h).imp_right (List.mem_cons_of_mem _)

theorem mem_mapErase {p : Nat × α} (h : p ∈ mapErase k a) : p ∈ a := by
  induction a with
  | nil => exact h
  | cons q a ih =>
    obtain ⟨j, w⟩ := q
    rw [mapErase] at h
    split at h
    · exact List.mem_cons_of_mem _ (ih h)
    · rcases List.mem_cons.1 h with rfl | h
      · exact List.mem_cons_self
      · exact List.mem_cons_of_mem _ (ih h)

/-- Every list of the entries is in order and numbered. -/
def EntriesListed (a : SMap Take × Nat) : Prop := ∀ p ∈ a.1, p.2.listed

theorem listsOrdered_iff : ListsOrdered s ↔ EntriesListed s.entries := .rfl

theorem entriesListed_nil : EntriesListed ([], n) := fun _ hp => absurd hp List.not_mem_nil

theorem EntriesListed.set (h : EntriesListed (takes, n)) (hy : y.listed) {n' : Nat} : EntriesListed (mapSet k y takes, n') := fun p hp => by
  rcases mem_mapSet hp with rfl | hp
  · exact hy
  · exact h p hp

theorem EntryStep.entriesListed {a b : SMap Take × Nat} (h : EntryStep a b) (ha : EntriesListed a) : EntriesListed b := by
  cases h with
  | write h hm hn => exact ha.set (listed_of_same (ha _ (mapGet_mem h)) hm hn)
  | place h _ => exact ha.set (withMarker_listed (ha _ (mapGet_mem h)) _)
  | opened _ _ hm hn => exact ha.set (listed_of_empty hm hn)
  | freed _ => exact fun p hp => ha p (mem_mapErase hp)

end Sys2Proof.Machine

open Sys2Proof Sys2Proof.Machine in
/-- Settles O52: an entry that is placed leaves the free count for one list, and a freed take returns its whole list; every other step leaves the
lists and the count as they are. -/
theorem markersStayKept : Obligations.MarkersStayKept := fun _ _ hs h =>
  markersKept_iff.2 (step_keeps_entries EntryStep.entriesKept ⟨.nil, nofun, rfl⟩ (markersKept_iff.1 hs) h)

open Sys2Proof Sys2Proof.Machine in
/-- Settles O53: a placed marker is inserted in order with its take's next number, and no other step changes a list. -/
theorem markerListsStayOrdered : Obligations.MarkerListsStayOrdered := fun _ _ hs h =>
  listsOrdered_iff.2 (step_keeps_entries EntryStep.entriesListed entriesListed_nil (listsOrdered_iff.1 hs) h)

/-! ## Annotations placed or lost (R70 to R74, R78, R79) -/

namespace Sys2Proof.Machine

variable {s : State} {c : Ctl} {cmd : CommandName} {e : StationId} {k : Nat} {x : Take} {a : Marker} {m : Mark} {r : RoomId}
  {kind : AnnotationKind} {y : Placing}

/-- An annotation is granted an entry when more than 32 are free (R70). -/
theorem grants_of_isAnnotation {q : MarkerKind} (h : q.isAnnotation = true) : s.grants q = decide (32 < s.markerPool.free) := if_pos h

theorem placeMarker_granted (h : s.take? k = some x) (ha : a.kind.isAnnotation = true) (hf : 32 < s.markerPool.free) :
    placeMarker k a s = (s.placed k x a, some x.nextMarker) := by
  have hg : s.grants a.kind = true := (grants_of_isAnnotation ha).trans (decide_eq_true hf)
  simp [placeMarker, h, hg, State.placed]

theorem placeMarker_denied (h : s.take? k = some x) (ha : a.kind.isAnnotation = true) (hf : s.markerPool.free ≤ 32) :
    placeMarker k a s = (s, none) := by
  have hg : s.grants a.kind = false := (grants_of_isAnnotation ha).trans (decide_eq_false (Nat.not_lt.2 hf))
  simp [placeMarker, h, hg]

/-- A lost annotation is counted in its take and in the pool, and MARKERS_LOW is latched (R71). -/
theorem loseAnnotation_spec (h : s.take? k = some x) :
    (loseAnnotation k s).take? k = some { x with markersLost := min 255 (x.markersLost + 1) } ∧
      (loseAnnotation k s).markerPool = { s.markerPool with annotationsLost := s.markerPool.annotationsLost + 1 } ∧
      (loseAnnotation k s).latched .markersLow = true := by
  unfold loseAnnotation
  rw [State.updTake_some _ _ h]
  have htold := reportAlert_told .markersLow { s.setTake k { x with markersLost := satAdd 255 x.markersLost 1 } with
    markerPool := { s.markerPool with annotationsLost := s.markerPool.annotationsLost + 1 } }
  exact ⟨(htold.take k).trans mapGet_mapSet_same, htold.markerPool, reportAlert_latched _ _⟩

/-! ### ADD_NOTE (R78, R79) -/

theorem handled_defaultTake : (handled c cmd s).defaultTake e = s.defaultTake e := by simp [State.defaultTake]

theorem handled_notePosition (given : BitVec 24) : notePosition (handled c cmd s) e k x given = notePosition s e k x given := by
  simp [notePosition]

theorem handled_noteMarker (source : Byte) (code : Word) (label : List Byte) (p : Nat) :
    noteMarker (handled c cmd s) source code label p = noteMarker s source code label p := by
  simp [noteMarker]

/-- An ADD_NOTE with a default take and a position comes to the placing of its NOTE. -/
theorem exec_addNote_of {code : Word} {label : List Byte} {given : BitVec 24} {p : Nat} (hf : FromStationPlain c .addNote e s)
    (hd : s.defaultTake e = some k) (h : s.take? k = some x) (hp : notePosition s e k x given = some p) :
    exec (.addNote c code label given) s = .next (addNote c code label k p (handled c .addNote s)) := by
  refine congrArg Host.Outcome.next ((plainStationCommand_of hf).trans ?_)
  simp [handled_defaultTake, handled_notePosition, hd, h, hp]

/-! ### Annotation marks (R72 to R74) -/

/-- An annotation mark's place is read from the rooms, the takes, the current cycle and the clock, of which noting the last port writes none. -/
theorem annotationPlacing_takenFrom (p : Port) (n : Byte) (w : Word) :
    annotationPlacing (takenFrom p n s) r k w = annotationPlacing s r k w := by
  rw [takenFrom_eq]; rfl

/-- An annotation mark at a room that is not CLOSED comes to its placing in or near the room's open take (R17). -/
theorem exec_annotationMark_of (hm : FromConsole m r s) (hc : (s.room r).state ≠ .closed) (ho : (s.room r).openTake = some k) :
    exec (.annotationMark kind m) s = .next (placeAnnotation r k kind m (takenFrom m.port m.src s)) :=
  exec_mark_of hm hc rfl (by simp [ho])

/-- The marker of an annotation mark at its place (R67, R74; log 40). -/
def annotationMarker (kind : AnnotationKind) (m : Mark) (y : Placing) : Marker :=
  { plainMarker (annotationMarkerKind kind) y.position y.stamp m.src with code := m.code, label := m.label.take 12, late := y.late }

theorem annotationMarker_isAnnotation : (annotationMarker kind m y).kind.isAnnotation = true := by cases kind <;> rfl

/-- An annotation mark whose entry is granted joins the list of the take at its place, and is counted if late (R70, R74). -/
theorem placeAnnotation_granted (hy : annotationPlacing s r k m.cycle = y) (h : s.take? y.slot = some x) (hf : 32 < s.markerPool.free) :
    placeAnnotation r k kind m s = { s.placed y.slot x (annotationMarker kind m y) with
      markerPool := { s.markerPool with
        free := s.markerPool.free - 1, lateMarks := s.markerPool.lateMarks + if y.late then 1 else 0 } } := by
  have hplace := placeMarker_granted (a := annotationMarker kind m y) h annotationMarker_isAnnotation hf
  unfold annotationMarker at hplace
  simp only [placeAnnotation, hy, hplace]
  by_cases hl : y.late = true
  · rw [if_pos hl, if_pos hl]; rfl
  · rw [if_neg hl, if_neg hl, add_zero]; rfl

/-- An annotation mark whose entry is denied is lost in the take in which it would have stood (R71). -/
theorem placeAnnotation_denied (hy : annotationPlacing s r k m.cycle = y) (h : s.take? y.slot = some x) (hf : s.markerPool.free ≤ 32) :
    placeAnnotation r k kind m s = loseAnnotation y.slot s := by
  have hplace := placeMarker_denied (a := annotationMarker kind m y) h annotationMarker_isAnnotation hf
  unfold annotationMarker at hplace
  simp only [placeAnnotation, hy, hplace]

section
variable {w : Word} {g : RingEntry} {newer : List RingEntry} {stamp : Stamp} {j : Nat} {z : Take}

theorem annotationPlacing_live (h : s.take? k = some x) (hl : classify s.currentCycle (s.room r).ring w = .live) :
    annotationPlacing s r k w = ⟨k, x.cells, s.now, false⟩ := by
  simp [annotationPlacing, hl, cellsOf_of h]

theorem annotationPlacing_behind (h : s.take? k = some x) (hb : classify s.currentCycle (s.room r).ring w = .behind) :
    annotationPlacing s r k w = ⟨k, x.cells, s.now, true⟩ := by
  simp [annotationPlacing, hb, cellsOf_of h]

/-- A governing entry `g` with the ring `newer` from it on decides a mark's place, with the stamp of its case: the entry's own for Recorded, the
clock's for Between (R72, R73). -/
abbrev Governs (s : State) (r : RoomId) (w : Word) (g : RingEntry) (newer : List RingEntry) (stamp : Stamp) : Prop :=
  (classify s.currentCycle (s.room r).ring w = .recorded g newer ∧ stamp = g.stamp) ∨
    (classify s.currentCycle (s.room r).ring w = .between g newer ∧ stamp = s.now)

/-- The place by a governing entry, or late in the open take where that names no live take (R73). -/
theorem annotationPlacing_governed (hg : Governs s r w g newer stamp) :
    annotationPlacing s r k w = (governedPlacing s g newer stamp).getD ⟨k, s.cellsOf k, s.now, true⟩ := by
  rcases hg with ⟨hc, rfl⟩ | ⟨hc, rfl⟩ <;> simp [annotationPlacing, hc]

theorem annotationPlacing_inTake (hg : Governs s r w g newer stamp) (hs : g.slot = some j) (h : s.take? j = some z) :
    annotationPlacing s r k w = ⟨j, governedPosition g newer j z.cells, stamp, false⟩ := by
  simp [annotationPlacing_governed hg, governedPlacing, hs, h]

theorem annotationPlacing_gone (hg : Governs s r w g newer stamp) (hs : g.slot.bind s.take? = none) (h : s.take? k = some x) :
    annotationPlacing s r k w = ⟨k, x.cells, s.now, true⟩ := by
  have hnone : governedPlacing s g newer stamp = none := by
    unfold governedPlacing
    cases hj : g.slot with
    | none => rfl
    | some j =>
      rw [hj, Option.bind_some] at hs
      simp [hs]
  rw [annotationPlacing_governed hg, hnone, Option.getD_none, cellsOf_of h]

end

/-- What an annotation mark leaves: its marker in the list of the take at its place, one entry fewer free, the late mark counted if it is one;
the rooms, the contexts and the other takes as before (R70, R74). -/
structure Annotated (kind : AnnotationKind) (m : Mark) (y : Placing) (x : Take) (s u : State) : Prop where
  take : u.take? y.slot = some (x.withMarker (annotationMarker kind m y))
  pool : u.markerPool = { s.markerPool with
    free := s.markerPool.free - 1, lateMarks := s.markerPool.lateMarks + if y.late then 1 else 0 }
  rooms : u.rooms = s.rooms
  playback : u.playback = s.playback
  others : ∀ i, i ≠ y.slot → u.take? i = s.take? i

theorem annotationMark_annotated (hm : FromConsole m r s) (hc : (s.room r).state ≠ .closed) (ho : (s.room r).openTake = some k)
    (hy : annotationPlacing s r k m.cycle = y) (h : s.take? y.slot = some x) (hf : 32 < s.markerPool.free) :
    ∃ u, exec (.annotationMark kind m) s = .next u ∧ Annotated kind m y x s u := by
  have hplace := placeAnnotation_granted (kind := kind) (s := takenFrom m.port m.src s) ((annotationPlacing_takenFrom ..).trans hy)
    ((takenFrom_take ..).trans h) (by rw [takenFrom_markerPool]; exact hf)
  refine ⟨_, exec_annotationMark_of hm hc ho, ?_⟩
  rw [hplace]
  exact {
    take := mapGet_mapSet_same
    pool := by simp
    rooms := takenFrom_rooms _ _
    playback := takenFrom_playback _ _
    others := fun i hi => (mapGet_mapSet_ne hi).trans (takenFrom_take _ _ i) }

end Sys2Proof.Machine

open Sys2Proof Sys2Proof.Machine in
/-- Settles O34: where the mark belongs depends on its case of R72 alone; it is placed there, or lost there, as R70 and R71 have it. -/
theorem annotationMarkCompletes : Obligations.AnnotationMarkCompletes := by
  intro kind m r k t s hm hc ho h
  refine ⟨fun hl hf => ?_, fun hb hf => ?_, fun g newer stamp hf hg => ⟨fun j tj hj hjt => ?_, fun hgone => ?_⟩, fun hl hf => ?_⟩
  · obtain ⟨u, hu, hp⟩ := annotationMark_annotated (kind := kind) hm hc ho (annotationPlacing_live h hl) h hf
    exact ⟨u, hu, hp.take, hp.pool.trans (by simp), hp.rooms, hp.playback, hp.others⟩
  · obtain ⟨u, hu, hp⟩ := annotationMark_annotated (kind := kind) hm hc ho (annotationPlacing_behind h hb) h hf
    exact ⟨u, hu, hp.take, hp.pool⟩
  · obtain ⟨u, hu, hp⟩ := annotationMark_annotated (kind := kind) hm hc ho (annotationPlacing_inTake hg hj hjt) hjt hf
    exact ⟨u, hu, hp.take, hp.pool.trans (by simp), hp.others⟩
  · obtain ⟨u, hu, hp⟩ := annotationMark_annotated (kind := kind) hm hc ho (annotationPlacing_gone hg hgone h) h hf
    exact ⟨u, hu, hp.take, hp.pool⟩
  · have ht : (takenFrom m.port m.src s).take? k = some t := (takenFrom_take ..).trans h
    have hlost := placeAnnotation_denied (kind := kind) ((annotationPlacing_takenFrom ..).trans (annotationPlacing_live h hl)) ht
      (by rw [takenFrom_markerPool]; exact hf)
    obtain ⟨htake, hpool, hlatch⟩ := loseAnnotation_spec ht
    refine ⟨_, exec_annotationMark_of hm hc ho, ?_⟩
    rw [hlost]
    exact ⟨htake, by rw [hpool, takenFrom_markerPool], hlatch⟩

open Sys2Proof Sys2Proof.Machine in
/-- Settles O33: the NOTE meets the Marker Pool on the state with the station's command noted, and is granted its entry or lost there. -/
theorem addNoteCompletes : Obligations.AddNoteCompletes := by
  intro c code label given e k p t s hf hd h hp
  have ht : (handled c .addNote s).take? k = some t := (handled_take k).trans h
  rw [exec_addNote_of hf hd h hp]
  unfold addNote
  rw [handled_noteMarker]
  refine ⟨fun hfree => ⟨noteMarker s c.src code label p, rfl, ?_⟩,
    fun hfree => ⟨loseAnnotation k (handled c .addNote s), ?_, ?_⟩⟩
  · rw [placeMarker_granted ht rfl (by rw [handled_markerPool]; exact hfree), State.placed, handled_markerPool]
  · rw [placeMarker_denied ht rfl (by rw [handled_markerPool]; exact hfree)]
  · obtain ⟨htake, hpool, hlatch⟩ := loseAnnotation_spec ht
    exact ⟨htake, by rw [hpool, handled_markerPool], hlatch⟩

/-! ## What every command of a known source notes -/

namespace Sys2Proof.Machine

variable {s : State} {c : Ctl} {cmd : CommandName} {e : StationId} {p : Port} {n : Byte}

/-- A source is a station when no manager entry names it and the station table does (R182). -/
theorem sender_eq_station_iff : s.sender n = .station e ↔ s.findManager n = none ∧ s.findStation n = some e := by
  unfold State.sender
  rcases s.findManager n with _ | m
  · rcases s.findStation n with _ | q
    · cases (s.findConsole n).isSome <;> simp
    · simp
  · simp

/-! ### The last port (R85, R184) -/

theorem takenFrom_station_of_sender (h : s.sender n = .station e) : (takenFrom p n s).station e = { s.station e with lastPort := p } := by
  obtain ⟨hm, hs⟩ := sender_eq_station_iff.1 h
  unfold takenFrom
  rw [hm, hs]
  exact State.station_updStation ..

theorem takenFrom_station_of_not_sender (h : s.sender n ≠ .station e) : (takenFrom p n s).station e = s.station e := by
  unfold takenFrom
  split
  · rfl
  · rename_i hm
    split
    · rename_i j hj
      exact State.station_updStation_ne _ _ fun he => h (sender_eq_station_iff.2 ⟨hm, he ▸ hj⟩)
    · rfl

theorem takenFrom_lastPort_of_manager {m : Fin 4} (h : s.findManager n = some m) :
    ((takenFrom p n s).mgmt.managers[m]).lastPort = p := by
  unfold takenFrom
  rw [h]
  simp

/-- Noting the last port counts and latches nothing (R85, R184). -/
theorem takenFrom_mgmt : (takenFrom p n s).mgmt = { s.mgmt with managers := (takenFrom p n s).mgmt.managers } := by
  unfold takenFrom
  split
  · rfl
  · split <;> rfl

/-! ### The lease (R99) -/

theorem leaseEffect_mgmt (who : Sender) : (leaseEffect cmd who s).mgmt = s.mgmt := by
  unfold leaseEffect restartLease
  split
  · split
    · split <;> rfl
    · rfl
  · rfl

/-- A command of R99 restarts its own station's lease, in RUN and while the station holds a take. -/
theorem leaseEffect_station_of_sender : (leaseEffect cmd (.station e) s).station e =
    { s.station e with
      timer := if cmd.restartsLease = true ∧ s.mgmt.op = .run ∧ (s.station e).state = .holding
        then some ⟨.lease, ticksOfMin s.timeouts.lease⟩ else (s.station e).timer } := by
  have hcond : (cmd.restartsLease && s.mgmt.op == .run) = true ↔ cmd.restartsLease = true ∧ s.mgmt.op = .run := by simp
  unfold leaseEffect restartLease
  by_cases hrun : cmd.restartsLease = true ∧ s.mgmt.op = .run
  · by_cases hhold : (s.station e).state = .holding
    · simp [hrun, hhold]
    · simp [hrun, hhold]
  · have hno : ¬(cmd.restartsLease = true ∧ s.mgmt.op = .run ∧ (s.station e).state = .holding) := fun h => hrun ⟨h.1, h.2.1⟩
    dsimp only
    rw [if_neg (hcond.not.2 hrun), if_neg hno]

theorem leaseEffect_station_of_not_sender {who : Sender} (h : who ≠ .station e) :
    (leaseEffect cmd who s).station e = s.station e := by
  unfold leaseEffect restartLease
  split
  · rename_i j
    have hj : j ≠ e := fun he => h (by rw [he])
    split
    · split
      · exact State.station_updStation_ne _ _ hj
      · rfl
    · rfl
  · rfl

/-! ### Both together -/

theorem handled_mgmt : (handled c cmd s).mgmt =
    { s.mgmt with
      managers := (takenFrom c.port c.src s).mgmt.managers
      counters := { s.mgmt.counters with controlTaken := s.mgmt.counters.controlTaken + 1 } } := by
  unfold handled
  rw [leaseEffect_mgmt, State.countMgmt, takenFrom_mgmt]

theorem handled_tables : (handled c cmd s).tables = s.tables :=
  (Changes.configured (w := false) (o := false)
    (((takenFrom_changes c.port c.src).countMgmt _).trans (leaseEffect_changes cmd (s.sender c.src)))).tables rfl

theorem handled_station_of_sender (h : s.sender c.src = .station e) : (handled c cmd s).station e =
    { s.station e with
      lastPort := c.port
      timer := if cmd.restartsLease = true ∧ s.mgmt.op = .run ∧ (s.station e).state = .holding
        then some ⟨.lease, ticksOfMin s.timeouts.lease⟩ else (s.station e).timer } := by
  have hst := takenFrom_station_of_sender (p := c.port) h
  unfold handled
  rw [h, leaseEffect_station_of_sender, State.countMgmt_station, hst, State.countMgmt_mgmt_op, takenFrom_op, State.countMgmt_timeouts,
    takenFrom_timeouts]

theorem handled_station_of_not_sender (h : s.sender c.src ≠ .station e) : (handled c cmd s).station e = s.station e :=
  (leaseEffect_station_of_not_sender h).trans (takenFrom_station_of_not_sender h)

theorem handled_lastPort_of_manager {m : Fin 4} (h : s.findManager c.src = some m) :
    ((handled c cmd s).mgmt.managers[m]).lastPort = c.port := by
  rw [handled_mgmt]
  exact takenFrom_lastPort_of_manager h

end Sys2Proof.Machine

open Sys2Proof Sys2Proof.Machine in
/-- Settles O4: noting the last port writes the sender's entry, and the lease effect the timer of a station that sends. -/
theorem handledCommandIsOnlyNoted : Obligations.HandledCommandIsOnlyNoted := by
  intro c cmd s
  have hn : Noted s (handled c cmd s) := handled_noted
  exact ⟨by rw [handled_mgmt], handled_rooms, handled_takeTable, handled_markerPool, handled_store, handled_playback, handled_clock,
    handled_link, handled_op, handled_pending, congrArg (·.handOff.pools) hn.frame, hn.archive, hn.wait, hn.counters, handled_tables,
    by rw [handled_mgmt], fun _ h => handled_station_of_sender h, fun _ h => handled_station_of_not_sender h,
    fun _ h => handled_lastPort_of_manager h⟩

/-! ## The first checks of station commands -/

namespace Sys2Proof.Machine

variable {s : State} {c : Ctl} {cmd : CommandName} {e : StationId} {k : StationId → State → State}

section Refused
variable (hp : s.power = .on) (hs : s.sender c.src ≠ .unknown)
include hp hs

theorem stationCommand_of_config (ho : s.mgmt.op = .config) :
    stationCommand c cmd k s = respond c cmd .wrongState [] (handled c cmd s) := by
  have hop : (handled c cmd s).mgmt.op ≠ .run := by rw [handled_op, ho]; nofun
  unfold stationCommand
  rw [control_of hp hs]
  exact if_pos hop

/-- In RUN a station command is refused to every source but a station of a class that it is permitted to (R88, R183). -/
theorem stationCommand_of_not_permitted (ho : s.mgmt.op = .run)
    (hc : ∀ e, s.sender c.src = .station e → cmd.permits (s.station e).config.cls = false) :
    stationCommand c cmd k s = respond c cmd .notPermitted [] (handled c cmd s) := by
  have hop : ¬(handled c cmd s).mgmt.op ≠ .run := not_not.2 (handled_op.trans ho)
  unfold stationCommand
  rw [control_of hp hs]
  refine (if_neg hop).trans ?_
  split
  · rename_i e he
    have hcls : (!cmd.permits ((handled c cmd s).station e).config.cls) = true := by rw [handled_config, hc e he]; rfl
    exact if_pos hcls
  · rfl

theorem stationCommand_of_offline (ho : s.mgmt.op = .run) (he : s.sender c.src = .station e)
    (hc : cmd.permits (s.station e).config.cls = true) (hoff : (s.station e).state = .offline) :
    stationCommand c cmd k s = respond c cmd .wrongState [] (handled c cmd s) := by
  have hop : ¬(handled c cmd s).mgmt.op ≠ .run := not_not.2 (handled_op.trans ho)
  have hcls : ¬(!cmd.permits ((handled c cmd s).station e).config.cls) = true := by rw [handled_config, hc]; nofun
  unfold stationCommand
  rw [control_of hp hs]
  refine (if_neg hop).trans ?_
  split
  · rename_i j hj
    obtain rfl : e = j := Sender.station.inj (he.symm.trans hj)
    exact (if_neg hcls).trans (if_pos ((handled_state e).trans hoff))
  · rename_i hno
    exact absurd he (hno e)

end Refused

/-- Every station command but HELLO and READ_CLOCK makes the checks of R88 before its own part. -/
theorem exec_stationCommand {i : Instr} (h : control? i = some (c, cmd)) (hm : cmd.managerOnly = false) (hh : cmd ≠ .hello)
    (hr : cmd ≠ .readClock) : ∃ k, ∀ s, exec i s = .next (stationCommand c cmd k s) := by
  cases i <;> cases h
  case hello => exact absurd rfl hh
  case readClock => exact absurd rfl hr
  case readPosition | stop | requestWork | accept | decline | keep | complete | returnTake | cue | save | play | pause | setNotice |
      setMix | addNote | listen | requestArchive | archived | archiveFailed | credit => exact ⟨_, fun _ => rfl⟩
  all_goals cases hm

end Sys2Proof.Machine

open Sys2Proof Sys2Proof.Machine in
/-- Settles O6: the three refusals are the first three branches of the checks that every such command makes. -/
theorem stationChecksComeInOrder : Obligations.StationChecksComeInOrder := by
  intro i c cmd s h hm hh hr hp hs
  obtain ⟨k, hk⟩ := exec_stationCommand h hm hh hr
  rw [hk]
  exact ⟨fun ho => congrArg _ (stationCommand_of_config hp hs ho), fun ho hc => congrArg _ (stationCommand_of_not_permitted hp hs ho hc),
    fun e ho he hc hoff => congrArg _ (stationCommand_of_offline hp hs ho he hc hoff)⟩

/-! ## KEEP and CREDIT -/

namespace Sys2Proof.Machine

variable {s : State} {c : Ctl} {e : StationId} {k : Nat} {x : Take}

/-- The lease that a HOLDING station's KEEP answers has been restarted before the command's own part (R99). -/
theorem handled_keep_timer (hf : FromStationPlain c .keep e s) (hs : (s.station e).state = .holding) :
    ((handled c .keep s).station e).timer = some ⟨.lease, ticksOfMin s.timeouts.lease⟩ := by
  obtain ⟨⟨_, hsend, hop, _⟩, _⟩ := hf
  rw [handled_station_of_sender hsend]
  exact if_pos ⟨rfl, hop, hs⟩

section Commands
variable (hk : (s.station e).take = some k) (h : s.take? k = some x)
include hk h

theorem exec_keep_of (hf : FromStationPlain c .keep e s) (hs : (s.station e).state = .holding) :
    exec (.keep c) s = .next (respond c .keep .ok (bytesOf 4 (ticksOfMin s.timeouts.lease)) (handled c .keep s)) :=
  congrArg Host.Outcome.next ((plainStationCommand_of hf).trans
    ((withStationTake_of ((handled_stationTake e).trans hk) ((handled_take k).trans h) ((handled_state e).trans hs)).trans
      (by rw [handled_keep_timer hf hs]; rfl)))

theorem exec_credit_of {n : Word} (hf : FromStationPlain c .credit e s) (hs : (s.station e).state = .archiving) :
    exec (.credit c n) s = .next (respond c .credit .ok (creditFields (addCredits e n.toNat (handled c .credit s)) e k)
      (addCredits e n.toNat (handled c .credit s))) :=
  congrArg Host.Outcome.next ((plainStationCommand_of hf).trans
    (withStationTake_of ((handled_stationTake e).trans hk) ((handled_take k).trans h) ((handled_state e).trans hs)))

end Commands

theorem addCredits_context (n : Nat) :
    (addCredits e n s).context e = { s.context e with credits := min 4096 ((s.context e).credits + n) } :=
  s.context_updContext e fun x => { x with credits := satAdd Config.maxCredits x.credits n }

theorem addCredits_take (n : Nat) : (addCredits e n s).take? k = s.take? k := rfl

theorem creditFields_of (h : s.take? k = some x) : creditFields s e k =
    bytesOf 2 (s.context e).credits ++ positionBytes (s.context e).position ++ bytesOf 3 x.cells ++
      bytesOf 2 (s.context e).markersSent ++ bytesOf 2 x.markers.length := by
  unfold creditFields
  rw [cellsOf_of h, h]
  rfl

end Sys2Proof.Machine

open Sys2Proof Sys2Proof.Machine in
/-- Settles O26: KEEP answers the lease restarted as the command was noted, and CREDIT answers the context with its credits added. -/
theorem timerRestartsComplete : Obligations.TimerRestartsComplete := by
  intro c e k t s hk h
  refine ⟨fun hf hs => ⟨exec_keep_of hk h hf hs, handled_keep_timer hf hs⟩, fun n hf hs => ?_⟩
  have ht : (addCredits e n.toNat (handled c .credit s)).take? k = some t := (addCredits_take _).trans ((handled_take k).trans h)
  rw [exec_credit_of hk h hf hs, creditFields_of ht, addCredits_context, handled_context, ← handled_timeouts (c := c) (cmd := .credit)]
  rfl

/-! ## STOP and READ_POSITION -/

namespace Sys2Proof.Machine

variable {s t : State} {c : Ctl} {e : StationId}

theorem exec_stop_of (hf : FromStationPlain c .stop e s) (hb : (s.context e).state ≠ .bulk) :
    exec (.stop c) s = .next (respond c .stop .ok [] (detach e (handled c .stop s))) :=
  congrArg Host.Outcome.next ((plainStationCommand_of hf).trans (if_neg (by rw [handled_context]; exact hb)))

theorem exec_stop_bulk (hf : FromStationPlain c .stop e s) (hb : (s.context e).state = .bulk) :
    exec (.stop c) s = .next (respond c .stop .wrongState [] (handled c .stop s)) :=
  congrArg Host.Outcome.next ((plainStationCommand_of hf).trans (if_pos (by rw [handled_context]; exact hb)))

theorem exec_readPosition_of (hf : FromStation c .readPosition e s) :
    exec (.readPosition c) s =
      .next (respond c .readPosition .ok (contextRecord (handled c .readPosition s) e) (handled c .readPosition s)) :=
  congrArg Host.Outcome.next (stationCommand_of hf)

theorem detach_of_detached (h : (s.context e).take = none) : detach e s = s := by
  unfold detach
  rw [h]

/-- The station entry after its context is detached: a LISTENING station is IDLE, and no more changes (R86, R131). -/
theorem detach_station (h : (s.context e).take ≠ none) : (detach e s).station e =
    { s.station e with state := if (s.station e).state = .listening then .idle else (s.station e).state } := by
  obtain ⟨k, hk⟩ := Option.ne_none_iff_exists'.1 h
  have hu : (detach e s).station e = (endListening e (s.updContext e fun x => stoppedContext x.mix)).station e := by
    unfold detach State.station
    rw [hk]
    exact congrArg (·.stations[e]) (unpin_handOff ..)
  rw [hu]
  unfold endListening
  rw [State.updContext_station]
  split
  · rw [State.station_updStation, State.updContext_station]
  · rfl

/-- What READ_POSITION answers is read from the contexts and the Take Table alone (R142). -/
theorem contextRecord_of_same (hc : t.context e = s.context e) (ht : t.takeTable = s.takeTable) :
    contextRecord t e = contextRecord s e := by
  unfold contextRecord State.take?
  rw [hc, ht]

end Sys2Proof.Machine

open Sys2Proof Sys2Proof.Machine in
/-- Settles O31: STOP is the detachment of its station's context, which does nothing to a STOPPED one. -/
theorem stopAndReadPositionComplete : Obligations.StopAndReadPositionComplete := by
  intro c e s
  refine ⟨fun hf => ⟨fun ht hb => ?_, fun ht hb => ?_, exec_stop_bulk hf⟩, fun hf => ?_⟩
  · rw [exec_stop_of hf hb, detach_of_detached (by rw [handled_context]; exact ht)]
  · have ht' : ((handled c .stop s).context e).take ≠ none := by rw [handled_context]; exact ht
    refine ⟨_, exec_stop_of hf hb, ?_, ?_, ?_, fun q hq => ?_⟩
    · rw [detach_context e _ ht', handled_context]
    · rw [detach_station ht']
      exact handled_stationTake e
    · rw [detach_station ht', handled_state]
    · rw [detach_context_ne (Ne.symm hq), handled_context]
  · rw [exec_readPosition_of hf, contextRecord_of_same (handled_context e) handled_takeTable]

/-! ## REQUEST_WORK and ACCEPT -/

namespace Sys2Proof.Machine

variable {s t : State} {c : Ctl} {e : StationId} {j k : Nat} {x : Take} {mix : Mix}

/-! ### REQUEST_WORK (R93) -/

/-- The search for work reads the pools, the takes and the station's configuration, which noting a frame leaves alone (R93). -/
theorem Noted.searchWork (h : Noted s t) (e : StationId) : t.searchWork (t.station e) = s.searchWork (s.station e) := by
  have hpool : t.pool = s.pool := funext h.pool
  unfold State.searchWork Station.eligible
  simp only [h.config, h.take, hpool]

theorem exec_requestWork_offered (hf : FromStation c .requestWork e s) (hs : (s.station e).state = .idle)
    (hw : s.searchWork (s.station e) = some k) (h : s.take? k = some x) :
    exec (.requestWork c) s =
      .next (respond c .requestWork .ok (bytesOf 1 0 ++ bytesOf 2 x.number) (offer k e (handled c .requestWork s))) := by
  refine congrArg Host.Outcome.next ((stationCommand_of hf).trans ((if_neg (not_not.2 ((handled_state e).trans hs))).trans ?_))
  rw [handled_noted.searchWork, hw]
  dsimp only
  rw [handled_numberOf, numberOf_of h]

/-- A station that no take is found for joins the wait list's tail (R93). -/
def beginWaiting (e : StationId) (s : State) : State :=
  (s.updStation e fun x => { x with state := .waiting }).updWait fun q => q ++ [e]

theorem beginWaiting_station (e : StationId) (s : State) :
    (beginWaiting e s).station e = { s.station e with state := .waiting } :=
  s.station_updStation e fun x => { x with state := .waiting }

theorem exec_requestWork_waiting (hf : FromStation c .requestWork e s) (hs : (s.station e).state = .idle)
    (hw : s.searchWork (s.station e) = none) :
    exec (.requestWork c) s = .next (respond c .requestWork .ok (bytesOf 1 1 ++ bytesOf 2 s.handOff.wait.length)
      (beginWaiting e (handled c .requestWork s))) := by
  refine congrArg Host.Outcome.next ((stationCommand_of hf).trans ((if_neg (not_not.2 ((handled_state e).trans hs))).trans ?_))
  rw [handled_noted.searchWork, hw, handled_noted.wait]
  rfl

/-! ### A take that gains a pin as its reader comes -/

/-- A release of another take, with the check of the reserves it can start, leaves a pinned take alone (R34, R131). -/
theorem unpin_take_of_pinned (h : s.take? k = some x) (hp : x.pins ≠ 0) (hj : k ≠ j) : (unpin j s).take? k = some x := by
  have hu : (s.updTake j fun t => { t with pins := t.pins - 1 }).take? k = some x := by rw [take_updTake, if_neg hj, h]
  unfold unpin
  dsimp only
  split
  · exact checkReserves_pressed.kept k x hu (by simp [Take.reclaimable, hp])
  · exact hu

/-- The take that a context comes to is pinned before the one it leaves is released, so it stays whatever its lifecycle (R131). -/
theorem attach_take_pinned (h : s.take? k = some x) (hne : (s.context e).take ≠ some k) :
    (attach e k mix s).take? k = some { x with pins := x.pins + 1 } := by
  have hpin : ∀ f : Context → Context, (becomeListening e (setPosition e k 0 ((pin k s).updContext e f))).take? k =
      some { x with pins := x.pins + 1 } := fun f => by
    have hk : (pin k s).take? k = some { x with pins := x.pins + 1 } := by
      unfold pin
      rw [take_updTake, if_pos rfl, h]
      rfl
    unfold State.take?
    rw [becomeListening_takes]
    exact hk
  unfold attach
  dsimp only
  split
  · rename_i o ho
    exact unpin_take_of_pinned (hpin _) (Nat.succ_ne_zero _) fun hk => hne (by rw [ho, hk])
  · exact hpin _

/-! ### ACCEPT (R98) -/

theorem attachAccepted_handOff (hc : (s.station e).config.cls ≠ .readback) : (attachAccepted e k s).handOff = s.handOff := by
  unfold attachAccepted
  dsimp only
  split
  · rfl
  · exact attach_handOff k _ hc

theorem attachAccepted_take (h : s.take? k = some x) : HoldsBut k x (attachAccepted e k s) := by
  unfold attachAccepted
  dsimp only
  split
  · exact holdsBut_of_take h
  · exact ⟨_, attach_take_pinned h ‹_›⟩

/-- The context of an accepting station is PAUSED at the take's first cell with the default mix, and nothing saved (R98). -/
structure AtStart (k : Nat) (mix : Mix) (x : Context) : Prop where
  take : x.take = some k
  state : x.state = .paused
  position : x.position = some 0
  mix : x.mix = mix
  saved : x.saved = none
  notice : x.notice = none
  flags : x.flags = none

theorem attachAccepted_context : AtStart k (s.station e).config.mix ((attachAccepted e k s).context e) := by
  unfold attachAccepted
  dsimp only
  split
  · rw [State.context_updContext, setPosition_context]
    exact ⟨‹_›, rfl, rfl, rfl, rfl, rfl, rfl⟩
  · rw [attach_context]
    exact ⟨rfl, rfl, rfl, rfl, rfl, rfl, rfl⟩

/-- An accepted offer before the station's context is attached: the take ASSIGNED, the station HOLDING with its lease running (R98). -/
def State.accepting (s : State) (e : StationId) (k : Nat) (x : Take) : State :=
  (s.setTake k { x with transcription := some .assigned }).updStation e fun y =>
    { y with state := .holding, timer := some ⟨.lease, ticksOfMin s.timeouts.lease⟩ }

theorem accepting_station : (s.accepting e k x).station e =
    { s.station e with state := .holding, timer := some ⟨.lease, ticksOfMin s.timeouts.lease⟩ } :=
  State.station_updStation ..

theorem acceptOffer_of (h : s.take? k = some x) : acceptOffer e k s = attachAccepted e k (s.accepting e k x) := by
  unfold acceptOffer
  rw [State.updTake_some _ _ h]
  rfl

theorem acceptOffer_station (h : s.take? k = some x) (hc : (s.station e).config.cls ≠ .readback) :
    (acceptOffer e k s).station e =
      { s.station e with state := .holding, timer := some ⟨.lease, ticksOfMin s.timeouts.lease⟩ } := by
  rw [acceptOffer_of h, ← accepting_station (k := k) (x := x)]
  unfold State.station
  rw [attachAccepted_handOff (by rw [accepting_station]; exact hc)]

theorem acceptOffer_take (h : s.take? k = some x) :
    HoldsBut k { x with transcription := some .assigned } (acceptOffer e k s) := by
  rw [acceptOffer_of h]
  exact attachAccepted_take mapGet_mapSet_same

theorem acceptOffer_context (h : s.take? k = some x) :
    AtStart k (s.station e).config.mix ((acceptOffer e k s).context e) := by
  have ha : AtStart k ((s.accepting e k x).station e).config.mix ((attachAccepted e k (s.accepting e k x)).context e) :=
    attachAccepted_context
  rw [accepting_station] at ha
  rw [acceptOffer_of h]
  exact ha

theorem exec_accept_of (hk : (s.station e).take = some k) (h : s.take? k = some x) (hf : FromStationPlain c .accept e s)
    (hs : (s.station e).state = .offered) : exec (.accept c) s =
      .next (respond c .accept .ok (bytesOf 2 x.number ++ bytesOf 3 x.cells) (acceptOffer e k (handled c .accept s))) :=
  congrArg Host.Outcome.next ((plainStationCommand_of hf).trans
    ((withStationTake_of ((handled_stationTake e).trans hk) ((handled_take k).trans h) ((handled_state e).trans hs)).trans
      (by rw [handled_numberOf, numberOf_of h, handled_cellsOf, cellsOf_of h])))

/-- A READBACK station does not pass the checks of an ACCEPT (R183). -/
theorem cls_ne_readback_of_accept (hf : FromStation c .accept e s) : (s.station e).config.cls ≠ .readback := by
  obtain ⟨_, _, _, hpermits, _⟩ := hf
  intro hc
  rw [hc] at hpermits
  exact absurd hpermits (by decide)

end Sys2Proof.Machine

open Sys2Proof Sys2Proof.Machine in
/-- Settles O23: the take found is offered on the state with the request noted, or the station joins the wait list there. An accepted take is
pinned, or has its reader already, before another take is released, so no reclaim that follows can free it. -/
theorem workIsGivenOut : Obligations.WorkIsGivenOut := by
  refine ⟨fun c e s hf hs => ⟨fun k t hw h => ?_, fun hw => ?_⟩, fun c e k t s hf hs hk h => ?_⟩
  · have hn : Noted s (handled c .requestWork s) := handled_noted
    have ht := (hn.take k).trans h
    have hst := offer_station (e := e) ht
    refine ⟨_, exec_requestWork_offered hf hs hw h, by rw [hst], by rw [hst], by rw [hst, hn.timeouts], ?_, ?_, ?_, ?_, ?_⟩
    · rw [offer_take ht, hn.config]
      rfl
    · rw [offer_pool ht, if_pos rfl, hn.pool]
    · rw [offer_wait ht, hn.wait]
    · rw [offer_offersMade ht, hn.counters]
    · rw [offer_context ht, hn.context]
  · have hn : Noted s (handled c .requestWork s) := handled_noted
    exact ⟨_, exec_requestWork_waiting hf hs hw, by rw [beginWaiting_station], congrArg (· ++ [e]) hn.wait, hn.takeTable⟩
  · have hn : Noted s (handled c .accept s) := handled_noted
    have ht := (hn.take k).trans h
    have hcls : ((handled c .accept s).station e).config.cls ≠ .readback := by rw [hn.config]; exact cls_ne_readback_of_accept hf.1
    have hst := acceptOffer_station ht hcls
    have hctx := acceptOffer_context (e := e) ht
    exact ⟨_, exec_accept_of hk h hf hs, by rw [hst], by rw [hst]; exact (handled_stationTake e).trans hk, by rw [hst, hn.timeouts],
      hctx.take, hctx.state, hctx.position, by rw [hctx.mix, hn.config], hctx.saved, hctx.notice, hctx.flags,
      (acceptOffer_take ht).unpinned⟩

/-! ## The station expiries -/

namespace Sys2Proof.Machine

variable {s t u v : State} {e : StationId} {k : Nat} {x y : Take} {p : Port} {fr : Frame} {why : Withdrawal} {a : Alert}
  {f : HandOffCounters → HandOffCounters}

/-! ### The entry of a station put at rest -/

/-- A detachment writes no more of its station's entry than the state (R86, R131). -/
theorem detach_station_but_state (e : StationId) (s : State) :
    (detach e s).station e = { s.station e with state := ((detach e s).station e).state } := by
  by_cases h : (s.context e).take = none
  · rw [detach_of_detached h]
  · rw [detach_station h]

/-- A station at rest, its configuration, misses and last port as before (R96, R107). -/
def Station.rested (x : Station) : Station := { x with state := .idle, take := none, timer := none }

theorem makeIdle_released (h : u.station e = (released e s).station e) : (makeIdle e u).station e = (s.station e).rested := by
  have hr : (released e s).station e = { s.station e with timer := none, state := ((released e s).station e).state } := by
    unfold released
    rw [detach_station_but_state, State.station_updStation]
  have hm : (makeIdle e u).station e = (u.station e).rested := u.station_updStation e Station.rested
  rw [hm, h, hr]
  rfl

theorem returnToPool_station : (returnToPool e k s).station e = (s.station e).rested := by
  unfold returnToPool
  dsimp only
  refine makeIdle_released ?_
  split <;> rfl

theorem giveBackTransfer_station (hk : (s.station e).take = some k) : (giveBackTransfer e s).station e = (s.station e).rested := by
  rw [giveBackTransfer_of hk]
  exact makeIdle_released (State.updTake_station ..)

/-! ### A frame among others -/

theorem originate_full (h : ¬(s.port p).originate.length < 512) : ((originate p fr s).port p).originate = (s.port p).originate := by
  have h' : ¬(s.port p).originate.length < Config.originateFrames := h
  unfold originate
  rw [if_neg h', State.port_updPort]

/-- A frame sent after some frames and before others stands between them, said where the list did not fill up (R171). -/
theorem originate_among (hs : (s.port p).Grown (t.port p)) (hu : ((originate p fr t).port p).Grown (u.port p))
    (hl : (u.port p).originate.length < 512) : ∃ earlier later,
      (u.port p).originate.map Queued.frame = (s.port p).originate.map Queued.frame ++ earlier ++ [fr] ++ later := by
  obtain ⟨later, hlater⟩ := hu.2 hl
  have hlen := congrArg List.length hlater
  simp only [List.length_map, List.length_append] at hlen
  have hroom : (t.port p).originate.length < 512 := by
    by_contra hfull
    rw [originate_full hfull] at hlen
    omega
  obtain ⟨earlier, hearlier⟩ := hs.2 hroom
  refine ⟨earlier, later, ?_⟩
  rw [hlater, originate_originate p fr hroom, List.map_append, hearlier]
  rfl

/-! ### What an expiry adds -/

/-- What the three expiries add to a give-back: a miss, the WITHDRAWN notice, the alert, the block's counter (R97, R102, R108). -/
def lapse (e : StationId) (why : Withdrawal) (a : Alert) (f : HandOffCounters → HandOffCounters) (n : Nat) (s : State) : State :=
  (reportAlert a (withdrawnNotice e n why (addMiss e s))).countHandOff f

theorem addMiss_station (e : StationId) (s : State) :
    (addMiss e s).station e = { s.station e with misses := satAdd 255 (s.station e).misses 1 } :=
  s.station_updStation e fun x => { x with misses := satAdd 255 x.misses 1 }

theorem lapse_station (n : Nat) : (lapse e why a f n s).station e = { s.station e with misses := satAdd 255 (s.station e).misses 1 } :=
  ((reportAlert_told a _).station e).trans (((stationNotice_told e _ _).station e).trans (addMiss_station e s))

theorem lapse_handOff (n : Nat) : (lapse e why a f n s).handOff = { (addMiss e s).handOff with counters := f s.handOff.counters } := by
  have hh : (reportAlert a (withdrawnNotice e n why (addMiss e s))).handOff = (addMiss e s).handOff :=
    (reportAlert_told a _).handOff.trans (stationNotice_told e _ _).handOff
  exact congrArg (fun q : HandOff => { q with counters := f q.counters }) hh

theorem lapse_take (n : Nat) : (lapse e why a f n s).take? k = s.take? k :=
  ((reportAlert_told a _).take k).trans ((stationNotice_told e _ _).take k)

theorem lapse_context (n : Nat) : (lapse e why a f n s).context e = s.context e :=
  ((reportAlert_told a _).context e).trans ((stationNotice_told e _ _).context e)

theorem lapse_pool (n : Nat) (q : PoolId) : (lapse e why a f n s).pool q = s.pool q := by
  unfold State.pool
  rw [lapse_handOff]
  rfl

theorem Writes.node {rooms ports : Bool} (h : Writes rooms ports s t) : t.link.node = s.link.node := by rw [h.path]

/-- The WITHDRAWN notice of a lapse stands among the frames of the event (R109). -/
theorem lapse_withdrawnSent (hw : Writes false false s v) (hst : v.station e = (s.station e).rested) :
    WithdrawnSent e x why s (lapse e why a f x.number v) := by
  have hnotice : withdrawnNotice e x.number why (addMiss e v) = originate (s.station e).lastPort
      (mkFrame (s.station e).config.node s.link.node kindNotice (bytesOf 1 2 ++ bytesOf 2 x.number ++ bytesOf 1 why.code))
      (addMiss e v) := by
    unfold withdrawnNotice stationNotice State.deviceFrame
    rw [addMiss_station, hst, ← hw.node]
    rfl
  have hbefore : Writes false false s (addMiss e v) := hw.updStation
  have hafter : Writes false false (withdrawnNotice e x.number why (addMiss e v)) (lapse e why a f x.number v) :=
    (reportAlert_writes a).countHandOff
  rw [hnotice] at hafter
  exact originate_among (hbefore.grown rfl _) (hafter.grown rfl _)

/-- What an expiry leaves, from the state `s` before, of a take that reads `y` once given back: the station at rest with a miss more, its notice
sent, the alert latched, the counter raised. -/
structure Lapsed (e : StationId) (k : Nat) (x y : Take) (why : Withdrawal) (a : Alert) (f : HandOffCounters → HandOffCounters)
    (s u : State) : Prop where
  rest : AtRest e u
  misses : (u.station e).misses = min 255 ((s.station e).misses + 1)
  take : HoldsBut k y u
  sent : WithdrawnSent e x why s u
  latched : u.latched a = true
  counters : u.handOff.counters = f s.handOff.counters
  wait : u.handOff.wait = s.handOff.wait

theorem lapse_lapsed (hend : Ended e k y s v) (hst : v.station e = (s.station e).rested) (hw : Writes false false s v) :
    Lapsed e k x y why a f s (lapse e why a f x.number v) where
  rest := by
    unfold AtRest
    rw [lapse_station, lapse_context]
    exact hend.rest
  misses := by
    rw [lapse_station, hst]
    rfl
  take := hend.take.of_take (lapse_take _)
  sent := lapse_withdrawnSent hw hst
  latched := reportAlert_latched a _
  counters := by rw [lapse_handOff, hend.counters]
  wait := by
    rw [lapse_handOff]
    exact hend.wait

/-! ### The commands (R97, R102, R108) -/

/-- An expiry of an offer or a hold with no station waiting: the lapse follows steps 1 to 4 of R96, and the arbiter finds no one (R94). -/
theorem giveBack_lapsed (hk : (s.station e).take = some k) (h : s.take? k = some x) (hr : x.lifecycle ≠ .retained)
    (hw : s.handOff.wait = []) :
    Lapsed e k x { x with transcription := some .pending, holder := none } why a f s (giveBack e (lapse e why a f) s) ∧
      (giveBack e (lapse e why a f) s).pool x.pool = k :: s.pool x.pool := by
  obtain ⟨hend, hpool⟩ := returnToPool_ended (e := e) h hr
  have hlapse : Lapsed e k x _ why a f s (lapse e why a f x.number (returnToPool e k s)) :=
    lapse_lapsed hend returnToPool_station (returnToPool_writes e k)
  obtain ⟨n, hn⟩ := hlapse.take
  have heq : giveBack e (lapse e why a f) s = lapse e why a f x.number (returnToPool e k s) := by
    unfold giveBack
    rw [hk]
    dsimp only
    rw [numberOf_of h]
    exact arrive_stays hn (firstWaiting_none_of_wait (hlapse.wait.trans hw))
  rw [heq]
  exact ⟨hlapse, (lapse_pool _ _).trans hpool⟩

/-- An expiry of a transfer: the lapse follows steps 1 to 4 of R107. -/
theorem giveBackTransfer_lapsed (hk : (s.station e).take = some k) (h : s.take? k = some x) (hr : x.lifecycle ≠ .retained) :
    Lapsed e k x x.unarchivedAgain why a f s (lapse e why a f x.number (giveBackTransfer e s)) ∧
      (lapse e why a f x.number (giveBackTransfer e s)).handOff.archive = k :: s.handOff.archive := by
  obtain ⟨hend, hqueue⟩ := giveBackTransfer_ended hk h hr
  refine ⟨lapse_lapsed hend (giveBackTransfer_station hk) (giveBackTransfer_writes e), ?_⟩
  rw [lapse_handOff]
  exact hqueue

section Due
variable (hp : s.power = .on)
include hp

theorem exec_offerExpiry_due (hs : (s.station e).state = .offered) (ht : (s.station e).timer = some ⟨.offer, 0⟩) :
    exec (.offerExpiry e) s =
      .next (giveBack e (lapse e .offerExpired .offerExpired fun q => { q with offersExpired := q.offersExpired + 1 }) s) :=
  congrArg Host.Outcome.next ((if_pos hp).trans (if_pos ⟨hs, beq_iff_eq.2 ht⟩))

theorem exec_leaseExpiry_due (hs : (s.station e).state = .holding) (ht : (s.station e).timer = some ⟨.lease, 0⟩) :
    exec (.leaseExpiry e) s =
      .next (giveBack e (lapse e .leaseExpired .leaseExpired fun q => { q with leasesExpired := q.leasesExpired + 1 }) s) :=
  congrArg Host.Outcome.next ((if_pos hp).trans (if_pos ⟨hs, beq_iff_eq.2 ht⟩))

theorem exec_stallExpiry_due (hk : (s.station e).take = some k) (h : s.take? k = some x) (hs : (s.station e).state = .archiving)
    (ht : (s.station e).timer = some ⟨.stall, 0⟩) :
    exec (.stallExpiry e) s =
      .next (lapse e .stall .archiveStall (fun q => { q with archiveStalls := q.archiveStalls + 1 }) x.number (giveBackTransfer e s)) := by
  refine congrArg Host.Outcome.next ((if_pos hp).trans ((if_pos ⟨hs, beq_iff_eq.2 ht⟩).trans ?_))
  unfold stallTransfer
  rw [hk, Option.getD_some, numberOf_of h]
  rfl

end Due

/-- With main power or without, a command that would leave a powered device as it is leaves this one as it is. -/
theorem whenOn_of_same {g : State → State} (h : g s = s) : whenOn s g = s := by
  unfold whenOn
  rw [h, ite_self]

theorem not_due {kind : TimerKind} (h : (s.station e).timer ≠ some ⟨kind, 0⟩) : ¬(s.station e).due kind = true := fun hd =>
  h (beq_iff_eq.1 hd)

end Sys2Proof.Machine

open Sys2Proof Sys2Proof.Machine in
/-- Settles O27: an expiry is a give-back and a lapse, whose notice stands among the alerts that the detachment and the lapse report; with no
station waiting the arbiter adds nothing. An expiry that is not due fails its own test. -/
theorem expiriesComplete : Obligations.ExpiriesComplete := by
  refine ⟨fun e k t s hp hk h hl hw => ?_, fun e s => ⟨fun ht => ?_, fun ht => ?_, fun ht => ?_, fun ht => ?_, fun hd => ?_⟩⟩
  · have hr : t.lifecycle ≠ .retained := by rw [hl]; nofun
    refine ⟨fun hs ht => ?_, fun hs ht => ?_, fun hs ht => ?_⟩
    · obtain ⟨hlap, hpool⟩ := giveBack_lapsed (why := .offerExpired) (a := .offerExpired)
        (f := fun q => { q with offersExpired := q.offersExpired + 1 }) hk h hr hw
      exact ⟨_, exec_offerExpiry_due hp hs ht, hlap.rest, hlap.misses, hpool, hlap.take.unpinned, hlap.sent, hlap.latched,
        congrArg (·.offersExpired) hlap.counters⟩
    · obtain ⟨hlap, hpool⟩ := giveBack_lapsed (why := .leaseExpired) (a := .leaseExpired)
        (f := fun q => { q with leasesExpired := q.leasesExpired + 1 }) hk h hr hw
      exact ⟨_, exec_leaseExpiry_due hp hs ht, hlap.rest, hlap.misses, hpool, hlap.take.unpinned, hlap.sent, hlap.latched,
        congrArg (·.leasesExpired) hlap.counters⟩
    · obtain ⟨hlap, hqueue⟩ := giveBackTransfer_lapsed (why := .stall) (a := .archiveStall)
        (f := fun q => { q with archiveStalls := q.archiveStalls + 1 }) hk h hr
      exact ⟨_, exec_stallExpiry_due hp hk h hs ht, hlap.rest, hlap.misses, hqueue, hlap.take.unpinned, hlap.sent, hlap.latched,
        congrArg (·.archiveStalls) hlap.counters⟩
  · exact congrArg _ (whenOn_of_same (if_neg fun hd => not_due ht hd.2))
  · exact congrArg _ (whenOn_of_same (if_neg fun hd => not_due ht hd.2))
  · exact congrArg _ (whenOn_of_same (if_neg fun hd => not_due ht hd.2))
  · exact congrArg _ (whenOn_of_same (if_neg fun hd => ht hd.2))
  · exact congrArg _ (whenOn_of_same (if_neg (by rw [hd]; nofun)))

/-! ## HELLO -/

namespace Sys2Proof.Machine

variable {s v : State} {c : Ctl} {e q : StationId} {k : Nat} {x : Take} {leaving : Bool}

/-! ### What the arbiter writes into the station table -/

theorem offer_station_ne (h : q ≠ e) : (offer k e s).station q = s.station q := by
  rcases hx : s.take? k with _ | x
  · unfold offer
    rw [hx]
  · have hq : (s.offering k e x).station q = s.station q := by
      unfold State.offering
      rw [State.countHandOff_station, State.station_updStation_ne _ _ (Ne.symm h)]
      rfl
    exact ((offer_told hx).station q).trans hq

/-- A station that has been offered the take of a slot (R95). -/
def Station.offeredSlot (x : Station) (k : Nat) (ticks : Nat) : Station :=
  { x with state := .offered, take := some k, timer := some ⟨.offer, ticks⟩ }

/-- The arbiter changes no station, or the one of the wait list to which it makes its offer (R94, R95). -/
theorem arrive_station (k : Nat) (s : State) (q : StationId) : (arrive k s).station q = s.station q ∨
    q ∈ s.handOff.wait ∧ (arrive k s).station q = (s.station q).offeredSlot k (ticksOfS s.timeouts.accept) := by
  rcases hx : s.take? k with _ | x
  · unfold arrive
    rw [hx]
    exact .inl rfl
  · rcases hw : s.firstWaiting x with _ | e
    · rw [arrive_stays hx hw]
      exact .inl rfl
    · rw [arrive_offered hx hw]
      by_cases hq : q = e
      · subst hq
        exact .inr ⟨List.mem_of_find?_eq_some hw, offer_station (s := s.updWait fun q => q.filter (· != _)) hx⟩
      · exact .inl (offer_station_ne hq)

/-! ### What was under way -/

/-- The part of a station entry that no offer, hold or transfer writes: its configuration and its misses (R84, R85). -/
def Station.standing (x : Station) : StationConfig × Nat := (x.config, x.misses)

theorem arrive_standing : ((arrive k s).station q).standing = (s.station q).standing := by
  rcases arrive_station k s q with h | ⟨_, h⟩
  · rw [h]
  · rw [h]
    rfl

theorem giveBack_standing (f : HandOffCounters → HandOffCounters) :
    ((giveBack e (fun _ u => u.countHandOff f) s).station e).standing = (s.station e).standing := by
  unfold giveBack
  split
  · rfl
  · rename_i k _
    have hst : ((returnToPool e k s).countHandOff f).station e = (s.station e).rested := returnToPool_station
    rw [arrive_standing, hst]
    rfl

/-- A transfer's station has no take once it is given back, nor if it had none (R107). -/
theorem giveBackTransfer_stationTake : ((giveBackTransfer e s).station e).take = none := by
  rcases hk : (s.station e).take with _ | k
  · unfold giveBackTransfer
    rw [hk]
    exact hk
  · rw [giveBackTransfer_station hk]
    rfl

theorem giveBackTransfer_standing : ((giveBackTransfer e s).station e).standing = (s.station e).standing := by
  rcases hk : (s.station e).take with _ | k
  · unfold giveBackTransfer
    rw [hk]
  · rw [giveBackTransfer_station hk]
    rfl

theorem giveBackTransfer_counters : (giveBackTransfer e s).handOff.counters = s.handOff.counters := by
  rcases hk : (s.station e).take with _ | k
  · unfold giveBackTransfer
    rw [hk]
  · rw [giveBackTransfer_of hk]
    unfold workEnded makeIdle State.updArchive
    dsimp only
    rw [State.updStation_handOff_counters, updTake_handOff, released, detach_handOff]
    rfl

theorem endUnderWay_waiting (h : (s.station e).state = .waiting) : endUnderWay e s = s.updWait fun q => q.filter (· != e) := by
  unfold endUnderWay
  rw [h]

theorem endUnderWay_offered (h : (s.station e).state = .offered) : endUnderWay e s = giveBack e countDeclined s := by
  unfold endUnderWay
  rw [h]

theorem endUnderWay_holding (h : (s.station e).state = .holding) : endUnderWay e s = giveBack e countReturned s := by
  unfold endUnderWay
  rw [h]

theorem endUnderWay_archiving (h : (s.station e).state = .archiving) : endUnderWay e s = failArchive e s := by
  unfold endUnderWay
  rw [h]

theorem endUnderWay_standing : ((endUnderWay e s).station e).standing = (s.station e).standing := by
  unfold endUnderWay
  split
  · rfl
  · rfl
  · rfl
  · exact giveBack_standing _
  · exact giveBack_standing _
  · rfl
  · exact giveBackTransfer_standing

/-! ### The command -/

theorem sayHello_station : (sayHello e leaving s).station e =
    { (endUnderWay e s).station e with state := presenceState leaving } := by
  unfold sayHello
  rw [State.station_updStation, detach_station_but_state]

theorem sayHello_detached : ((sayHello e leaving s).context e).take = none := detach_take ..

/-- HELLO's detachment and the station's new state write no part of the Hand-off Unit but the station table. -/
theorem sayHello_handOff : (sayHello e leaving s).handOff =
    { (endUnderWay e s).handOff with stations := (sayHello e leaving s).handOff.stations } := by
  unfold sayHello State.updStation
  rw [detach_handOff]

/-- A station put at rest has no context left to detach. -/
theorem sayHello_of_rest (h : AtRest e (endUnderWay e s)) :
    sayHello e leaving s = (endUnderWay e s).updStation e fun x => { x with state := presenceState leaving } := by
  obtain ⟨_, _, _, hctx⟩ := h
  unfold sayHello
  rw [detach_of_detached hctx]

/-- HELLO of a station with an offer or a hold, with no station waiting: the take is PENDING at its pool's head (R87, R96). -/
theorem sayHello_gaveBack (f : HandOffCounters → HandOffCounters) (hn : Noted s v) (hk : (v.station e).take = some k)
    (h : s.take? k = some x) (hr : x.lifecycle ≠ .retained) (hw : s.handOff.wait = [])
    (hend : endUnderWay e v = giveBack e (fun _ u => u.countHandOff f) v) :
    ((sayHello e leaving v).station e).take = none ∧ ((sayHello e leaving v).station e).timer = none ∧
      (sayHello e leaving v).pool x.pool = k :: s.pool x.pool ∧
      (∃ y, (sayHello e leaving v).take? k = some y ∧
        y.unpinned = { x with transcription := some .pending, holder := none }.unpinned) ∧
      (sayHello e leaving v).handOff.counters = f s.handOff.counters := by
  obtain ⟨hrest, hpool, htake, hcount⟩ := giveBack_counted f hn hk h hr hw
  rw [← hend] at hrest hpool htake hcount
  rw [sayHello_station, sayHello_of_rest hrest]
  obtain ⟨_, hnone, htimer, _⟩ := hrest
  exact ⟨hnone, htimer, hpool, htake, hcount⟩

/-- HELLO of a station in a transfer: the take is UNARCHIVED at the archive queue's head (R87, R107). -/
theorem sayHello_gaveTransferBack (hn : Noted s v) (hk : (v.station e).take = some k) (h : s.take? k = some x)
    (hr : x.lifecycle ≠ .retained) (hs : (v.station e).state = .archiving) :
    ((sayHello e leaving v).station e).timer = none ∧ (sayHello e leaving v).handOff.archive = k :: s.handOff.archive ∧
      ∃ y, (sayHello e leaving v).take? k = some y ∧ y.unpinned = x.unarchivedAgain.unpinned := by
  obtain ⟨hend, hqueue⟩ := giveBackTransfer_ended hk ((hn.take k).trans h) hr
  have hrest : AtRest e (endUnderWay e v) := by
    rw [endUnderWay_archiving hs]
    exact hend.rest
  rw [sayHello_station, sayHello_of_rest hrest, endUnderWay_archiving hs]
  obtain ⟨_, _, htimer, _⟩ := hend.rest
  exact ⟨htimer, hqueue.trans (by rw [hn.archive]), hend.take.unpinned⟩

theorem handled_misses : ((handled c .hello s).station q).misses = (s.station q).misses := by
  obtain ⟨_, _, _, hmisses⟩ := handled_station (c := c) (cmd := .hello) (s := s) q
  exact hmisses

theorem handled_hello : handled c .hello s =
    (takenFrom c.port c.src s).countMgmt fun q => { q with controlTaken := q.controlTaken + 1 } := by
  unfold handled leaseEffect
  split <;> rfl

theorem exec_hello_of {b : Byte} (hp : s.power = .on) (he : s.sender c.src = .station e) (ho : c.ovr ≠ some 0)
    (hb : boolOfCode b = some leaving) : exec (.hello c b) s =
      .next (respond c .hello .ok (helloFields (s.station e)) (sayHello e leaving (handled c .hello s))) := by
  have hz : zeroOverride c = false := beq_eq_false_iff_ne.2 ho
  have hfields : helloFields ((handled c .hello s).station e) = helloFields (s.station e) := by
    unfold helloFields
    rw [handled_config, handled_state]
  refine congrArg Host.Outcome.next ((control_of hp (by rw [he]; nofun)).trans ?_)
  rw [he, hb, hz, ← handled_hello, ← hfields]

end Sys2Proof.Machine

open Sys2Proof Sys2Proof.Machine in
/-- Settles O22: what HELLO ends is a give-back as by DECLINE, RETURN or ARCHIVE_FAILED, after which its own detachment finds no context
attached; whatever it ends, an offer of the arbiter leaves the station's configuration and misses. -/
theorem helloCompletes : Obligations.HelloCompletes := by
  intro c b leaving e s hp he ho hb
  have hn : Noted s (handled c .hello s) := handled_noted
  have hstate : ((handled c .hello s).station e).state = (s.station e).state := handled_state e
  have hst := sayHello_station (e := e) (leaving := leaving) (s := handled c .hello s)
  have hhand := sayHello_handOff (e := e) (leaving := leaving) (s := handled c .hello s)
  obtain ⟨hconfig, hmisses⟩ := Prod.mk.inj (endUnderWay_standing (e := e) (s := handled c .hello s))
  refine ⟨_, exec_hello_of hp he ho hb, ?_, ?_, ?_, sayHello_detached, fun hs => ?_, fun hs => ⟨?_, ?_⟩,
    fun k t hk h hl => ⟨fun hs hw => ?_, fun hs => ?_⟩⟩
  · rw [hst]
    rfl
  · rw [hst]
    exact hconfig.trans (hn.config e)
  · rw [hst]
    exact hmisses.trans handled_misses
  · rw [hhand, endUnderWay_waiting (hstate.trans hs)]
    exact congrArg _ hn.wait
  · rw [hst, endUnderWay_archiving (hstate.trans hs)]
    exact giveBackTransfer_stationTake
  · rw [hhand, endUnderWay_archiving (hstate.trans hs), ← hn.counters]
    exact congrArg (·.archiveFailures + 1) giveBackTransfer_counters
  · have hr : t.lifecycle ≠ .retained := by rw [hl]; nofun
    rcases hs with hs | hs
    · obtain ⟨htake, htimer, hpool, hread, hcount⟩ := sayHello_gaveBack (leaving := leaving)
        (fun q => { q with offersDeclined := q.offersDeclined + 1 }) hn ((handled_stationTake e).trans hk) h hr hw
        (endUnderWay_offered (hstate.trans hs))
      exact ⟨htake, htimer, hpool, hread, fun _ => congrArg (·.offersDeclined) hcount, fun hs' => absurd (hs.symm.trans hs') nofun⟩
    · obtain ⟨htake, htimer, hpool, hread, hcount⟩ := sayHello_gaveBack (leaving := leaving)
        (fun q => { q with takesReturned := q.takesReturned + 1 }) hn ((handled_stationTake e).trans hk) h hr hw
        (endUnderWay_holding (hstate.trans hs))
      exact ⟨htake, htimer, hpool, hread, fun hs' => absurd (hs.symm.trans hs') nofun, fun _ => congrArg (·.takesReturned) hcount⟩
  · exact sayHello_gaveTransferBack hn ((handled_stationTake e).trans hk) h (by rw [hl]; nofun) (hstate.trans hs)

/-! ## A station's command acts for its own station -/

namespace Sys2Proof.Machine

variable {s t u : State} {c : Ctl} {cmd : CommandName} {e : StationId} {k : Nat}

/-- From `s` to `t` no context but that of `e` changed, and no other station, but for the offers that the arbiter made to stations of the wait
list; none but `e` joined that list (R88, R94, R130). -/
structure ActsFor (e : StationId) (s t : State) : Prop where
  context : ∀ q, q ≠ e → t.context q = s.context q
  station : ∀ q, q ≠ e → t.station q = s.station q ∨
    q ∈ s.handOff.wait ∧ (t.station q).state = .offered ∧ (t.station q).config = (s.station q).config
  wait : ∀ q, q ≠ e → q ∈ t.handOff.wait → q ∈ s.handOff.wait

theorem ActsFor.refl : ActsFor e s s := ⟨fun _ _ => rfl, fun _ _ => .inl rfl, fun _ _ h => h⟩

theorem ActsFor.trans (h : ActsFor e s t) (h' : ActsFor e t u) : ActsFor e s u where
  context q hq := (h'.context q hq).trans (h.context q hq)
  station q hq := by
    have hconfig : (t.station q).config = (s.station q).config := by
      rcases h.station q hq with ht | ⟨_, _, ht⟩
      · rw [ht]
      · exact ht
    rcases h'.station q hq with hu | ⟨hw, ho, hc⟩
    · rw [hu]
      exact h.station q hq
    · exact .inr ⟨h.wait q hq hw, ho, hc.trans hconfig⟩
  wait q hq hw := h.wait q hq (h'.wait q hq hw)

theorem ActsFor.of_desk (h : t.desk = s.desk) : ActsFor e s t :=
  ⟨fun q _ => context_of_desk h q, fun q _ => .inl (station_of_desk h q), fun q _ hw => by rw [← wait_of_desk h]; exact hw⟩

theorem unpin_desk (k : Nat) (s : State) : (unpin k s).desk = s.desk := by
  unfold State.desk
  rw [unpin_handOff, unpin_contexts]

/-- The arbiter writes no context, and only takes stations from the wait list (R94). -/
theorem arrive_context_wait (k : Nat) (s : State) :
    (∀ q, (arrive k s).context q = s.context q) ∧ ∀ q ∈ (arrive k s).handOff.wait, q ∈ s.handOff.wait := by
  rcases hx : s.take? k with _ | x
  · unfold arrive
    rw [hx]
    exact ⟨fun _ => rfl, fun _ h => h⟩
  · rcases hw : s.firstWaiting x with _ | e
    · rw [arrive_stays hx hw]
      exact ⟨fun _ => rfl, fun _ h => h⟩
    · have hx' : (s.updWait fun q => q.filter (· != e)).take? k = some x := hx
      rw [arrive_offered hx hw, offer_wait hx']
      exact ⟨fun q => offer_context hx' q, fun q h => (List.mem_filter.1 h).1⟩

/-! ### Operations -/

section Then
variable (h : ActsFor e s t)
include h

/-- An operation that writes neither stations, wait list nor contexts. -/
theorem ActsFor.aside (hd : u.desk = t.desk := by rfl) : ActsFor e s u := h.trans (.of_desk hd)

theorem ActsFor.respond (r : Result) (b : List Byte) : ActsFor e s (respond c cmd r b t) := h.aside (respond_told ..).desk

theorem ActsFor.updTake (f : Take → Take) : ActsFor e s (t.updTake k f) := h.aside (updTake_desk ..)

theorem ActsFor.updStation (f : Station → Station) : ActsFor e s (t.updStation e f) :=
  h.trans ⟨fun _ _ => rfl, fun _ hq => .inl (State.station_updStation_ne _ _ (Ne.symm hq)), fun _ _ hw => hw⟩

theorem ActsFor.updContext (f : Context → Context) : ActsFor e s (t.updContext e f) :=
  h.trans ⟨fun _ hq => State.context_updContext_ne _ _ (Ne.symm hq), fun _ _ => .inl rfl, fun _ _ hw => hw⟩

theorem ActsFor.setPosition (p : Nat) : ActsFor e s (setPosition e k p t) :=
  h.updContext fun x => { x with position := some p, located := some (t.locate k p) }

/-- The station leaves the wait list or joins it. -/
theorem ActsFor.updWait (f : List StationId → List StationId) (hf : ∀ q, q ≠ e → q ∈ f t.handOff.wait → q ∈ t.handOff.wait) :
    ActsFor e s (t.updWait f) := h.trans ⟨fun _ _ => rfl, fun _ _ => .inl rfl, hf⟩

theorem ActsFor.attach (mix : Mix) : ActsFor e s (attach e k mix t) := by
  have hb : ∀ f : Context → Context, ActsFor e s (becomeListening e (Machine.setPosition e k 0 ((pin k t).updContext e f))) := fun f => by
    unfold becomeListening
    split
    · exact (((h.updTake _).updContext f).setPosition 0).updStation _
    · exact ((h.updTake _).updContext f).setPosition 0
  unfold Machine.attach
  dsimp only
  split
  · exact (hb _).aside (unpin_desk ..)
  · exact hb _

theorem ActsFor.detach : ActsFor e s (detach e t) := by
  have hl : ∀ f : Context → Context, ActsFor e s (endListening e (t.updContext e f)) := fun f => by
    unfold endListening
    split
    · exact (h.updContext f).updStation _
    · exact h.updContext f
  unfold Machine.detach
  split
  · exact h
  · exact (hl _).aside (unpin_desk ..)

theorem ActsFor.released : ActsFor e s (released e t) := (h.updStation _).detach

theorem ActsFor.workEnded (f : Take → Take) : ActsFor e s (workEnded e k f t) := by
  unfold Machine.workEnded makeIdle
  exact (h.released.updTake f).updStation _

theorem ActsFor.retainIfDone : ActsFor e s (retainIfDone k t) := by
  obtain ⟨hh, hc⟩ := retainIfDone_keeps k t
  exact h.trans ⟨fun q _ => hc q, fun q _ => .inl (by unfold State.station; rw [hh]), fun q _ hw => by rw [← hh]; exact hw⟩

/-! ### Work given out and taken back -/

theorem ActsFor.offer : ActsFor e s (offer k e t) := by
  rcases hx : t.take? k with _ | x
  · unfold Machine.offer
    rw [hx]
    exact h
  · have ho : ActsFor e s (t.offering k e x) :=
      ((h.aside (u := (t.updPool x.pool fun q => q.filter (· != k)).setTake k (x.offeredTo (t.station e).config.node))).updStation
        fun y => { y with state := .offered, take := some k, timer := some ⟨.offer, ticksOfS t.timeouts.accept⟩ }).aside
    exact ho.aside (offer_told hx).desk

/-- The arbiter's offer is the one write to another station (R94). -/
theorem ActsFor.arrive : ActsFor e s (arrive k t) := by
  obtain ⟨hctx, hwait⟩ := arrive_context_wait k t
  refine h.trans ⟨fun q _ => hctx q, fun q _ => ?_, fun q _ => hwait q⟩
  rcases arrive_station k t q with hq | ⟨hw, hq⟩
  · exact .inl hq
  · rw [hq]
    exact .inr ⟨hw, rfl, rfl⟩

theorem ActsFor.returnToPool : ActsFor e s (returnToPool e k t) := by
  unfold Machine.returnToPool
  dsimp only
  split
  · exact h.released.aside.updStation _
  · exact h.released.updStation _

theorem ActsFor.giveBack (f : HandOffCounters → HandOffCounters) : ActsFor e s (giveBack e (fun _ u => u.countHandOff f) t) := by
  unfold Machine.giveBack
  split
  · exact h
  · exact h.returnToPool.aside.arrive

theorem ActsFor.failArchive : ActsFor e s (failArchive e t) := by
  have hg : ActsFor e s (giveBackTransfer e t) := by
    rcases hk : (t.station e).take with _ | k
    · unfold giveBackTransfer
      rw [hk]
      exact h
    · rw [giveBackTransfer_of hk]
      exact (h.workEnded _).aside
  exact hg.aside

theorem ActsFor.endUnderWay : ActsFor e s (endUnderWay e t) := by
  unfold Machine.endUnderWay
  split
  · exact h
  · exact h
  · exact h.updWait _ fun q _ hw => (List.mem_filter.1 hw).1
  · exact h.giveBack _
  · exact h.giveBack _
  · exact h
  · exact h.failArchive

theorem ActsFor.acceptOffer : ActsFor e s (acceptOffer e k t) := by
  have ha : ∀ u, ActsFor e s u → ActsFor e s (attachAccepted e k u) := fun u hu => by
    unfold attachAccepted
    dsimp only
    split
    · exact (hu.setPosition 0).updContext _
    · exact hu.attach _
  exact ha _ ((h.updTake _).updStation _)

theorem ActsFor.assignArchive : ActsFor e s (assignArchive e k t) :=
  (((((h.aside (u := t.updArchive fun q => q.filter (· != k))).updTake _).updStation _).attach _).updContext _).aside

/-! ### Playback -/

theorem ActsFor.writeResolution (z : Resolution) : ActsFor e s (writeResolution e k z t) :=
  (h.setPosition z.position).updContext _

theorem ActsFor.carryOutCue (x : Take) (z : Resolution) : ActsFor e s (carryOutCue e k x z t) := by
  unfold Machine.carryOutCue
  dsimp only
  split
  · exact (h.writeResolution z).updContext _
  · exact (h.attach _).writeResolution z

theorem ActsFor.startPlaying (x : Take) : ActsFor e s (startPlaying e k x t) := by
  unfold Machine.startPlaying
  dsimp only
  split
  · exact (h.writeResolution _).updContext _
  · exact h

theorem ActsFor.startListening (x : Take) : ActsFor e s (startListening e k x t) := by
  have ha : ActsFor e s (attachListener e k t) := by
    unfold attachListener
    split
    · exact h.updContext _
    · exact h.attach _
  unfold Machine.startListening
  exact ((ha.writeResolution _).updContext _).updStation _

theorem ActsFor.addNote (code : Word) (label : List Byte) (p : Nat) : ActsFor e s (addNote c code label k p t) := by
  have hp := placeMarker_desk k (noteMarker t c.src code label p) t
  unfold Machine.addNote
  split
  · rename_i heq
    rw [heq] at hp
    exact (h.aside hp).respond _ _
  · rename_i heq
    rw [heq] at hp
    have hl : ∀ u : State, (loseAnnotation k u).desk = u.desk := fun u => (reportAlert_told _ _).desk.trans (updTake_desk k _ u)
    exact ((h.aside hp).aside (hl _)).respond _ _

end Then

/-! ### The checks every command passes first -/

theorem takenFrom_actsFor {p : Port} {n : Byte} (h : s.sender n = .station e) : ActsFor e s (takenFrom p n s) := by
  have hn : Noted s (takenFrom p n s) := takenFrom_noted p n
  refine ⟨fun q _ => hn.context q, fun q hq => .inl (takenFrom_station_of_not_sender ?_), fun q _ hw => by rw [← hn.wait]; exact hw⟩
  rw [h]
  exact fun he => hq (Sender.station.inj he).symm

theorem leaseEffect_actsFor (cmd : CommandName) (e : StationId) (s : State) : ActsFor e s (leaseEffect cmd (.station e) s) := by
  unfold leaseEffect restartLease
  dsimp only
  split
  · split
    · exact ActsFor.refl.updStation _
    · exact .refl
  · exact .refl

theorem either_actsFor {p : Prop} [Decidable p] (h : ActsFor e s t) (h' : ActsFor e s u) : ActsFor e s (if p then t else u) := by
  split
  · exact h
  · exact h'

theorem respond_actsFor (r : Result) (b : List Byte) : ActsFor e s (respond c cmd r b s) := ActsFor.refl.respond r b

section Sender
variable (he : s.sender c.src = .station e)
include he

theorem control_actsFor {k : Sender → State → State} (h : ∀ u, ActsFor e u (k (.station e) u)) : ActsFor e s (control c cmd k s) := by
  by_cases hp : s.power = .on
  · rw [control_of hp (by rw [he]; nofun), he]
    exact (takenFrom_actsFor he).aside.trans (h _)
  · unfold control whenOn
    rw [if_neg hp]
    exact .refl

/-- A manager command from a station is refused (R183). -/
theorem managerCommand_actsFor (k : State → State) : ActsFor e s (managerCommand c cmd k s) :=
  control_actsFor he fun _ => respond_actsFor _ _

theorem stationCommand_actsFor {k : StationId → State → State} (h : ∀ u, ActsFor e u (k e u)) :
    ActsFor e s (stationCommand c cmd k s) :=
  control_actsFor he fun u => (leaseEffect_actsFor cmd e u).trans
    (either_actsFor (respond_actsFor _ _) (either_actsFor (respond_actsFor _ _) (either_actsFor (respond_actsFor _ _)
      (either_actsFor (respond_actsFor _ _) (h _)))))

theorem plainStationCommand_actsFor {k : StationId → State → State} (h : ∀ u, ActsFor e u (k e u)) :
    ActsFor e s (plainStationCommand c cmd k s) :=
  stationCommand_actsFor he fun u => either_actsFor (respond_actsFor _ _) (h u)

theorem writeEntry_actsFor (b : List Byte) : NextBy (ActsFor e) s (execWriteEntry c b s) :=
  nextBy (control_actsFor he fun _ => either_actsFor (respond_actsFor _ _) (respond_actsFor _ _))

end Sender

theorem withStationTake_actsFor {x : StationState} {f : Nat → State → State} (h : ∀ k, ActsFor e s (f k s)) :
    ActsFor e s (withStationTake c cmd x e f s) := by
  unfold withStationTake
  split
  · exact either_actsFor (h _) (respond_actsFor _ _)
  · exact respond_actsFor _ _

theorem withAttachedTake_actsFor {f : Nat → Take → State → State} (h : ∀ k x, ActsFor e s (f k x s)) :
    ActsFor e s (withAttachedTake c cmd e f s) := by
  unfold withAttachedTake
  split
  · split
    · exact h _ _
    · exact respond_actsFor _ _
  · exact respond_actsFor _ _

/-! ### Typists' work and archive transfers -/

section Commands
variable (he : s.sender c.src = .station e)
include he

theorem readClock_actsFor : NextBy (ActsFor e) s (execReadClock c s) :=
  nextBy (control_actsFor he fun _ => either_actsFor (respond_actsFor _ _) (respond_actsFor _ _))

theorem hello_actsFor (b : Byte) : NextBy (ActsFor e) s (execHello c b s) := by
  refine nextBy (control_actsFor he fun u => ?_)
  dsimp only
  split
  · exact (ActsFor.refl.endUnderWay.detach.updStation _).respond _ _
  · exact respond_actsFor _ _

theorem requestWork_actsFor : NextBy (ActsFor e) s (execRequestWork c s) := by
  refine nextBy (stationCommand_actsFor he fun u => either_actsFor (respond_actsFor _ _) ?_)
  split
  · exact ActsFor.refl.offer.respond _ _
  · refine ((ActsFor.refl.updStation _).updWait _ fun q hq hw => ?_).respond _ _
    exact (List.mem_append.1 hw).resolve_right fun hin => hq (List.mem_singleton.1 hin)

theorem accept_actsFor : NextBy (ActsFor e) s (execAccept c s) :=
  nextBy (plainStationCommand_actsFor he fun _ => withStationTake_actsFor fun _ => ActsFor.refl.acceptOffer.respond _ _)

theorem decline_actsFor : NextBy (ActsFor e) s (execDecline c s) :=
  nextBy (stationCommand_actsFor he fun _ => withStationTake_actsFor fun _ => (ActsFor.refl.giveBack _).respond _ _)

theorem keep_actsFor : NextBy (ActsFor e) s (execKeep c s) :=
  nextBy (plainStationCommand_actsFor he fun _ => withStationTake_actsFor fun _ => respond_actsFor _ _)

theorem complete_actsFor : NextBy (ActsFor e) s (execComplete c s) :=
  nextBy (plainStationCommand_actsFor he fun _ => withStationTake_actsFor fun k =>
    (ActsFor.retainIfDone (k := k) (ActsFor.refl.workEnded Take.typed).aside).respond _ _)

theorem returnTake_actsFor : NextBy (ActsFor e) s (execReturnTake c s) :=
  nextBy (plainStationCommand_actsFor he fun _ => withStationTake_actsFor fun _ => (ActsFor.refl.giveBack _).respond _ _)

theorem requestArchive_actsFor : NextBy (ActsFor e) s (execRequestArchive c s) := by
  refine nextBy (stationCommand_actsFor he fun u => either_actsFor (respond_actsFor _ _) ?_)
  split
  · exact respond_actsFor _ _
  · exact ActsFor.refl.assignArchive.respond _ _

theorem archived_actsFor : NextBy (ActsFor e) s (execArchived c s) :=
  nextBy (stationCommand_actsFor he fun _ => withStationTake_actsFor fun k => either_actsFor (respond_actsFor _ _)
    ((ActsFor.retainIfDone (k := k) (ActsFor.refl.workEnded Take.confirmed).aside).respond _ _))

theorem archiveFailed_actsFor : NextBy (ActsFor e) s (execArchiveFailed c s) :=
  nextBy (stationCommand_actsFor he fun _ => withStationTake_actsFor fun _ => ActsFor.refl.failArchive.respond _ _)

theorem credit_actsFor (n : Word) : NextBy (ActsFor e) s (execCredit c n s) :=
  nextBy (plainStationCommand_actsFor he fun _ => withStationTake_actsFor fun _ =>
    ((ActsFor.refl.updContext _).updStation _).respond _ _)

/-! ### Playback commands -/

theorem cue_actsFor (f : CueFields) : NextBy (ActsFor e) s (execCue c f s) := by
  refine nextBy (stationCommand_actsFor he fun u => ?_)
  split
  · exact respond_actsFor _ _
  · split
    · exact respond_actsFor _ _
    · split
      · exact respond_actsFor _ _
      · exact (ActsFor.refl.carryOutCue _ _).respond _ _

theorem save_actsFor : NextBy (ActsFor e) s (execSave c s) :=
  nextBy (plainStationCommand_actsFor he fun _ => withAttachedTake_actsFor fun _ _ => (ActsFor.refl.updContext _).respond _ _)

theorem play_actsFor : NextBy (ActsFor e) s (execPlay c s) :=
  nextBy (plainStationCommand_actsFor he fun _ => withAttachedTake_actsFor fun _ x => (ActsFor.refl.startPlaying x).respond _ _)

theorem pause_actsFor : NextBy (ActsFor e) s (execPause c s) :=
  nextBy (plainStationCommand_actsFor he fun _ => withAttachedTake_actsFor fun _ _ => (ActsFor.refl.updContext _).respond _ _)

theorem stop_actsFor : NextBy (ActsFor e) s (execStop c s) :=
  nextBy (plainStationCommand_actsFor he fun _ => either_actsFor (respond_actsFor _ _) (ActsFor.refl.detach.respond _ _))

theorem readPosition_actsFor : NextBy (ActsFor e) s (execReadPosition c s) :=
  nextBy (stationCommand_actsFor he fun _ => respond_actsFor _ _)

theorem setNotice_actsFor (p : BitVec 24) : NextBy (ActsFor e) s (execSetNotice c p s) :=
  nextBy (plainStationCommand_actsFor he fun _ => withAttachedTake_actsFor fun _ _ => (ActsFor.refl.updContext _).respond _ _)

theorem setMix_actsFor (f : MixFields) : NextBy (ActsFor e) s (execSetMix c f s) := by
  refine nextBy (plainStationCommand_actsFor he fun u => ?_)
  split
  · exact respond_actsFor _ _
  · exact withAttachedTake_actsFor fun _ _ => (ActsFor.refl.updContext _).respond _ _

theorem listen_actsFor (b : Byte) : NextBy (ActsFor e) s (execListen c b s) := by
  refine nextBy (plainStationCommand_actsFor he fun u => ?_)
  split
  · exact respond_actsFor _ _
  · split
    · exact respond_actsFor _ _
    · exact (ActsFor.refl.startListening _).respond _ _

theorem addNote_actsFor (code : Word) (label : List Byte) (p : BitVec 24) : NextBy (ActsFor e) s (execAddNote c code label p s) := by
  refine nextBy (plainStationCommand_actsFor he fun u => ?_)
  split
  · exact respond_actsFor _ _
  · split
    · exact respond_actsFor _ _
    · exact ActsFor.refl.addNote _ _ _

/-! ### Every CONTROL command -/

theorem exec_actsFor {i : Instr} (h : control? i = some (c, cmd)) : NextBy (ActsFor e) s (exec i s) := by
  cases i <;> cases h
  case writeEntry => exact writeEntry_actsFor he _
  case readClock => exact readClock_actsFor he
  case hello => exact hello_actsFor he _
  case readPosition => exact readPosition_actsFor he
  case stop => exact stop_actsFor he
  case requestWork => exact requestWork_actsFor he
  case accept => exact accept_actsFor he
  case decline => exact decline_actsFor he
  case keep => exact keep_actsFor he
  case complete => exact complete_actsFor he
  case returnTake => exact returnTake_actsFor he
  case cue => exact cue_actsFor he _
  case save => exact save_actsFor he
  case play => exact play_actsFor he
  case pause => exact pause_actsFor he
  case setNotice => exact setNotice_actsFor he _
  case setMix => exact setMix_actsFor he _
  case addNote => exact addNote_actsFor he _ _ _
  case listen => exact listen_actsFor he _
  case requestArchive => exact requestArchive_actsFor he
  case archived => exact archived_actsFor he
  case archiveFailed => exact archiveFailed_actsFor he
  case credit => exact credit_actsFor he _
  all_goals exact nextBy (managerCommand_actsFor he _)

end Commands

end Sys2Proof.Machine

open Sys2Proof Sys2Proof.Machine in
/-- Settles O59: every operation of a station's command writes to that station and its context, but for the arbiter's offer of a take given
back. -/
theorem stationsActOnlyForThemselves : Obligations.StationsActOnlyForThemselves := by
  intro i c cmd e s t hi he ht q hq
  have h : ActsFor e s t := (exec_actsFor he hi).next ht
  exact ⟨h.context q hq, h.station q hq⟩

/-! ## Durations in cycles (R118) -/

namespace Sys2Proof.Machine

variable {p : Nat} {ms : Int}

theorem CyclePeriod.us_pos (p : CyclePeriod) : 0 < p.us := by cases p <;> decide

theorem natAbs_cyclesOfMs (p : Nat) (ms : Int) : (cyclesOfMs p ms).natAbs = (ms.natAbs * 1000 + p / 2) / p := by
  unfold cyclesOfMs
  split
  · exact Int.natAbs_neg _
  · exact Int.natAbs_natCast _

theorem cyclesOfMs_of_nonneg (h : 0 ≤ ms) : cyclesOfMs p ms = ((ms.natAbs * 1000 + p / 2) / p : Nat) :=
  if_neg (not_lt.2 h)

/-- The rounding is symmetric about 0: ties go away from it on either side. -/
theorem cyclesOfMs_neg (hp : 0 < p) (ms : Int) : cyclesOfMs p (-ms) = -cyclesOfMs p ms := by
  unfold cyclesOfMs
  rw [Int.natAbs_neg]
  rcases lt_trichotomy ms 0 with h | rfl | h
  · rw [if_neg (by omega), if_pos h, neg_neg]
  · simp [Nat.div_eq_of_lt (Nat.div_lt_self hp one_lt_two)]
  · rw [if_pos (by omega), if_neg (by omega)]

/-- Adding half a divisor before the division gives a quotient within half a divisor of the dividend. -/
theorem div_add_half_near (hp : 0 < p) (n : Nat) : 2 * (((((n + p / 2) / p : Nat) : Int) * p - n).natAbs) ≤ p := by
  have hdiv := Nat.div_add_mod (n + p / 2) p
  have hmod := Nat.mod_lt (n + p / 2) hp
  rw [Nat.mul_comm] at hdiv
  rw [← Nat.cast_mul]
  omega

theorem cyclesOfMs_near (hp : 0 < p) (ms : Int) : 2 * (cyclesOfMs p ms * p - ms * 1000).natAbs ≤ p := by
  have hnear : ∀ n : Int, 0 ≤ n → 2 * (cyclesOfMs p n * p - n * 1000).natAbs ≤ p := fun n hn => by
    have hq := div_add_half_near hp (n.natAbs * 1000)
    rw [cyclesOfMs_of_nonneg hn]
    rwa [Nat.cast_mul, Int.natAbs_of_nonneg hn] at hq
  rcases le_total 0 ms with h | h
  · exact hnear ms h
  · have hneg := hnear (-ms) (by omega)
    rwa [cyclesOfMs_neg hp, neg_mul, neg_mul, ← neg_sub', Int.natAbs_neg] at hneg

end Sys2Proof.Machine

open Sys2Proof Sys2Proof.Machine in
/-- Settles O48: the magnitude is the formula's, the negative durations mirror the others, and half a period is added before the division. -/
theorem durationsRoundToTheNearestCycle : Obligations.DurationsRoundToTheNearestCycle := by
  intro p ms
  have hnonneg : ∀ n : Int, 0 ≤ n → 0 ≤ cyclesOfMs p.us n := fun n hn => by
    rw [cyclesOfMs_of_nonneg hn]
    exact Int.natCast_nonneg _
  have hneg := cyclesOfMs_neg p.us_pos ms
  refine ⟨natAbs_cyclesOfMs _ _, hnonneg ms, fun h => ?_, hneg, cyclesOfMs_near p.us_pos ms⟩
  have hmirror := hnonneg (-ms) (by omega)
  omega

/-! ## The Cue Resolver -/

namespace Sys2Proof.Machine

variable {t : Take} {x : Span} {p q n : Nat} {clearance : Bool} {d : Direction}

/-! ### The marker skip (R116, R117) -/

/-- The markers that a skip can pass from a position, in the order of its walk (R117). -/
def skippable (t : Take) (p : Nat) (skip : Int) (filter : Option MarkerKind) : List Marker :=
  if 0 < skip then t.markers.filter fun m => p < m.position && filterMatches filter m
  else if skip < 0 then t.markers.reverse.filter fun m => m.position < p && filterMatches filter m
  else []

theorem skipWalk_eq {skip : Int} (h : skip ≠ 0) (t : Take) (p : Nat) (filter : Option MarkerKind) :
    skipWalk t p (cueDirection skip 0) filter = skippable t p skip filter := by
  unfold skippable cueDirection
  rw [if_pos h]
  rcases lt_or_gt_of_ne h with hneg | hpos
  · rw [if_pos hneg, if_neg (by omega), if_pos hneg]
    rfl
  · rw [if_neg (by omega), if_pos hpos]
    rfl

/-- The skip ends at the last marker it passes, and falls short where there are fewer than it counts (R117). -/
theorem markerSkip_eq (t : Take) (p : Nat) (skip : Int) (filter : Option MarkerKind) :
    markerSkip t p skip filter =
      (((((skippable t p skip filter).take skip.natAbs).getLast?).map Marker.position).getD p,
        decide ((skippable t p skip filter).length < skip.natAbs)) := by
  by_cases h : skip = 0
  · subst h
    rfl
  · have hcount : 0 < skip.natAbs := Int.natAbs_pos.2 h
    unfold markerSkip
    rw [if_neg h, skipWalk_eq h]
    generalize skippable t p skip filter = walk
    dsimp only
    rcases hlast : (walk.take skip.natAbs).getLast? with _ | m
    · have hnil : walk = [] := (List.take_eq_nil_iff.1 (List.getLast?_eq_none_iff.1 hlast)).resolve_left hcount.ne'
      simp [hnil, hcount]
    · simp [List.length_take]

/-! ### The displacement (R119) -/

/-- The sum is limited to the positions of the take, and CLAMPED says that it lay outside (R119). -/
theorem clampTo_eq (cells : Nat) (sum : Int) :
    clampTo cells sum = ((max 0 (min sum cells)).toNat, decide (sum < 0 ∨ (cells : Int) < sum)) := by
  unfold clampTo
  split
  · rw [decide_eq_true (by omega), show (max 0 (min sum cells)).toNat = 0 by omega]
  · split
    · rw [decide_eq_true (by omega), show (max 0 (min sum cells)).toNat = cells by omega]
    · rw [decide_eq_false (by omega), show (max 0 (min sum cells)).toNat = sum.toNat by omega]

/-! ### Sealed spans ahead (R120) -/

theorem Take.mem_of_spanAt (h : t.spanAt p = some x) : x ∈ t.spans := List.mem_of_find?_eq_some h

theorem Take.holds_of_spanAt (h : t.spanAt p = some x) : x.holds p = true :=
  List.find?_some (p := fun y : Span => y.holds p) h

theorem Take.first_le_of_spanAt (h : t.spanAt p = some x) : x.first ≤ p := by
  have hx := Take.holds_of_spanAt h
  unfold Span.holds at hx
  split at hx <;> simp_all

theorem Take.lt_stop_of_spanAt (h : t.spanAt p = some x) (hs : x.stop = some q) : p < q := by
  have hx := Take.holds_of_spanAt h
  simp only [Span.holds, hs, Bool.and_eq_true, decide_eq_true_eq] at hx
  exact hx.2

/-- A span that ends beyond a position, or not at all. -/
def Span.ahead (x : Span) (p : Nat) : Bool := x.stop.all fun e => p < e

/-- How many of a take's spans end beyond a position: what the walk over touching spans uses up (log 20). -/
def Take.spansAhead (t : Take) (p : Nat) : Nat := t.spans.countP fun x => x.ahead p

theorem Take.spansAhead_le (t : Take) (p : Nat) : t.spansAhead p ≤ t.spans.length := List.countP_le_length

/-- At a span's end one span fewer lies ahead than inside it. -/
theorem Take.spansAhead_lt (h : t.spanAt p = some x) (hs : x.stop = some q) : t.spansAhead q < t.spansAhead p := by
  have hlt := Take.lt_stop_of_spanAt h hs
  have hmono : ∀ y : Span, y.ahead q = (y.ahead q && y.ahead p) := fun y => by
    rcases y with ⟨b, _ | e⟩
    · rfl
    · have himp : q < e → p < e := hlt.trans
      simpa [Span.ahead] using himp
  have hpassed : ∃ y ∈ t.spans.filter (fun y => y.ahead p), y.ahead q = false :=
    ⟨x, List.mem_filter.2 ⟨Take.mem_of_spanAt h, by simp [Span.ahead, hs, hlt]⟩, by simp [Span.ahead, hs]⟩
  have hcount := List.countP_lt_length_iff.2 hpassed
  rw [List.countP_filter, ← List.countP_eq_length_filter] at hcount
  unfold Take.spansAhead
  rwa [funext hmono]

/-! ### Forward avoidance (R121) -/

theorem avoidForward_clear (h : t.spanAt p = none) (n : Nat) : avoidForward t n p = (p, false, false) := by
  cases n with
  | zero => rfl
  | succ n => rw [avoidForward, h]

theorem avoidForward_open (h : t.spanAt p = some x) (hs : x.stop = none) (n : Nat) :
    avoidForward t (n + 1) p = (x.first, true, true) := by
  simp only [avoidForward, h, hs]

theorem avoidForward_closed (h : t.spanAt p = some x) (hs : x.stop = some q) (n : Nat) :
    avoidForward t (n + 1) p = ((avoidForward t n q).1, true, (avoidForward t n q).2.2) := by
  simp only [avoidForward, h, hs]

/-- A hold is at the start of an open span (R121). -/
theorem avoidForward_held (n p : Nat) (h : (avoidForward t n p).2.2 = true) :
    ∃ y ∈ t.spans, y.stop = none ∧ (avoidForward t n p).1 = y.first := by
  induction n generalizing p with
  | zero => cases h
  | succ n ih =>
    rcases hx : t.spanAt p with _ | x
    · rw [avoidForward_clear hx] at h
      cases h
    · rcases hs : x.stop with _ | q
      · rw [avoidForward_open hx hs]
        exact ⟨x, Take.mem_of_spanAt hx, hs, rfl⟩
      · rw [avoidForward_closed hx hs] at h ⊢
        exact ih q h

/-- Without a hold, the walk does not turn back (R121). -/
theorem le_avoidForward (n p : Nat) (h : (avoidForward t n p).2.2 = false) : p ≤ (avoidForward t n p).1 := by
  induction n generalizing p with
  | zero => exact Nat.le_refl p
  | succ n ih =>
    rcases hx : t.spanAt p with _ | x
    · rw [avoidForward_clear hx]
    · rcases hs : x.stop with _ | q
      · rw [avoidForward_open hx hs] at h
        cases h
      · rw [avoidForward_closed hx hs] at h ⊢
        exact (Take.lt_stop_of_spanAt hx hs).le.trans (ih q h)

/-- Without a hold, a walk with a step for each span ahead and one more ends outside every span (R121; log 20). -/
theorem avoidForward_clears (n p : Nat) (hn : t.spansAhead p < n) (h : (avoidForward t n p).2.2 = false) :
    t.spanAt (avoidForward t n p).1 = none := by
  induction n generalizing p with
  | zero => cases hn
  | succ n ih =>
    rcases hx : t.spanAt p with _ | x
    · rwa [avoidForward_clear hx]
    · rcases hs : x.stop with _ | q
      · rw [avoidForward_open hx hs] at h
        cases h
      · have hless := Take.spansAhead_lt hx hs
        rw [avoidForward_closed hx hs] at h ⊢
        exact ih q (by omega) h

/-! ### Sealed avoidance (R121, R122) -/

/-- The span that the avoidance meets at a position: none for a station with clearance. -/
def spanMet (t : Take) (clearance : Bool) (p : Nat) : Option Span := if clearance then none else t.spanAt p

theorem spanMet_some (h : spanMet t clearance p = some x) : clearance = false ∧ t.spanAt p = some x := by
  unfold spanMet at h
  split at h
  · cases h
  · exact ⟨Bool.eq_false_iff.2 ‹_›, h⟩

theorem avoidSealed_clear (h : spanMet t clearance p = none) (d : Direction) : avoidSealed t clearance d p = (p, false, false) := by
  unfold spanMet at h
  unfold avoidSealed
  split at h
  · exact if_pos ‹_›
  · rw [if_neg ‹_›]
    cases d with
    | forward => exact avoidForward_clear h _
    | backward => simp only [avoidBackward, h]

theorem avoidSealed_backward (h : spanMet t clearance p = some x) :
    avoidSealed t clearance .backward p = (x.first, true, x.stop.isNone) := by
  obtain ⟨rfl, hx⟩ := spanMet_some h
  simp [avoidSealed, avoidBackward, hx]

theorem avoidSealed_forward (h : spanMet t clearance p = some x) :
    avoidSealed t clearance .forward p = avoidForward t (t.spans.length + 1) p := by
  obtain ⟨rfl, _⟩ := spanMet_some h
  rfl

theorem avoidSealed_met (h : spanMet t clearance p = some x) : (avoidSealed t clearance d p).2.1 = true := by
  cases d with
  | backward => rw [avoidSealed_backward h]
  | forward =>
    obtain ⟨_, hx⟩ := spanMet_some h
    rw [avoidSealed_forward h]
    rcases hs : x.stop with _ | q
    · rw [avoidForward_open hx hs]
    · rw [avoidForward_closed hx hs]

/-! ### The whole resolution (R115 to R122) -/

/-- A resolution is backward where its skip is, or where it has none and its displacement is (R116). -/
theorem cueDirection_backward {skip ms : Int} (h : skip < 0 ∨ (skip = 0 ∧ ms < 0)) : cueDirection skip ms = .backward := by
  unfold cueDirection
  rcases h with h | ⟨rfl, h⟩
  · rw [if_pos h.ne, if_pos h]
  · rw [if_neg (not_not.2 rfl), if_pos h]

theorem cueDirection_forward {skip ms : Int} (h : ¬(skip < 0 ∨ (skip = 0 ∧ ms < 0))) : cueDirection skip ms = .forward := by
  obtain ⟨hskip, hms⟩ := not_or.1 h
  unfold cueDirection
  by_cases h0 : skip = 0
  · rw [if_neg (not_not.2 h0), if_neg fun hneg => hms ⟨h0, hneg⟩]
  · rw [if_pos h0, if_neg hskip]

/-- The displacement limited, and then the sealed span met avoided (R118 to R122). -/
theorem resolveFrom_eq {clamped : Bool} {r : Nat × Bool × Bool} {period : CyclePeriod} {ms : Int} {short : Bool}
    (hc : clampTo t.cells ((p : Int) + cyclesOfMs period.us ms) = (q, clamped)) (hr : avoidSealed t clearance d q = r) :
    resolveFrom t clearance d period p ms short =
      { position := r.1
        flags := { short := short, clamped := clamped || (r.2.1 && (r.1 == 0 || r.1 == t.cells)), sealedSkip := r.2.1 }
        hold := r.2.2 } := by
  unfold resolveFrom
  rw [hc]
  dsimp only
  rw [hr]

/-- The resolver does what R116 to R122 say of the skip, the displacement and the span met, each by its own lemma above. -/
theorem resolveCue_resolved (t : Take) (clearance : Bool) (period : CyclePeriod) (base : Nat) (q : CueRequest) :
    Resolved t clearance period base q (resolveCue t clearance period base q) := by
  unfold Resolved
  intro walk p4 sum p6
  have hskip : markerSkip t base q.skip q.filter = (p4, decide (walk.length < q.skip.natAbs)) := markerSkip_eq ..
  have hclamp : clampTo t.cells sum = (p6, decide (sum < 0 ∨ (t.cells : Int) < sum)) := clampTo_eq ..
  obtain ⟨r, hr⟩ : ∃ r, avoidSealed t clearance (cueDirection q.skip q.ms) p6 = r := ⟨_, rfl⟩
  have hz : resolveCue t clearance period base q =
      { position := r.1
        flags := {
          short := decide (walk.length < q.skip.natAbs)
          clamped := decide (sum < 0 ∨ (t.cells : Int) < sum) || (r.2.1 && (r.1 == 0 || r.1 == t.cells))
          sealedSkip := r.2.1 }
        hold := r.2.2 } := by
    unfold resolveCue
    rw [hskip]
    exact resolveFrom_eq hclamp hr
  have hmeets : (if clearance = true then none else t.spanAt p6) = spanMet t clearance p6 := rfl
  rw [hz, hmeets]
  refine ⟨rfl, ?_⟩
  rcases hmet : spanMet t clearance p6 with _ | x
  · rw [avoidSealed_clear hmet] at hr
    subst hr
    exact ⟨rfl, Bool.or_false _, rfl, rfl⟩
  · have hskipped : r.2.1 = true := by rw [← hr, avoidSealed_met hmet]
    refine ⟨hskipped, by rw [Bool.eq_iff_iff]; simp [hskipped], fun hback => ?_, fun hfwd => ?_⟩
    · rw [cueDirection_backward hback, avoidSealed_backward hmet] at hr
      subst hr
      exact ⟨rfl, rfl⟩
    · obtain ⟨_, hx⟩ := spanMet_some hmet
      rw [cueDirection_forward hfwd, avoidSealed_forward hmet] at hr
      subst hr
      refine ⟨fun hs => ?_, fun e hs he => ?_, fun hh => ⟨le_avoidForward _ _ hh, ?_⟩, avoidForward_held _ _⟩
      · rw [avoidForward_open hx hs]
        exact ⟨rfl, rfl⟩
      · rw [avoidForward_closed hx hs, avoidForward_clear he]
        exact ⟨rfl, rfl⟩
      · exact avoidForward_clears _ _ (Nat.lt_succ_of_le (Take.spansAhead_le t p6)) hh

end Sys2Proof.Machine

/-! ## Commands on an attached context -/

namespace Sys2Proof.Machine

variable {s u : State} {c : Ctl} {cmd : CommandName} {e : StationId} {k : Nat} {t : Take}

theorem withAttachedTake_of {f : Nat → Take → State → State} (hk : (s.context e).take = some k) (h : s.take? k = some t) :
    withAttachedTake c cmd e f s = f k t s := by
  unfold withAttachedTake
  simp only [hk, h]

/-- A plain command on the attached take is its own part, on the state with the sender noted. -/
theorem withAttachedTake_handled {f : Nat → Take → State → State} (hk : (s.context e).take = some k) (h : s.take? k = some t) :
    withAttachedTake c cmd e f (handled c cmd s) = f k t (handled c cmd s) :=
  withAttachedTake_of ((congrArg Context.take (handled_context e)).trans hk) ((handled_take k).trans h)

theorem handled_locate (p : Nat) : (handled c cmd s).locate k p = s.locate k p := by
  unfold State.locate
  rw [handled_take, handled_store]

/-! ### SAVE, PAUSE, SET_NOTICE and SET_MIX (R126, R138, R140, R143) -/

section Writes
variable (hk : (s.context e).take = some k) (h : s.take? k = some t)
include hk h

theorem exec_save_of (hf : FromStationPlain c .save e s) :
    exec (.save c) s = .next (respond c .save .ok (bytesOf 2 t.number ++ positionBytes (s.context e).position)
      ((handled c .save s).updContext e fun x => { x with saved := x.position })) := by
  refine congrArg Host.Outcome.next ((plainStationCommand_of hf).trans ((withAttachedTake_handled hk h).trans ?_))
  dsimp only
  rw [State.context_updContext, handled_context]

theorem exec_pause_of (hf : FromStationPlain c .pause e s) :
    exec (.pause c) s = .next (respond c .pause .ok
      (bytesOf 2 t.number ++ positionBytes (s.context e).position ++ bytesOf 1 ContextState.paused.code)
      ((handled c .pause s).updContext e fun x => { x with state := .paused })) := by
  refine congrArg Host.Outcome.next ((plainStationCommand_of hf).trans ((withAttachedTake_handled hk h).trans ?_))
  dsimp only
  rw [State.context_updContext, handled_context]

theorem exec_setNotice_of {point : BitVec 24} (hf : FromStationPlain c .setNotice e s) :
    exec (.setNotice c point) s = .next (respond c .setNotice .ok (positionBytes (noticeOf point))
      ((handled c .setNotice s).updContext e fun x => { x with notice := noticeOf point })) :=
  congrArg Host.Outcome.next ((plainStationCommand_of hf).trans (withAttachedTake_handled hk h))

theorem exec_setMix_of {f : MixFields} {mode : MixMode} (hf : FromStationPlain c .setMix e s) (hm : mixModeOfCode f.mode = some mode) :
    exec (.setMix c f) s = .next (respond c .setMix .ok (mixOfFields mode f).bytes
      ((handled c .setMix s).updContext e fun x => { x with mix := mixOfFields mode f })) := by
  refine congrArg Host.Outcome.next ((plainStationCommand_of hf).trans ?_)
  rw [hm]
  exact withAttachedTake_handled hk h

end Writes

end Sys2Proof.Machine

open Sys2Proof Sys2Proof.Machine in
/-- Settles O28: each command is its own write on the state with the sender noted, and the mix written holds the fields' gains to 16. -/
theorem contextWritesComplete : Obligations.ContextWritesComplete := by
  intro c e k t s hk h
  refine ⟨exec_save_of hk h, exec_pause_of hk h, fun point hf => exec_setNotice_of hk h hf, fun f mode hf hm => ?_⟩
  exact ⟨mixOfFields mode f, rfl, rfl, fun j => Vector.getElem_ofFn j.isLt, exec_setMix_of hk h hf hm⟩

/-! ## Positions resolved and written -/

namespace Sys2Proof.Machine

variable {s u : State} {c : Ctl} {cmd : CommandName} {e : StationId} {k : Nat} {t : Take} {z : Resolution} {st : ContextState}

/-- A context at a resolved position, with the page found for it, the flags and the state of the command (R123, R124). -/
def Context.resolved (x : Context) (z : Resolution) (found : Located) (st : ContextState) : Context :=
  { x with position := some z.position, located := some found, flags := some z.flags, state := st }

theorem writeResolution_eq (e : StationId) (k : Nat) (z : Resolution) (s : State) :
    writeResolution e k z s = s.updContext e fun x =>
      { x with position := some z.position, located := some (s.locate k z.position), flags := some z.flags } := by
  unfold writeResolution setPosition
  rw [updContext_updContext]

/-- A resolution with the state written after it is one update of the context. -/
theorem writeResolution_state (e : StationId) (k : Nat) (z : Resolution) (st : ContextState) (s : State) :
    (writeResolution e k z s).updContext e (fun x => { x with state := st }) =
      s.updContext e fun x => x.resolved z (s.locate k z.position) st := by
  rw [writeResolution_eq, updContext_updContext]
  rfl

theorem playFields_of (t : Take) {x : Context} (hx : u.context e = x) : playFields u e t =
    bytesOf 2 t.number ++ positionBytes x.position ++ bytesOf 3 t.cells ++ cueFlagsByte x.flags ++ bytesOf 1 x.state.code := by
  subst hx
  rfl

theorem playFields_resolved (t : Take) (x : Context) {found : Located} (hx : u.context e = x.resolved z found st) : playFields u e t =
    bytesOf 2 t.number ++ positionBytes (some z.position) ++ bytesOf 3 t.cells ++ cueFlagsByte (some z.flags) ++ bytesOf 1 st.code := by
  rw [playFields_of t hx]
  dsimp only [Context.resolved]

/-! ### PLAY (R127, R139) -/

theorem exec_play_of (hk : (s.context e).take = some k) (h : s.take? k = some t) (hf : FromStationPlain c .play e s) :
    exec (.play c) s = .next (respond c .play .ok (playFields (startPlaying e k t (handled c .play s)) e t)
      (startPlaying e k t (handled c .play s))) :=
  congrArg Host.Outcome.next ((plainStationCommand_of hf).trans (withAttachedTake_handled hk h))

theorem startPlaying_paused (h : (s.context e).state = .paused) (k : Nat) (t : Take) :
    startPlaying e k t s = s.updContext e fun x =>
      x.resolved (stepBack s e t) (s.locate k (stepBack s e t).position) (playState t (stepBack s e t)) :=
  (if_pos h).trans (writeResolution_state ..)

theorem startPlaying_playing (h : (s.context e).state ≠ .paused) (k : Nat) (t : Take) : startPlaying e k t s = s := if_neg h

theorem handled_stepBack (t : Take) : stepBack (handled c cmd s) e t = stepBack s e t := by
  unfold stepBack
  rw [handled_config, handled_link, handled_context]

end Sys2Proof.Machine

open Sys2Proof Sys2Proof.Machine in
/-- Settles O30: from PAUSED the step back is one update of the context, from any other state PLAY only answers. -/
theorem playCompletes : Obligations.PlayCompletes := by
  intro c e k t s hf hk h
  have hexec := exec_play_of hk h hf
  refine ⟨fun hp => ⟨stepBack s e t, rfl, ?_⟩, fun hp => ?_⟩
  · have hstart := startPlaying_paused (s := handled c .play s) (by rw [handled_context]; exact hp) k t
    rw [handled_stepBack, handled_locate] at hstart
    rw [hexec, hstart, playFields_resolved t _ (State.context_updContext ..)]
    rfl
  · rw [hexec, startPlaying_playing (by rw [handled_context]; exact hp), playFields_of t (handled_context e)]

/-! ## CUE and LISTEN -/

namespace Sys2Proof.Machine

variable {s u : State} {c : Ctl} {cmd : CommandName} {e : StationId} {k : Nat} {t : Take} {z : Resolution}

/-! ### CUE (R112 to R124) -/

theorem handled_selectTake (ovr : Option Word) : (handled c cmd s).selectTake e ovr = s.selectTake e ovr := by
  unfold State.selectTake
  simp only [handled_findTake, handled_defaultTake, handled_take]

theorem exec_cue_of {f : CueFields} {q : CueRequest} {base : Nat} (hf : FromStation c .cue e s) (hq : cueRequest f c.ovr = some q)
    (hsel : s.selectTake e c.ovr = .ok (k, t)) (hbase : cueBase t (s.context e) ((s.context e).take == some k) q = some base)
    (hz : z = resolveCue t (s.station e).config.clearance s.link.period base q) :
    exec (.cue c f) s = .next (respond c .cue .ok (playFields (carryOutCue e k t z (handled c .cue s)) e t)
      (carryOutCue e k t z (handled c .cue s))) := by
  refine congrArg Host.Outcome.next ((stationCommand_of hf).trans ?_)
  simp only [hq, handled_selectTake, hsel, handled_context, hbase, handled_config, handled_link, hz]

theorem carryOutCue_attached (h : (s.context e).take = some k) (t : Take) (z : Resolution) :
    carryOutCue e k t z s = s.updContext e fun x =>
      x.resolved z (s.locate k z.position) (stateAfterCue (s.context e).state t z) :=
  (if_pos h).trans (writeResolution_state ..)

/-- A take that the context was not attached to is attached, PAUSED, and then resolved in (R114, R131). -/
theorem carryOutCue_context (h : (s.context e).take ≠ some k) (t : Take) (z : Resolution) :
    ∃ found, (carryOutCue e k t z s).context e =
      { state := .paused, take := some k, position := some z.position, located := some found, saved := none, notice := none,
        mix := s.attachMix e, follow := false, link := none, credits := 0, markersSent := 0, flags := some z.flags } := by
  unfold carryOutCue
  rw [if_neg h, writeResolution_eq, State.context_updContext, attach_context]
  exact ⟨_, rfl⟩

theorem attachMix_eq (s : State) (e : StationId) :
    s.attachMix e = if (s.context e).take = none then (s.station e).config.mix else (s.context e).mix := by
  unfold State.attachMix
  rcases (s.context e).take with _ | k <;> rfl

theorem handled_attachMix : (handled c cmd s).attachMix e = s.attachMix e := by
  unfold State.attachMix
  rw [handled_context, handled_config]

/-! ### LISTEN (R128, R147) -/

theorem exec_listen_of {b : Byte} {r : RoomId} (hf : FromStationPlain c .listen e s) (hr : roomOfByte b = some r)
    (ho : (s.room r).openTake = some k) (h : s.take? k = some t) :
    exec (.listen c b) s = .next (respond c .listen .ok (playFields (startListening e k t (handled c .listen s)) e t)
      (startListening e k t (handled c .listen s))) := by
  refine congrArg Host.Outcome.next ((plainStationCommand_of hf).trans ?_)
  simp only [hr, handled_room, ho, Option.bind_some, handled_take, h, Option.map_some]

/-- The context that comes to a room's open take has no saved position and no notice point, whether it was there before or not (R147). -/
theorem attachListener_context (e : StationId) (k : Nat) (s : State) :
    ((attachListener e k s).context e).take = some k ∧ ((attachListener e k s).context e).saved = none ∧
      ((attachListener e k s).context e).notice = none := by
  unfold attachListener
  split
  · rw [State.context_updContext]
    exact ⟨‹_›, rfl, rfl⟩
  · rw [attach_context]
    exact ⟨rfl, rfl, rfl⟩

theorem startListening_context (e : StationId) (k : Nat) (t : Take) (s : State) :
    ∃ found, (startListening e k t s).context e =
      { ((attachListener e k s).context e).resolved (listenFrom s e t) found (playState t (listenFrom s e t)) with
        follow := true, link := none } := by
  unfold startListening
  dsimp only
  rw [State.updStation_context, State.context_updContext, writeResolution_eq, State.context_updContext]
  exact ⟨_, rfl⟩

theorem startListening_station (e : StationId) (k : Nat) (t : Take) (s : State) :
    ((startListening e k t s).station e).state = .listening := by
  unfold startListening
  dsimp only
  rw [State.station_updStation]

theorem handled_listenFrom (t : Take) : listenFrom (handled c cmd s) e t = listenFrom s e t := by
  unfold listenFrom
  rw [handled_config, handled_link]

end Sys2Proof.Machine

open Sys2Proof Sys2Proof.Machine in
/-- Settles O29: the resolver is what R116 to R122 say, and the result is one update of the context already at the take, or stands in the context
that the attachment left there. -/
theorem cueCompletes : Obligations.CueCompletes := by
  intro c f e q k t base s hf hq hsel _ hbase
  obtain ⟨z, hz⟩ : ∃ z, z = resolveCue t (s.station e).config.clearance s.link.period base q := ⟨_, rfl⟩
  have hexec := exec_cue_of hf hq hsel hbase hz
  refine ⟨z, hz, by rw [hz]; exact resolveCue_resolved .., fun hk => ?_, fun hk => ?_⟩
  · have hcue := carryOutCue_attached (s := handled c .cue s) (by rw [handled_context]; exact hk) t z
    rw [handled_locate, handled_context] at hcue
    rw [hexec, hcue, playFields_resolved t _ (State.context_updContext ..)]
    rfl
  · obtain ⟨found, hctx⟩ := carryOutCue_context (s := handled c .cue s) (by rw [handled_context]; exact hk) t z
    refine ⟨carryOutCue e k t z (handled c .cue s), hexec.trans (by rw [playFields_of t hctx]), ?_⟩
    rw [hctx, handled_attachMix]
    exact ⟨rfl, rfl, rfl, rfl, rfl, rfl, rfl, rfl, attachMix_eq s e⟩

open Sys2Proof Sys2Proof.Machine in
/-- Settles O32: whichever way the context comes to the room's open take, LISTEN then writes the position resolved back from its live edge. -/
theorem listenCompletes : Obligations.ListenCompletes := by
  intro c b r e k t s hf hr ho h
  obtain ⟨found, hctx⟩ := startListening_context e k t (handled c .listen s)
  obtain ⟨htake, hsaved, hnotice⟩ := attachListener_context e k (handled c .listen s)
  rw [handled_listenFrom] at hctx
  refine ⟨listenFrom s e t, startListening e k t (handled c .listen s), rfl, (exec_listen_of hf hr ho h).trans ?_, ?_⟩
  · rw [playFields_of t hctx]
    dsimp only [Context.resolved]
  · rw [hctx]
    exact ⟨htake, rfl, rfl, rfl, rfl, hsaved, hnotice, rfl, startListening_station ..⟩

/-! ## Sealed passing (R133) -/

namespace Sys2Proof.Machine

variable {s t u v : State} {e : StationId} {k n p q : Nat} {x : Take} {y : Span} {held : Bool} {test : Nat → Bool}

/-! ### The move over the spans -/

/-- The context moved to the end of a closed span, the cells passed over counted (R133). -/
def withheldTo (e : StationId) (k p q : Nat) (s : State) : State :=
  (setPosition e k q s).countPlayback fun c => { c with cellsWithheld := c.cellsWithheld + BitVec.ofNat 32 (q - p) }

theorem withheldTo_context (k p q : Nat) : (withheldTo e k p q s).context e =
    { s.context e with position := some q, located := some (s.locate k q) } := setPosition_context e k q

section Spans
variable (hp : (s.context e).position = some p)
include hp

theorem passSpans_clear (hx : x.spanAt p = none) (n k : Nat) : passSpans n e k x s = (s, false) := by
  cases n with
  | zero => rfl
  | succ n => simp only [passSpans, hp, Option.getD_some, hx]

theorem passSpans_open (hx : x.spanAt p = some y) (hy : y.stop = none) (n k : Nat) : passSpans (n + 1) e k x s =
    (s.updContext e fun c => { c with state := .heldSealed, position := some y.first, located := some (s.locate k y.first) }, true) := by
  simp only [passSpans, hp, Option.getD_some, hx, hy, setPosition, updContext_updContext]

theorem passSpans_closed (hx : x.spanAt p = some y) (hy : y.stop = some q) (n k : Nat) :
    passSpans (n + 1) e k x s = passSpans n e k x (withheldTo e k p q s) := by
  simp only [passSpans, hp, Option.getD_some, hx, hy]
  rfl

end Spans

/-- The context has been moved from `p` to `q` by sealed passing, and is held there or goes on: no more is written than its position, its located
page, its state where it is held, and the count of the cells passed over. -/
structure Passed (e : StationId) (p q : Nat) (held : Bool) (s u : State) : Prop where
  frame : u = { s with playback := u.playback }
  context : u.context e =
    { s.context e with
      state := if held then .heldSealed else (s.context e).state, position := some q, located := (u.context e).located }
  withheld : held = false →
    u.playback.counters = { s.playback.counters with cellsWithheld := s.playback.counters.cellsWithheld + BitVec.ofNat 32 (q - p) }

theorem Passed.refl (hp : (s.context e).position = some p) : Passed e p p false s s where
  frame := rfl
  context := by simp [← hp]
  withheld _ := by simp

theorem Passed.after_withheld {r : Nat} (h : Passed e q r held (withheldTo e k p q s) u) (hpq : p ≤ q)
    (hqr : held = false → q ≤ r) : Passed e p r held s u where
  frame := by rw [h.frame]; rfl
  context := by rw [h.context, withheldTo_context]
  withheld hh := by
    have hsum : BitVec.ofNat 32 (r - p) = BitVec.ofNat 32 (q - p) + BitVec.ofNat 32 (r - q) := by
      rw [← BitVec.ofNat_add]
      congr 1
      have hle := hqr hh
      omega
    rw [h.withheld hh, hsum, ← BitVec.add_assoc]
    rfl

section
variable (h : Passed e p q held s u)
include h

theorem Passed.notice : (u.context e).notice = (s.context e).notice := by rw [h.context]

theorem Passed.link : u.link = s.link := by rw [h.frame]

theorem Passed.takeTable : u.takeTable = s.takeTable := by rw [h.frame]

theorem Passed.handOff : u.handOff = s.handOff := by rw [h.frame]

theorem Passed.station : u.station e = s.station e := by rw [h.frame]; rfl

theorem Passed.port (r : Port) : u.port r = s.port r := by rw [h.frame]; cases r <;> rfl

end

/-- Sealed passing ends where a forward resolution from the same position does, and is held where that is (R121, R133). -/
theorem passSpans_passed (n : Nat) (k : Nat) (x : Take) (hp : (s.context e).position = some p) :
    (passSpans n e k x s).2 = (avoidForward x n p).2.2 ∧
      Passed e p (avoidForward x n p).1 (avoidForward x n p).2.2 s (passSpans n e k x s).1 := by
  induction n generalizing s p with
  | zero => exact ⟨rfl, .refl hp⟩
  | succ n ih =>
    rcases hx : x.spanAt p with _ | y
    · rw [passSpans_clear hp hx, avoidForward_clear hx]
      exact ⟨rfl, .refl hp⟩
    · rcases hy : y.stop with _ | q
      · rw [passSpans_open hp hx hy, avoidForward_open hx hy]
        refine ⟨rfl, rfl, ?_, fun hh => by cases hh⟩
        simp only [State.context_updContext]
        rfl
      · obtain ⟨hheld, hpassed⟩ := ih (s := withheldTo e k p q s) (p := q) (by rw [withheldTo_context])
        rw [passSpans_closed hp hx hy, avoidForward_closed hx hy]
        exact ⟨hheld, hpassed.after_withheld (Take.lt_stop_of_spanAt hx hy).le (le_avoidForward n q)⟩

/-! ### The notice point (R143) -/

/-- A notice point reached: its NOTICE_POINT is sent to the station's last port, and it is absent (R143). -/
def noticeReached (e : StationId) (x : Take) (n : Nat) (s : State) : State :=
  (stationNotice e (bytesOf 1 3 ++ bytesOf 2 x.number ++ bytesOf 3 n ++ positionBytes (s.context e).position) s).updContext e
    fun c => { c with notice := none }

theorem reachNoticeIf_of (x : Take) (hn : (s.context e).notice = some n) (h : test n = true) :
    reachNoticeIf e x test s = noticeReached e x n s := by
  unfold reachNoticeIf reachNotice
  simp only [hn, Option.map_some, Option.getD_some, h, if_true]
  rfl

theorem reachNoticeIf_of_not (x : Take) (h : ∀ n ∈ (s.context e).notice, test n = false) : reachNoticeIf e x test s = s := by
  unfold reachNoticeIf
  rcases hn : (s.context e).notice with _ | n
  · rfl
  · simp [h n hn]

theorem reachNoticeIf_cases (e : StationId) (x : Take) (test : Nat → Bool) (s : State) :
    (∃ n, reachNoticeIf e x test s = noticeReached e x n s) ∨ reachNoticeIf e x test s = s := by
  by_cases h : ∃ n, (s.context e).notice = some n ∧ test n = true
  · obtain ⟨n, hn, ht⟩ := h
    exact .inl ⟨n, reachNoticeIf_of x hn ht⟩
  · exact .inr (reachNoticeIf_of_not x fun n hn => Bool.eq_false_iff.2 fun ht => h ⟨n, hn, ht⟩)

theorem noticeReached_context (x : Take) (n : Nat) (s : State) :
    (noticeReached e x n s).context e = { s.context e with notice := none } := by
  unfold noticeReached
  rw [State.context_updContext, (stationNotice_told ..).context]

/-- The frame stands at the tail of the last port's originate list (R109, R171). -/
theorem noticeReached_originate (x : Take) (n : Nat) (h : (s.port (s.station e).lastPort).originate.length < 512) :
    ((noticeReached e x n s).port (s.station e).lastPort).originate = (s.port (s.station e).lastPort).originate ++
      [⟨s.link.nextSerial, mkFrame (s.station e).config.node s.link.node kindNotice
        (bytesOf 1 3 ++ bytesOf 2 x.number ++ bytesOf 3 n ++ positionBytes (s.context e).position)⟩] := by
  unfold noticeReached
  rw [State.updContext_port]
  exact originate_originate _ _ h

/-- A notice point that is reached or not changes no more of its context. -/
theorem reachNoticeIf_context (x : Take) (test : Nat → Bool) (s : State) : (reachNoticeIf e x test s).context e =
    { s.context e with notice := ((reachNoticeIf e x test s).context e).notice } := by
  rcases reachNoticeIf_cases e x test s with ⟨n, h⟩ | h
  · rw [h, noticeReached_context]
  · rw [h]

theorem reachNoticeIf_same (e : StationId) (x : Take) (test : Nat → Bool) (s : State) :
    (reachNoticeIf e x test s).takeTable = s.takeTable ∧ (reachNoticeIf e x test s).handOff = s.handOff ∧
      (reachNoticeIf e x test s).playback.counters = s.playback.counters := by
  rcases reachNoticeIf_cases e x test s with ⟨n, h⟩ | h
  · have htold := stationNotice_told e (bytesOf 1 3 ++ bytesOf 2 x.number ++ bytesOf 3 n ++ positionBytes (s.context e).position) s
    rw [h]
    exact ⟨htold.takeTable, htold.handOff, (congrArg Playback.counters htold.playback :)⟩
  · rw [h]
    exact ⟨rfl, rfl, rfl⟩

/-! ### Passing and the notice point together -/

theorem not_between {m : Nat} (h : ¬(p < m ∧ m < q)) : (decide (p < m) && decide (m < q)) = false := by simpa using h

theorem passSealed_eq (hp : (s.context e).position = some p) (hq : ((passSpans n e k x s).1.context e).position = some q) :
    passSealed n e k x s =
      (reachNoticeIf e x (fun m => p < m && m < q) (passSpans n e k x s).1, (passSpans n e k x s).2) := by
  unfold passSealed
  simp only [hp, hq, Option.getD_some]

/-- Sealed passing leaves the context outside every span, or holds it at an open one's start; then a notice point that it moved beyond, from
below, is reached (R133, R143). -/
theorem passSealed_passed (hp : (s.context e).position = some p) (h : passSealed (x.spans.length + 1) e k x s = (u, held)) :
    ∃ q v, Passed e p q held s v ∧ u = reachNoticeIf e x (fun m => p < m && m < q) v ∧ (held = false → p ≤ q ∧ x.spanAt q = none) ∧
      (held = true → ∃ y ∈ x.spans, y.stop = none ∧ q = y.first) := by
  obtain ⟨hheld, hpassed⟩ := passSpans_passed (x.spans.length + 1) k x hp
  rw [passSealed_eq hp (by rw [hpassed.context]), hheld] at h
  obtain ⟨rfl, rfl⟩ := Prod.mk.inj h
  have hfuel := Nat.lt_succ_of_le (Take.spansAhead_le x p)
  exact ⟨_, _, hpassed, rfl, fun hh => ⟨le_avoidForward _ _ hh, avoidForward_clears _ _ hfuel hh⟩, avoidForward_held _ _⟩

theorem passSealed_clear (hp : (s.context e).position = some p) (hx : x.spanAt p = none) (n k : Nat) :
    passSealed n e k x s = (s, false) := by
  have hspans := passSpans_clear hp hx n k
  rw [passSealed_eq (q := p) hp (by rw [hspans]; exact hp), hspans, reachNoticeIf_of_not x fun m _ => not_between (by omega)]

theorem passSealed_open (hp : (s.context e).position = some p) (hx : x.spanAt p = some y) (hy : y.stop = none) (n k : Nat) :
    passSealed (n + 1) e k x s =
      (s.updContext e fun c => { c with state := .heldSealed, position := some y.first, located := some (s.locate k y.first) },
        true) := by
  have hspans := passSpans_open hp hx hy n k
  have hle := Take.first_le_of_spanAt hx
  rw [passSealed_eq (q := y.first) hp (by rw [hspans, State.context_updContext]), hspans,
    reachNoticeIf_of_not x fun m _ => not_between (by omega)]

/-- A closed span with no other at its end is passed in one move (R133). -/
theorem passSealed_closed (hp : (s.context e).position = some p) (hx : x.spanAt p = some y) (hy : y.stop = some q)
    (hq : x.spanAt q = none) (hn : ∀ m ∈ (s.context e).notice, m ≤ p ∨ q < m) (n k : Nat) :
    passSealed (n + 1) e k x s = (withheldTo e k p q s, false) := by
  have hctx : (withheldTo e k p q s).context e = _ := withheldTo_context k p q
  have hspans := (passSpans_closed hp hx hy n k).trans (passSpans_clear (by rw [hctx]) hq n k)
  rw [passSealed_eq (q := q) hp (by rw [hspans, hctx]), hspans, reachNoticeIf_of_not x fun m hm => ?_]
  rw [hctx] at hm
  have hout := hn m hm
  exact not_between (by omega)

/-- What the notice point makes of a passing: reached from below and beyond, it is told at the position where passing ends (R143; log 47). -/
theorem Passed.notice_reached {m : Nat} (h : Passed e p q held s v) (hm : (s.context e).notice = some m) (hpm : p < m) (hmq : m < q) :
    reachNoticeIf e x (fun m => p < m && m < q) v = noticeReached e x m v :=
  reachNoticeIf_of x (h.notice.trans hm) (by simp [hpm, hmq])

theorem Passed.notice_kept (h : Passed e p q held s v) (hm : ∀ m ∈ (s.context e).notice, ¬(p < m ∧ m < q)) :
    reachNoticeIf e x (fun m => p < m && m < q) v = v :=
  reachNoticeIf_of_not x fun m hn => by
    rw [h.notice] at hn
    exact not_between (hm m hn)

/-- The NOTICE_POINT carries the position at which passing ended (R109, R143; log 47). -/
theorem Passed.notice_told (h : Passed e p q held s v) (x : Take) (m : Nat)
    (hroom : (s.port (s.station e).lastPort).originate.length < 512) :
    ((noticeReached e x m v).port (s.station e).lastPort).originate = (s.port (s.station e).lastPort).originate ++
      [⟨s.link.nextSerial, mkFrame (s.station e).config.node s.link.node kindNotice
        (bytesOf 1 3 ++ bytesOf 2 x.number ++ bytesOf 3 m ++ positionBytes (some q))⟩] := by
  rw [← h.station, ← h.port] at hroom ⊢
  rw [noticeReached_originate x m hroom, h.link, h.context]

/-! ### Delivery after passing (R132, R133) -/

/-- A context that plays, or is held, and so takes its turn of delivery (R132). -/
def ContextState.delivers (x : ContextState) : Prop := x = .playing ∨ x = .heldLive ∨ x = .heldSealed

theorem deliverContext_of (h : (s.context e).state.delivers) : deliverContext e s = deliver 3 e s := by
  unfold deliverContext
  rcases h with h | h | h <;> rw [h]

section Deliver
variable (hk : (s.context e).take = some k) (hx : s.take? k = some x)
include hk hx

theorem deliver_held (hc : (s.station e).config.clearance = false) (h : passSealed (x.spans.length + 1) e k x s = (u, true)) (n : Nat) :
    deliver (n + 1) e s = u := by
  simp [deliver, hk, hx, hc, h]

/-- Passing that is not held comes first, and delivery is then as from where it ends. -/
theorem deliver_passed (hc : (s.station e).config.clearance = false) (h : passSealed (x.spans.length + 1) e k x s = (u, false))
    (hk' : (u.context e).take = some k) (hx' : u.take? k = some x) (hc' : (u.station e).config.clearance = false)
    (h' : passSealed (x.spans.length + 1) e k x u = (u, false)) (n : Nat) : deliver (n + 1) e s = deliver (n + 1) e u := by
  simp [deliver, hk, hx, hc, h, hk', hx', hc', h']

/-- A stored cell outside the spans is sent (R132 step 3). -/
theorem deliver_cell (hp : (s.context e).position = some p) (hclear : (s.station e).config.clearance = true ∨ x.spanAt p = none)
    {cell : AudioCell} (hcell : s.cellAt e k p x = some cell) (n : Nat) : deliver (n + 1) e s = sendCell e k p x cell s := by
  rcases hc : (s.station e).config.clearance with _ | _
  · have hpass := passSealed_clear (k := k) hp (hclear.resolve_left (by simp [hc])) (x.spans.length + 1)
    simp [deliver, hk, hx, hc, hpass, hp, hcell]
  · simp [deliver, hk, hx, hc, hp, hcell]

end Deliver

theorem cellAt_of_located {o r : Nat} (hp : p ≠ x.cells) (h : (s.context e).located = some (.page r o)) :
    s.cellAt e k p x = s.readCell k r (p % 256) := by
  unfold State.cellAt
  rw [if_neg hp, h]
  rfl

theorem Told.locate (h : Told s t) (k p : Nat) : t.locate k p = s.locate k p := by rw [h]; rfl

/-- A cell sent, with the context moved on by one, before a notice point there is reached (R132, R135). -/
def cellSent (e : StationId) (k p : Nat) (x : Take) (cell : AudioCell) (s : State) : State :=
  ((originate .office (s.cellFrame e x p cell) s).updContext e fun c =>
    { c with state := .playing, position := some (p + 1), located := some (s.locate k (p + 1)) }).countPlayback
      fun c => { c with cellsPlayed := c.cellsPlayed + 1 }

theorem sendCell_eq (e : StationId) (k p : Nat) (x : Take) (cell : AudioCell) (s : State) :
    sendCell e k p x cell s = reachNoticeIf e x (fun m => m == p) (cellSent e k p x cell s) := by
  have hsent : ((setPosition e k (p + 1) (originate .office (s.cellFrame e x p cell) s)).updContext e
      fun c => { c with state := .playing }).countPlayback (fun c => { c with cellsPlayed := c.cellsPlayed + 1 }) =
      cellSent e k p x cell s := by
    unfold setPosition cellSent
    rw [updContext_updContext, (originate_told ..).locate]
  rw [← hsent]
  rfl

theorem cellSent_context (k p : Nat) (x : Take) (cell : AudioCell) : (cellSent e k p x cell s).context e =
    { s.context e with state := .playing, position := some (p + 1), located := some (s.locate k (p + 1)) } := by
  unfold cellSent
  rw [State.countPlayback_context, State.context_updContext, (originate_told ..).context]

theorem cellSent_officePort (k p : Nat) (x : Take) (cell : AudioCell) (h : s.link.officePort.originate.length < 512) :
    (cellSent e k p x cell s).link.officePort.originate =
      s.link.officePort.originate ++ [⟨s.link.nextSerial, s.cellFrame e x p cell⟩] :=
  originate_originate .office (s.cellFrame e x p cell) h

theorem cellSent_counters (k p : Nat) (x : Take) (cell : AudioCell) : (cellSent e k p x cell s).playback.counters =
    { s.playback.counters with cellsPlayed := s.playback.counters.cellsPlayed + 1 } := by
  have ho := (originate_told .office (s.cellFrame e x p cell) s).playback
  exact congrArg (fun q : Playback => { q.counters with cellsPlayed := q.counters.cellsPlayed + 1 }) ho

/-- With no notice point at the cell, its sending is all (R143). -/
theorem sendCell_of_no_notice (k : Nat) (x : Take) (cell : AudioCell) (h : (s.context e).notice ≠ some p) :
    sendCell e k p x cell s = cellSent e k p x cell s := by
  rw [sendCell_eq, reachNoticeIf_of_not]
  intro m hm
  rw [cellSent_context] at hm
  exact beq_eq_false_iff_ne.2 fun he => h (he ▸ hm)

/-- Delivery applies passing first: held, the context sends nothing; otherwise it goes on as from where passing ends (R133). -/
theorem deliverContext_passed (hk : (s.context e).take = some k) (hx : s.take? k = some x) (hp : (s.context e).position = some p)
    (hc : (s.station e).config.clearance = false) (hs : (s.context e).state.delivers)
    (h : passSealed (x.spans.length + 1) e k x s = (u, held)) :
    deliverContext e s = if held then u else deliverContext e u := by
  rw [deliverContext_of hs]
  cases held with
  | true => exact deliver_held hk hx hc h 2
  | false =>
    obtain ⟨q, v, hv, rfl, hq, _⟩ := passSealed_passed hp h
    obtain ⟨htakes, hhand, _⟩ := reachNoticeIf_same e x (fun m => p < m && m < q) v
    have hctx := reachNoticeIf_context (e := e) x (fun m => p < m && m < q) v
    rw [hv.context] at hctx
    have hx' : (reachNoticeIf e x (fun m => p < m && m < q) v).take? k = some x := by
      unfold State.take?
      rw [htakes, hv.takeTable]
      exact hx
    have hc' : ((reachNoticeIf e x (fun m => p < m && m < q) v).station e).config.clearance = false := by
      unfold State.station
      rw [hhand, hv.handOff]
      exact hc
    rw [deliver_passed hk hx hc h (by rw [hctx]; exact hk) hx' hc' (passSealed_clear (by rw [hctx]) (hq rfl).2 _ _),
      ← deliverContext_of (by rw [hctx]; exact hs)]
    rfl

theorem deliverContext_cell (hk : (s.context e).take = some k) (hx : s.take? k = some x) (hp : (s.context e).position = some p)
    (hclear : (s.station e).config.clearance = true ∨ x.spanAt p = none) (hs : (s.context e).state.delivers) {cell : AudioCell}
    (hcell : s.cellAt e k p x = some cell) : deliverContext e s = sendCell e k p x cell s :=
  (deliverContext_of hs).trans (deliver_cell hk hx hp hclear hcell 2)

/-- The frame of a cell reads the station, the link's address and the context's mix, which passing leaves alone. -/
theorem cellFrame_withheldTo (x : Take) (r : Nat) (cell : AudioCell) :
    (withheldTo e k p q s).cellFrame e x r cell = s.cellFrame e x r cell := by
  unfold State.cellFrame
  rw [withheldTo_context]
  rfl

/-- A context past a closed span is sent the cell at its end in the same sync (R133). -/
theorem deliverContext_closed (hk : (s.context e).take = some k) (hx : s.take? k = some x) (hp : (s.context e).position = some p)
    (hc : (s.station e).config.clearance = false) (hs : (s.context e).state.delivers) (hspan : x.spanAt p = some y)
    (hy : y.stop = some q) (hq : x.spanAt q = none) (hlt : q < x.cells) {r o : Nat} {cell : AudioCell} (hl : s.locate k q = .page r o)
    (hcell : s.readCell k r (q % 256) = some cell) (hn : ∀ m ∈ (s.context e).notice, m ≤ p ∨ q < m) :
    deliverContext e s = cellSent e k q x cell (withheldTo e k p q s) := by
  have hctx : (withheldTo e k p q s).context e = _ := withheldTo_context k p q
  have hfound : (withheldTo e k p q s).cellAt e k q x = some cell :=
    (cellAt_of_located hlt.ne (by rw [hctx, hl])).trans hcell
  have hsend := deliverContext_cell (s := withheldTo e k p q s) (by rw [hctx]; exact hk) hx (by rw [hctx]) (.inr hq)
    (by rw [hctx]; exact hs) hfound
  rw [deliverContext_passed hk hx hp hc hs (passSealed_closed hp hspan hy hq hn _ _)]
  refine hsend.trans (sendCell_of_no_notice k x cell ?_)
  rw [hctx]
  intro hm
  have hout := hn q hm
  have hpq := Take.lt_stop_of_spanAt hspan hy
  omega

end Sys2Proof.Machine

open Sys2Proof Sys2Proof.Machine in
/-- Settles O50: passing ends where a forward resolution would, which is outside every span or at an open one's start, and only then is the
notice point compared. Delivery from there passes nothing more. -/
theorem sealedPassingClearsTheSpans : Obligations.SealedPassingClearsTheSpans := by
  refine ⟨fun e k t s p _ hp u held h => ?_, fun e k p t s hk ht hp hc hs => ⟨fun u held h => ?_, fun x hx ho => ?_, ?_⟩⟩
  · obtain ⟨q, v, hv, hu, hclear, hheld⟩ := passSealed_passed hp h
    have hctx : u.context e = { v.context e with notice := (u.context e).notice } := by rw [hu]; exact reachNoticeIf_context ..
    have hpos : (u.context e).position = some q := by rw [hctx, hv.context]
    refine ⟨fun hh => ⟨q, hpos, (hclear hh).1, (hclear hh).2, ?_⟩, fun hh => ⟨?_, ?_⟩, fun hn => ?_, fun n p' hn hp' => ?_⟩
    · rw [hu, (reachNoticeIf_same ..).2.2, hv.withheld hh]
    · rw [hctx, hv.context]
      exact if_pos hh
    · obtain ⟨y, hy, ho, rfl⟩ := hheld hh
      exact ⟨y, hy, ho, hpos⟩
    · rw [hu, hv.notice_kept (by rw [hn]; simp)]
      exact ⟨hv.notice.trans hn, hv.link⟩
    · obtain rfl : q = p' := Option.some.inj (hpos.symm.trans hp')
      refine ⟨fun hout => ?_, fun hpn hnq => ?_⟩
      · rw [hu, hv.notice_kept (by rw [hn]; simpa using hout)]
        exact ⟨hv.notice.trans hn, hv.link⟩
      · rw [hu, hv.notice_reached hn hpn hnq, noticeReached_context]
        exact ⟨rfl, hv.notice_told t n⟩
  · have hdeliver := deliverContext_passed hk ht hp hc hs h
    exact ⟨fun hh => by rw [hdeliver, if_pos hh], fun hh => by rw [hdeliver, hh]; rfl⟩
  · rw [deliverContext_passed hk ht hp hc hs (passSealed_open hp hx ho _ _)]
    rfl
  · intro x stop n o cell hx ho hclear hlt hl hcell hn hroom
    refine ⟨_, deliverContext_closed hk ht hp hc hs hx ho hclear hlt hl hcell hn, ?_, ?_, ?_, ?_⟩
    · rw [cellSent_context, withheldTo_context]
      rfl
    · rw [cellSent_officePort k stop t cell (s := withheldTo e k p stop s) hroom, cellFrame_withheldTo]
      rfl
    all_goals
      rw [cellSent_counters]
      rfl

/-! ## Playback contexts and pins (R129 to R131) -/

namespace Sys2Proof.Machine

variable {s t u : State} {e : StationId} {k : Nat} {x y : Take}

/-- The coherence of the contexts reads the contexts alone. -/
theorem ContextsCoherent.of_contexts (h : ContextsCoherent s) (hc : t.playback.contexts = s.playback.contexts) : ContextsCoherent t :=
  fun e => context_of_contexts hc e ▸ h e

/-- A change writes a coherent context or none. -/
theorem Change.contextsCoherent (hc : Change s t) (h : ContextsCoherent s) : ContextsCoherent t := by
  cases hc with
  | context e f hf _ =>
    intro q
    rw [State.context_updContext_eq]
    split
    · subst_vars; exact hf (h _)
    · exact h q
  | moved e c hm _ =>
    intro q
    rw [moveContext_context]
    split
    · exact hm
    · exact h q
  | quiet _ hq => exact h.of_contexts (congrArg Shape.contexts hq)
  | port p _ _ => exact h.of_contexts (by cases p <;> rfl)
  | linked k n rest t cell _ _ _ => rw [storeLinked_eq]; exact h
  | wrote k t cell ht _ => rw [writeCell_eq cell ht]; exact h
  | room _ _ _ _ => exact h
  | station _ _ _ => exact h
  | manager _ _ => exact h
  | take _ _ _ _ _ _ _ _ => exact h
  | place _ _ _ _ _ => exact h
  | opened _ _ _ _ _ _ _ _ => exact h
  | freed _ _ _ _ => exact h

theorem Move.contextsCoherent (hm : Move s t) (h : ContextsCoherent s) : ContextsCoherent t := by
  cases hm with
  | change _ hc => exact hc.contextsCoherent h
  | _ => exact h

/-! ### Pin counts (R130, R131) -/

/-- A take that a context is attached to has a reader. -/
theorem readers_pos (h : (s.context e).take = some k) : 0 < s.readers k :=
  List.countP_pos_iff.2 ⟨e, List.mem_finRange e, by simp [h]⟩

theorem readers_eq_zero (h : ∀ e : StationId, (s.context e).take ≠ some k) : s.readers k = 0 :=
  List.countP_eq_zero.2 fun e _ => by simpa using h e

/-- The pin count of a slot's take, 0 for a FREE slot. -/
def State.pinsOf (s : State) (k : Nat) : Nat := ((s.take? k).map Take.pins).getD 0

theorem pinsOf_some (h : s.take? k = some x) : s.pinsOf k = x.pins := by simp [State.pinsOf, h]

theorem pinsOf_none (h : s.take? k = none) : s.pinsOf k = 0 := by simp [State.pinsOf, h]

/-- The pins are kept exactly when every slot has as many pins as readers: none at all for a FREE slot. -/
theorem pinsKept_iff : PinsKept s ↔ ∀ k, s.pinsOf k = s.readers k := by
  constructor
  · rintro ⟨hlive, hpins⟩ k
    rcases hk : s.take? k with _ | x
    · rw [pinsOf_none hk, readers_eq_zero fun e he => by simpa [hk] using hlive e k he]
    · rw [pinsOf_some hk, hpins k x hk]
  · refine fun h => ⟨fun e k he => ?_, fun k x hk => (pinsOf_some hk).symm.trans (h k)⟩
    by_contra hk
    have hnone := pinsOf_none (Option.not_isSome_iff_eq_none.1 hk)
    have hread := readers_pos he
    have := h k
    omega

theorem PinsKept.of_same (h : PinsKept s) (hc : ∀ e, (t.context e).take = (s.context e).take) (ht : ∀ k, t.pinsOf k = s.pinsOf k) :
    PinsKept t :=
  pinsKept_iff.2 fun k => by rw [ht, pinsKept_iff.1 h]; simp only [State.readers, hc]

theorem pinsOf_of_takes (h : t.takeTable.takes = s.takeTable.takes) (k : Nat) : t.pinsOf k = s.pinsOf k := by
  simp only [State.pinsOf, State.take?, h]

/-- A record written over one with as many pins, or with none in a FREE slot, leaves every pin count. -/
theorem pinsOf_of_set (h : t.takeTable.takes = mapSet k y s.takeTable.takes) (hp : y.pins = s.pinsOf k) (j : Nat) :
    t.pinsOf j = s.pinsOf j := by
  by_cases hj : j = k
  · subst hj
    rw [← hp]
    simp [State.pinsOf, State.take?, h]
  · simp only [State.pinsOf, State.take?, h, mapGet_mapSet_ne hj]

/-- The take a context comes to gains a pin with its reader, and the take it leaves loses one with its reader (R131). -/
theorem moveContext_pinsKept (c : Context) (hc : ∀ k, c.take = some k → (s.take? k).isSome = true) (h : PinsKept s) :
    PinsKept (moveContext e c s) := by
  rw [pinsKept_iff] at h ⊢
  intro k
  have hread := moveContext_readers e c k (s := s)
  have hleft : (if (s.context e).take = some k then 1 else 0) ≤ s.readers k := by
    split
    · exact readers_pos ‹_›
    · exact Nat.zero_le _
  have hk := h k
  rcases hs : s.take? k with _ | x
  · have hcome : c.take ≠ some k := fun hcome => by simpa [hs] using hc k hcome
    rw [if_neg hcome] at hread
    rw [pinsOf_none hs] at hk
    rw [pinsOf_none (by rw [moveContext_take, hs]; rfl)]
    omega
  · rw [pinsOf_some hs] at hk
    rw [pinsOf_some (by rw [moveContext_take, hs]; rfl)]
    dsimp only
    omega

/-- A take that is freed has no pin, or no reader: either way it has neither (R34, R55). -/
theorem pinsKept_of_erase (h : PinsKept s) (hc : t.playback.contexts = s.playback.contexts)
    (ht : t.takeTable.takes = mapErase k s.takeTable.takes) (hk : s.pinsOf k = 0) : PinsKept t :=
  h.of_same (fun e => congrArg Context.take (context_of_contexts hc e)) fun j => by
    by_cases hj : j = k
    · subst hj
      rw [hk]
      exact pinsOf_none (by simp [State.take?, ht])
    · simp only [State.pinsOf, State.take?, ht, mapGet_mapErase_ne hj]

theorem writeCell_pinsKept (cell : AudioCell) (hk : s.take? k = some x) (h : PinsKept s) : PinsKept (writeCell k cell s) := by
  rw [writeCell_eq cell hk]
  exact h.of_same (fun _ => rfl) (pinsOf_of_set rfl (pinsOf_some hk).symm)

theorem linkPage_pinsKept (n : Nat) (rest : List Nat) (hk : s.take? k = some x) (h : PinsKept s) : PinsKept (linkPage k n rest x s) :=
  h.of_same (fun _ => rfl) (pinsOf_of_set rfl (pinsOf_some hk).symm)

theorem Change.pinsKept (hc : Change s t) (h : PinsKept s) : PinsKept t := by
  cases hc with
  | moved e c _ hlive => exact moveContext_pinsKept c hlive h
  | freed k x hk hp =>
    refine pinsKept_of_erase h rfl rfl ?_
    rcases hp with hp | hp
    · rw [pinsOf_some hk, hp]
    · rw [pinsKept_iff.1 h, readers_eq_zero hp]
  | take k x y hk _ _ _ hp => exact h.of_same (fun _ => rfl) (pinsOf_of_set rfl (hp.trans (pinsOf_some hk).symm))
  | place k x m hk _ => exact h.of_same (fun _ => rfl) (pinsOf_of_set rfl (pinsOf_some hk).symm)
  | opened k x hk _ _ _ _ hp => exact h.of_same (fun _ => rfl) (pinsOf_of_set rfl (hp.trans (pinsOf_none hk).symm))
  | linked k n rest x cell hk _ _ => exact writeCell_pinsKept cell mapGet_mapSet_same (linkPage_pinsKept n rest hk h)
  | wrote k x cell hk _ => exact writeCell_pinsKept cell hk h
  | context e f _ htake =>
    refine h.of_same (fun q => ?_) (pinsOf_of_takes rfl)
    rw [State.context_updContext_eq]
    split
    · subst_vars; exact htake
    · rfl
  | quiet _ hq =>
    exact h.of_same (fun e => congrArg Context.take (context_of_contexts (congrArg Shape.contexts hq) e))
      (pinsOf_of_takes (congrArg Shape.takes hq))
  | port p _ _ => cases p <;> exact h
  | room _ _ _ _ => exact h
  | station _ _ _ => exact h
  | manager _ _ => exact h

theorem Move.pinsKept (hm : Move s t) (h : PinsKept s) : PinsKept t := by
  cases hm with
  | change _ hc => exact hc.pinsKept h
  | _ => exact h

end Sys2Proof.Machine

open Sys2Proof Sys2Proof.Machine in
/-- Settles O54: a change writes coherent contexts, and the pin counts of the takes follow each move of a context between them. -/
theorem contextsStayCoherent : Obligations.ContextsStayCoherent :=
  ⟨fun _ _ hs h => step_keeps (fun _ _ hm => hm.contextsCoherent) (fun _ _ h => h)
      (fun s straps clock _ _ => afterReset_contextsCoherent straps clock s.pending) hs h,
    fun _ _ hs h => step_keeps (fun _ _ hm => hm.pinsKept) (fun _ _ h => h)
      (fun s straps clock _ _ => afterReset_pinsKept straps clock s.pending) hs h⟩

/-! ## Mixes (R136, R137) -/

namespace Sys2Proof.Machine

variable {m : Mix} {x : Take} {cell : AudioCell} {i j : Nat} {q : Int}

/-- The value of a track at one sample index in a MONO sum, before the mask (R137). -/
def Mix.weighted (m : Mix) (cell : AudioCell) (j i : Nat) : Int := cellSample cell i j * (m.gain i : Int)

/-- The sum over the masked tracks is the sum over every track with 0 for those outside the mask (R137). -/
theorem mixTotal_eq (m : Mix) (x : Take) (cell : AudioCell) (j : Nat) :
    ((mixTracks m x.tracks).map (m.weighted cell j)).foldl (· + ·) 0 = mixTotal m x cell j := by
  have hsplit := List.sum_map_ite (fun i => m.mask.getLsbD (i - 1) = true) (m.weighted cell j) (fun _ => 0) (List.range' 1 x.tracks)
  simp only [List.map_const', List.sum_replicate, smul_zero, add_zero, Bool.decide_eq_true] at hsplit
  rw [← List.sum_eq_foldl]
  exact hsplit.symm

/-- A quotient rounded down and saturated fits a sample (R137). -/
theorem mixSample_toInt {total : Int} (hlo : 16 * q ≤ total) (hhi : total < 16 * q + 16) :
    (mixSample total).toInt = max (-32768) (min 32767 q) := by
  have hdiv : total.fdiv 16 = q := by
    rw [Int.fdiv_eq_ediv_of_nonneg _ (by decide)]
    omega
  unfold mixSample
  rw [hdiv, BitVec.toInt_ofInt, Int.bmod_eq_of_le] <;> omega

theorem monoGranule_sample (hj : j < x.period.samples) (hlo : 16 * q ≤ mixTotal m x cell j) (hhi : mixTotal m x cell j < 16 * q + 16) :
    ((monoGranule m x.tracks x.period.samples cell)[j]?.getD 0).toInt = max (-32768) (min 32767 q) := by
  have hget : (monoGranule m x.tracks x.period.samples cell)[j]? =
      some (mixSample (((mixTracks m x.tracks).map (m.weighted cell j)).foldl (· + ·) 0)) := by
    unfold monoGranule
    rw [List.getElem?_map, List.getElem?_range hj]
    rfl
  rw [hget, mixTotal_eq]
  exact mixSample_toInt hlo hhi

theorem mixGranules_separate (h : m.mode = .separate) : mixGranules m x cell =
    ((List.range' 1 x.tracks).filter fun i => m.mask.getLsbD (i - 1)).map fun i => (i, cell[i - 1]?.getD []) := by
  unfold mixGranules
  rw [h]
  rfl

theorem mixGranules_mono (h : m.mode = .mono) : mixGranules m x cell = [(0, monoGranule m x.tracks x.period.samples cell)] := by
  unfold mixGranules
  rw [h]

theorem monoGranule_length (tracks samples : Nat) : (monoGranule m tracks samples cell).length = samples := by
  simp [monoGranule]

end Sys2Proof.Machine

/-! ## Frames that playback adds (R109, R135, R171) -/

namespace Sys2Proof.Machine

variable {s t u : State} {e : StationId} {k n p r : Nat} {x : Take} {q : Port} {l l' : List Frame} {why : EndReason}

theorem FramesAdded.of_link (h : t.link = s.link) : FramesAdded q [] s t := by
  unfold FramesAdded
  cases q <;> simp [State.port, h]

theorem FramesAdded.trans (h : FramesAdded q l s t) (h' : FramesAdded q l' t u) : FramesAdded q (l ++ l') s u := by
  unfold FramesAdded at *
  rw [h', h, List.append_assoc]

/-- What stands after frames that were added, when nothing more is written to the Link Interface. -/
theorem FramesAdded.then (h : FramesAdded q l s t) (hl : u.link = t.link := by rfl) : FramesAdded q l s u := by
  rw [← List.append_nil l]
  exact h.trans (.of_link hl)

theorem FramesAdded.length (h : FramesAdded q l s t) : (t.port q).originate.length = (s.port q).originate.length + l.length := by
  simpa using congrArg List.length h

theorem originate_framesAdded (p q : Port) (fr : Frame) (h : (s.port p).originate.length < 512) :
    FramesAdded q (if q = p then [fr] else []) s (originate p fr s) := by
  unfold FramesAdded
  split
  · subst_vars
    rw [originate_originate _ fr h, List.map_append]
    rfl
  · rename_i hq
    rw [originate_port_ne fr hq, List.append_nil]

theorem originate_node (p : Port) (fr : Frame) (s : State) : (originate p fr s).link.node = s.link.node :=
  (originate_writes (rooms := true) (ports := true) p fr).node

theorem noticePointFrame_of_same (hn : t.link.node = s.link.node) (hs : (t.station e).config = (s.station e).config) :
    t.noticePointFrame e x n p = s.noticePointFrame e x n p := by
  unfold State.noticePointFrame State.frameTo
  rw [hn, hs]

theorem endFrame_of_same (hn : t.link.node = s.link.node) (hs : (t.station e).config = (s.station e).config) :
    t.endFrame e x p why = s.endFrame e x p why := by
  unfold State.endFrame State.frameTo
  rw [hn, hs]

/-! ### The notice point at a position (R143) -/

/-- A notice point that stands at the position `p` is reached. -/
def noticeAt (e : StationId) (x : Take) (p : Nat) (s : State) : State := reachNoticeIf e x (fun m => m == p) s

theorem noticeAt_cases (e : StationId) (x : Take) (p : Nat) (s : State) :
    ((s.context e).notice = some p ∧ noticeAt e x p s = noticeReached e x p s) ∨
      ((s.context e).notice ≠ some p ∧ noticeAt e x p s = s) := by
  by_cases h : (s.context e).notice = some p
  · exact .inl ⟨h, reachNoticeIf_of x h (beq_self_eq_true p)⟩
  · exact .inr ⟨h, reachNoticeIf_of_not x fun m hm => beq_eq_false_iff_ne.2 fun he => h (he ▸ hm)⟩

theorem noticeReached_frame (e : StationId) (x : Take) (n : Nat) (s : State) : noticeReached e x n s =
    { s with playback := (noticeReached e x n s).playback, link := (noticeReached e x n s).link, mgmt := (noticeReached e x n s).mgmt } := by
  have h := stationNotice_told e (bytesOf 1 3 ++ bytesOf 2 x.number ++ bytesOf 3 n ++ positionBytes (s.context e).position) s
  unfold noticeReached
  rw [h]
  rfl

theorem noticeAt_frame (e : StationId) (x : Take) (p : Nat) (s : State) : noticeAt e x p s =
    { s with playback := (noticeAt e x p s).playback, link := (noticeAt e x p s).link, mgmt := (noticeAt e x p s).mgmt } := by
  rcases noticeAt_cases e x p s with ⟨_, h⟩ | ⟨_, h⟩
  · rw [h]
    exact noticeReached_frame ..
  · rw [h]

theorem noticeAt_takeTable : (noticeAt e x p s).takeTable = s.takeTable := by rw [noticeAt_frame]

theorem noticeAt_store : (noticeAt e x p s).store = s.store := by rw [noticeAt_frame]

theorem noticeAt_station : (noticeAt e x p s).station e = s.station e := by rw [noticeAt_frame]; rfl

theorem noticeAt_counters : (noticeAt e x p s).playback.counters = s.playback.counters := (reachNoticeIf_same ..).2.2

theorem noticeAt_context : (noticeAt e x p s).context e =
    { s.context e with notice := if (s.context e).notice = some p then none else (s.context e).notice } := by
  rcases noticeAt_cases e x p s with ⟨hn, h⟩ | ⟨hn, h⟩
  · rw [h, noticeReached_context, if_pos hn]
  · rw [h, if_neg hn]

theorem noticeAt_context_ne {q : StationId} (h : q ≠ e) : (noticeAt e x p s).context q = s.context q := by
  rcases noticeAt_cases e x p s with ⟨_, hr⟩ | ⟨_, hr⟩
  · rw [hr]
    unfold noticeReached
    rw [State.context_updContext_ne _ _ (Ne.symm h), (stationNotice_told ..).context]
  · rw [hr]

theorem noticeAt_node : (noticeAt e x p s).link.node = s.link.node := by
  rcases noticeAt_cases e x p s with ⟨_, h⟩ | ⟨_, h⟩
  · rw [h]
    exact originate_node ..
  · rw [h]

/-- The frames of a notice point at `p`: one NOTICE_POINT to the station's last port, where it is reached (R109, R143). -/
theorem noticeAt_framesAdded (q : Port) (hp : (s.context e).position = some r)
    (h : (s.port (s.station e).lastPort).originate.length < 512) :
    FramesAdded q (if q = (s.station e).lastPort ∧ (s.context e).notice = some p then [s.noticePointFrame e x p r] else []) s
      (noticeAt e x p s) := by
  rcases noticeAt_cases e x p s with ⟨hn, hr⟩ | ⟨hn, hr⟩
  · have hsent : noticeReached e x p s =
        (originate (s.station e).lastPort (s.noticePointFrame e x p r) s).updContext e fun c => { c with notice := none } := by
      unfold noticeReached
      rw [hp]
      rfl
    rw [hr, hsent]
    simp only [hn, and_true]
    exact (originate_framesAdded _ q _ h).then
  · rw [hr, if_neg fun h => hn h.2]
    exact .of_link rfl

/-! ### END_OF_TAKE (R144) -/

theorem endOfTakeNotice_eq (e : StationId) (x : Take) (p : Nat) (why : EndReason) (s : State) :
    endOfTakeNotice e x.number p why s = (originate (s.station e).lastPort (s.endFrame e x p why) s).countPlayback
      fun c => { c with endOfTakeNotices := c.endOfTakeNotices + 1 } := rfl

theorem endOfTakeNotice_framesAdded (h : (s.port (s.station e).lastPort).originate.length < 512) :
    FramesAdded (s.station e).lastPort [s.endFrame e x p why] s (endOfTakeNotice e x.number p why s) := by
  rw [endOfTakeNotice_eq]
  have := originate_framesAdded (s.station e).lastPort (s.station e).lastPort (s.endFrame e x p why) h
  rw [if_pos rfl] at this
  exact this.then

theorem endOfTakeNotice_counters (number : Nat) : (endOfTakeNotice e number p why s).playback.counters =
    { s.playback.counters with endOfTakeNotices := s.playback.counters.endOfTakeNotices + 1 } :=
  congrArg (fun y : Playback => { y.counters with endOfTakeNotices := y.counters.endOfTakeNotices + 1 }) (stationNotice_told ..).playback

theorem endOfTakeNotice_context (number : Nat) (q : StationId) : (endOfTakeNotice e number p why s).context q = s.context q :=
  context_of_contexts (endOfTakeNotice_contexts ..) q

theorem endOfTakeNotice_same (number : Nat) : (endOfTakeNotice e number p why s).takeTable = s.takeTable ∧
    (endOfTakeNotice e number p why s).store = s.store ∧ (endOfTakeNotice e number p why s).handOff = s.handOff :=
  have h := stationNotice_told e (bytesOf 1 4 ++ bytesOf 2 number ++ bytesOf 3 p ++ bytesOf 1 why.code) s
  ⟨h.takeTable, h.store, h.handOff⟩

end Sys2Proof.Machine

/-! ## A context's turn of delivery (R130, R132, R144, R145) -/

namespace Sys2Proof.Machine

variable {s t u v w : State} {e : StationId} {k k' n o p r : Nat} {x y : Take} {q : Port} {cell : AudioCell} {mix : Mix}

/-- A BULK context without a credit sends no item (R148). -/
theorem deliverBulk_spent (h : (s.context e).credits = 0) (n : Nat) : deliverBulk n e s = s := by
  cases n with
  | zero => rfl
  | succ n =>
    rw [deliverBulk]
    split
    · rfl
    · split
      · rfl
      · exact if_pos (.inl h)

theorem deliverContext_bulk (h : (s.context e).state = .bulk) : deliverContext e s = deliverBulk 8 e s := by
  unfold deliverContext
  rw [h]
  rfl

theorem deliverContext_idle (h : (s.context e).state = .stopped ∨ (s.context e).state = .paused ∨
    ((s.context e).state = .bulk ∧ (s.context e).credits = 0)) : deliverContext e s = s := by
  rcases h with h | h | ⟨h, hc⟩
  · unfold deliverContext
    rw [h]
  · unfold deliverContext
    rw [h]
  · rw [deliverContext_bulk h, deliverBulk_spent hc]

/-! ### A cell sent (R132, R135) -/

/-- The cell is read on the located page, or on the page found where the context stood at the end (R132 step 3). -/
theorem cellAt_found (hp : p ≠ x.cells)
    (h : (s.context e).located = some (.page n o) ∨ ((s.context e).located = some .atEnd ∧ s.locate k p = .page n o)) :
    s.cellAt e k p x = s.readCell k n (p % 256) := by
  rcases h with h | ⟨h, hl⟩
  · exact cellAt_of_located hp h
  · unfold State.cellAt
    rw [if_neg hp, h]
    simp only [hl]
    rfl

theorem cellSent_same (k p : Nat) (x : Take) (cell : AudioCell) : (cellSent e k p x cell s).takeTable = s.takeTable ∧
    (cellSent e k p x cell s).store = s.store ∧ (cellSent e k p x cell s).handOff = s.handOff :=
  have h := originate_told .office (s.cellFrame e x p cell) s
  ⟨h.takeTable, h.store, h.handOff⟩

theorem cellSent_context_ne {q : StationId} (h : q ≠ e) : (cellSent e k p x cell s).context q = s.context q := by
  unfold cellSent
  rw [State.countPlayback_context, State.context_updContext_ne _ _ (Ne.symm h), (originate_told ..).context]

theorem cellSent_framesAdded (q : Port) (h : s.link.officePort.originate.length < 512) :
    FramesAdded q (if q = .office then [s.cellFrame e x p cell] else []) s (cellSent e k p x cell s) :=
  (originate_framesAdded .office q _ h).then

theorem cellSent_node : (cellSent e k p x cell s).link.node = s.link.node := originate_node ..

theorem cellSent_station : (cellSent e k p x cell s).station e = s.station e := by
  unfold State.station
  rw [(cellSent_same ..).2.2]

theorem sendCell_noticeAt (e : StationId) (k p : Nat) (x : Take) (cell : AudioCell) (s : State) :
    sendCell e k p x cell s = noticeAt e x p (cellSent e k p x cell s) := sendCell_eq ..

theorem sendCell_context : (sendCell e k p x cell s).context e = { s.context e with
    state := .playing, position := some (p + 1), located := some (s.locate k (p + 1)),
    notice := if (s.context e).notice = some p then none else (s.context e).notice } := by
  rw [sendCell_noticeAt, noticeAt_context, cellSent_context]

theorem sendCell_context_ne {q : StationId} (h : q ≠ e) : (sendCell e k p x cell s).context q = s.context q := by
  rw [sendCell_noticeAt, noticeAt_context_ne h, cellSent_context_ne h]

theorem sendCell_takeTable : (sendCell e k p x cell s).takeTable = s.takeTable := by
  rw [sendCell_noticeAt, noticeAt_takeTable, (cellSent_same ..).1]

theorem sendCell_store : (sendCell e k p x cell s).store = s.store := by
  rw [sendCell_noticeAt, noticeAt_store, (cellSent_same ..).2.1]

theorem sendCell_counters : (sendCell e k p x cell s).playback.counters =
    { s.playback.counters with cellsPlayed := s.playback.counters.cellsPlayed + 1 } := by
  rw [sendCell_noticeAt, noticeAt_counters, cellSent_counters]

/-- The cell's frame leaves by the Office Port, and after it the NOTICE_POINT of a notice point there by the station's last port (R135, R143). -/
theorem sendCell_framesAdded (h : ∀ q : Port, (s.port q).originate.length < 511) (q : Port) :
    FramesAdded q ((if q = .office then [s.cellFrame e x p cell] else []) ++
      (if q = (s.station e).lastPort ∧ (s.context e).notice = some p then [s.noticePointFrame e x p (p + 1)] else [])) s
      (sendCell e k p x cell s) := by
  have hoffice : s.link.officePort.originate.length < 512 := (h .office).trans (by decide)
  have hcell := cellSent_framesAdded (e := e) (k := k) (p := p) (x := x) (cell := cell) (s := s) (h := hoffice)
  have hlast : ((cellSent e k p x cell s).port (s.station e).lastPort).originate.length < 512 := by
    have hroom := h (s.station e).lastPort
    rw [(hcell _).length]
    split <;> simp only [List.length_cons, List.length_nil] <;> omega
  have hnotice := noticeAt_framesAdded (e := e) (p := p) (r := p + 1) (x := x) (s := cellSent e k p x cell s) q
    (by rw [cellSent_context]) (by rw [cellSent_station]; exact hlast)
  rw [cellSent_station, cellSent_context, noticePointFrame_of_same cellSent_node (congrArg Station.config cellSent_station)] at hnotice
  rw [sendCell_noticeAt]
  exact (hcell q).trans hnotice

/-! ### The end of a take (R144) -/

/-- A context gone on to another take by a follow move, and playing there (R145). -/
def followOn (e : StationId) (k : Nat) (s : State) : State := (followMove e k s).updContext e fun c => { c with state := .playing }

/-- What a context does at the end of a take that is not open: with follow it goes on, for want of a take to go on to it is detached, and without
follow it is PAUSED (R144). -/
def endReached (n : Nat) (e : StationId) (x : Take) (p : Nat) (s : State) : State :=
  if (s.context e).follow then
    match s.followTarget e x with
    | some k => deliver n e (followOn e k s)
    | none => endOfTakeNotice e x.number p .followEnded (detach e s)
  else endOfTakeNotice e x.number p .ended (s.updContext e fun c => { c with state := .paused })

theorem endReached_paused (h : (s.context e).follow = false) :
    endReached n e x p s = endOfTakeNotice e x.number p .ended (s.updContext e fun c => { c with state := .paused }) := by
  unfold endReached
  rw [h]
  rfl

theorem endReached_follows (h : (s.context e).follow = true) (ht : s.followTarget e x = some k) :
    endReached n e x p s = deliver n e (followOn e k s) := by
  unfold endReached
  rw [if_pos h, ht]

theorem endReached_followEnded (h : (s.context e).follow = true) (ht : s.followTarget e x = none) :
    endReached n e x p s = endOfTakeNotice e x.number p .followEnded (detach e s) := by
  unfold endReached
  rw [if_pos h, ht]

theorem cellAt_end : s.cellAt e k x.cells x = none := if_pos rfl

section Deliver
variable (hk : (s.context e).take = some k) (hx : s.take? k = some x) (hp : (s.context e).position = some x.cells)
  (hclear : (s.station e).config.clearance = true ∨ x.spanAt x.cells = none)
include hk hx hp hclear

/-- At the live edge of an open take the context is held (R132). -/
theorem deliver_live (ho : x.lifecycle = .open) (n : Nat) :
    deliver (n + 1) e s = s.updContext e fun c => { c with state := .heldLive } := by
  rcases hc : (s.station e).config.clearance with _ | _
  · have hpass := passSealed_clear (k := k) hp (hclear.resolve_left (by simp [hc])) (x.spans.length + 1)
    simp [deliver, hk, hx, hc, hpass, hp, cellAt_end, ho]
  · simp [deliver, hk, hx, hc, hp, cellAt_end, ho]

/-- At the end of another take a notice point there is reached first (R143, R144). -/
theorem deliver_end (ho : x.lifecycle ≠ .open) (n : Nat) :
    deliver (n + 1) e s = endReached n e x x.cells (noticeAt e x x.cells s) := by
  rcases hc : (s.station e).config.clearance with _ | _
  · have hpass := passSealed_clear (k := k) hp (hclear.resolve_left (by simp [hc])) (x.spans.length + 1)
    simp only [deliver, hk, hx, hc, hpass, hp, cellAt_end, ho, Option.getD_some, if_false, Bool.false_eq_true]
    rfl
  · simp only [deliver, hk, hx, hc, hp, cellAt_end, ho, Option.getD_some, if_true, if_false, Bool.false_eq_true]
    rfl

end Deliver

theorem noticeAt_followTarget : (noticeAt e x p s).followTarget e y = s.followTarget e y := by
  unfold State.followTarget State.findTake
  rw [noticeAt_context, noticeAt_takeTable]

theorem followTarget_some (hl : (s.context e).link = some n) (hf : s.findTake n = some (k, y)) (hr : y.room = x.room) :
    s.followTarget e x = some k := by
  simp [State.followTarget, hl, hf, hr]

theorem followTarget_none
    (h : ∀ (n k : Nat) (y : Take), (s.context e).link = some n → s.findTake n = some (k, y) → y.room ≠ x.room) :
    s.followTarget e x = none := by
  unfold State.followTarget
  split
  · rename_i k y hb
    obtain ⟨n, hl, hf⟩ := Option.bind_eq_some_iff.1 hb
    rw [if_neg (h n k y hl hf)]
  · rfl

end Sys2Proof.Machine

/-! ### A context that goes on to another take (R131, R145) -/

namespace Sys2Proof.Machine

variable {s t u v w : State} {e : StationId} {j k k' n o p r : Nat} {x y : Take} {q : Port} {cell : AudioCell} {mix : Mix}

/-- Locating reads the page store and all but the pins of the take. -/
theorem locate_of_same (hs : t.store = s.store) (hx : HoldsBut k x s) (hx' : HoldsBut k x t) : t.locate k p = s.locate k p := by
  obtain ⟨_, hn⟩ := hx
  obtain ⟨_, hm⟩ := hx'
  unfold State.locate
  rw [hn, hm, hs]

theorem pin_holdsBut (j : Nat) (h : HoldsBut k x s) : HoldsBut k x (pin j s) :=
  pins_holdsBut j (f := fun t => { t with pins := t.pins + 1 }) (fun _ => ⟨_, rfl⟩) h

theorem pin_locate (h : s.take? k = some x) (j : Nat) : (pin j s).locate k p = s.locate k p := by
  refine locate_of_same ?_ (holdsBut_of_take h) (pin_holdsBut j (holdsBut_of_take h))
  unfold pin State.updTake
  split <;> rfl

/-- A context at the start of the take it went on to: the mix and follow kept, the rest cleared (R145, log 22). -/
theorem followOn_context (h : s.take? k = some x) : (followOn e k s).context e =
    { state := .playing, take := some k, position := some 0, located := some (s.locate k 0), saved := none, notice := none,
      mix := (s.context e).mix, follow := true, link := none, credits := 0, markersSent := 0, flags := none } := by
  unfold followOn followMove
  rw [State.context_updContext, State.context_updContext, attach_context, pin_locate h]

theorem followOn_config (h : s.take? k = some x) : ((followOn e k s).station e).config = (s.station e).config :=
  (followMove_changes e (by rw [h]; rfl)).sameTables.station e

theorem unpin_counters : (unpin k s).playback.counters = s.playback.counters := by
  have hu : (s.updTake k fun t => { t with pins := t.pins - 1 }).playback = s.playback := by
    unfold State.updTake
    split <;> rfl
  unfold unpin
  dsimp only
  split
  · rw [checkReserves_pressed.frame, hu]
  · rw [hu]

/-- The state of an attachment before the take that the context leaves is released (R131). -/
def attaching (e : StationId) (k : Nat) (mix : Mix) (s : State) : State :=
  becomeListening e (setPosition e k 0 ((pin k s).updContext e fun c =>
    { state := .paused, take := some k, position := some 0, located := c.located, saved := none, notice := none, mix := mix,
      follow := false, link := none, credits := 0, markersSent := 0, flags := none }))

theorem attach_from (h : (s.context e).take = some j) : attach e k mix s = unpin j (attaching e k mix s) := by
  unfold attach
  dsimp only
  rw [h]
  rfl

/-- Before the release only pins, stations and the context are written. -/
theorem attaching_frame (e : StationId) (k : Nat) (mix : Mix) (s : State) : attaching e k mix s =
    { s with takeTable := (pin k s).takeTable, handOff := (attaching e k mix s).handOff,
             playback := { s.playback with contexts := (attaching e k mix s).playback.contexts } } := by
  have hp : pin k s = { s with takeTable := (pin k s).takeTable } := by
    unfold pin State.updTake
    split <;> rfl
  unfold attaching becomeListening setPosition
  rw [hp]
  dsimp only
  split <;> rfl

theorem attaching_holdsBut (h : HoldsBut k x s) : HoldsBut k x (attaching e j mix s) :=
  (pin_holdsBut j h).of_take (by unfold State.take?; rw [attaching_frame])

theorem attach_counters (h : (s.context e).take = some j) : (attach e k mix s).playback.counters = s.playback.counters := by
  rw [attach_from h, unpin_counters, attaching_frame]

/-- The release of a pin that starts no pass over the store: the take does not become one to reclaim, or the reserves are met (R35, R131). -/
def QuietRelease (k : Nat) (x : Take) (s : State) : Prop :=
  (HoldsBut k x s ∧ x.lifecycle ≠ .retained) ∨ (s.reserveUnmet = false ∧ mapWf s.takeTable.takes)

theorem unpin_quiet (h : QuietRelease k x s) : unpin k s = s.updTake k fun t => { t with pins := t.pins - 1 } := by
  rcases h with ⟨hx, hr⟩ | ⟨hm, hw⟩
  · obtain ⟨n, hn⟩ := hx
    have hnot : (((s.updTake k fun t => { t with pins := t.pins - 1 }).take? k).map Take.reclaimable).getD false = false := by
      rw [take_updTake, if_pos rfl, hn]
      simp [Take.reclaimable, hr]
    unfold unpin
    dsimp only
    rw [hnot]
    rfl
  · have hmet := (updTake_sameRoom k (fun t => { t with pins := t.pins - 1 }) hw).reserveUnmet.trans hm
    unfold unpin
    dsimp only
    rw [checkReserves_of_met hmet, ite_self]

theorem attaching_quiet (h : QuietRelease j x s) : QuietRelease j x (attaching e k mix s) := by
  rcases h with ⟨hx, hr⟩ | ⟨hm, hw⟩
  · exact .inl ⟨attaching_holdsBut hx, hr⟩
  · have hpin : SameRoom s (pin k s) := updTake_sameRoom k _ hw
    have hroom : SameRoom s (attaching e k mix s) := by
      rw [attaching_frame]
      exact ⟨rfl, hpin.slots, hpin.canonical⟩
    exact .inr ⟨hroom.reserveUnmet.trans hm, hroom.canonical⟩

/-- A follow move that starts no pass sends nothing, and leaves the page store and all of the take gone on to but its pins. -/
theorem followOn_quiet (hk : (s.context e).take = some j) (h : QuietRelease j x s) (hy : HoldsBut k y s) :
    (followOn e k s).link = s.link ∧ (followOn e k s).store = s.store ∧ HoldsBut k y (followOn e k s) := by
  have hv : attach e k (s.context e).mix s =
      (attaching e k (s.context e).mix s).updTake j fun t => { t with pins := t.pins - 1 } := by
    rw [attach_from hk, unpin_quiet (attaching_quiet h)]
  have hframe : ∀ (v : State) (f : Take → Take), (v.updTake j f).link = v.link ∧ (v.updTake j f).store = v.store := fun v f => by
    unfold State.updTake
    split <;> exact ⟨rfl, rfl⟩
  have hholds : HoldsBut k y (attach e k (s.context e).mix s) := by
    rw [hv]
    exact pins_holdsBut j (f := fun t => { t with pins := t.pins - 1 }) (fun _ => ⟨_, rfl⟩) (attaching_holdsBut hy)
  refine ⟨?_, ?_, hholds.of_take ?_⟩
  · change (attach e k (s.context e).mix s).link = _
    rw [hv, (hframe _ _).1, attaching_frame]
  · change (attach e k (s.context e).mix s).store = _
    rw [hv, (hframe _ _).2, attaching_frame]
  · unfold followOn followMove
    rw [State.updContext_take, State.updContext_take]

theorem followOn_take (hx : s.take? k = some x) (hne : (s.context e).take ≠ some k) :
    (followOn e k s).take? k = some { x with pins := x.pins + 1 } := attach_take_pinned (mix := (s.context e).mix) hx hne

theorem followOn_counters (h : (s.context e).take = some j) : (followOn e k s).playback.counters = s.playback.counters :=
  attach_counters (mix := (s.context e).mix) h

/-! ### The end of a take, with follow (R144 to R146) -/

section Follow
variable (hk : (s.context e).take = some k) (hy : s.take? k' = some y)
include hk hy

/-- Gone on to an open take with no cell, the context is at its live edge (R145). -/
theorem deliver_followOn_live (ho : y.lifecycle = .open) (hc : y.cells = 0)
    (hclear : (s.station e).config.clearance = true ∨ y.spanAt 0 = none) (hne : k ≠ k') (n : Nat) :
    deliver (n + 1) e (followOn e k' s) = (followOn e k' s).updContext e fun c => { c with state := .heldLive } := by
  have hctx := followOn_context (e := e) hy
  refine deliver_live (x := { y with pins := y.pins + 1 }) (by rw [hctx]) (followOn_take hy (by rw [hk]; simpa using hne)) ?_ ?_ ho n
  · rw [hctx]
    exact congrArg some hc.symm
  · rw [followOn_config hy]
    exact hc ▸ hclear

/-- Gone on to a take that begins with an open sealed span, a context without clearance is held there (R133, R145). -/
theorem deliver_followOn_sealed {z : Span} (hc : (s.station e).config.clearance = false) (hz : y.spanAt 0 = some z) (hs : z.stop = none)
    (hne : k ≠ k') (n : Nat) : deliver (n + 1) e (followOn e k' s) = (followOn e k' s).updContext e fun c =>
      { c with state := .heldSealed, position := some z.first, located := some ((followOn e k' s).locate k' z.first) } := by
  have hctx := followOn_context (e := e) hy
  exact deliver_held (by rw [hctx]) (followOn_take hy (by rw [hk]; simpa using hne)) (by rw [followOn_config hy]; exact hc)
    (passSealed_open (x := { y with pins := y.pins + 1 }) (by rw [hctx]) hz hs _ _) n

end Follow

/-- Gone on to a take with a cell, the context sends its cell 0 (R145). -/
theorem deliver_followOn_cell (hy : s.take? k' = some y) (hv : HoldsBut k' y (followOn e k' s))
    (hstore : (followOn e k' s).store = s.store) (hc : 0 < y.cells)
    (hclear : (s.station e).config.clearance = true ∨ y.spanAt 0 = none) (hl : s.locate k' 0 = .page n o)
    (hcell : s.readCell k' n 0 = some cell) (m : Nat) :
    deliver (m + 1) e (followOn e k' s) = sendCell e k' 0 y cell (followOn e k' s) := by
  have hctx := followOn_context (e := e) hy
  obtain ⟨pins, hv⟩ := hv
  have hfound : (followOn e k' s).cellAt e k' 0 { y with pins := pins } = some cell := by
    refine (cellAt_of_located (x := { y with pins := pins }) hc.ne (by rw [hctx, hl])).trans ?_
    unfold State.readCell State.page?
    rw [hstore]
    exact hcell
  exact deliver_cell (x := { y with pins := pins }) (by rw [hctx]) hv (by rw [hctx]) (by rw [followOn_config hy]; exact hclear) hfound m

end Sys2Proof.Machine

/-! ### What each end leaves -/

namespace Sys2Proof.Machine

variable {s t u v w : State} {e : StationId} {j k k' n o p r : Nat} {x y : Take} {q : Port} {cell : AudioCell} {mix : Mix} {m : Marker}

theorem noticeAt_take (h : s.take? k = some y) : (noticeAt e x p s).take? k = some y := by
  unfold State.take?
  rw [noticeAt_takeTable]
  exact h

theorem noticeAt_locate : (noticeAt e x p s).locate k r = s.locate k r := by
  unfold State.locate State.take?
  rw [noticeAt_takeTable, noticeAt_store]

theorem noticeAt_readCell : (noticeAt e x p s).readCell k n r = s.readCell k n r := by
  unfold State.readCell State.page?
  rw [noticeAt_store]

theorem noticeAt_quiet (h : QuietRelease k y s) : QuietRelease k y (noticeAt e x p s) := by
  rcases h with ⟨⟨n, hn⟩, hr⟩ | ⟨hm, hw⟩
  · exact .inl ⟨⟨n, noticeAt_take hn⟩, hr⟩
  · refine .inr ⟨?_, by rw [noticeAt_takeTable]; exact hw⟩
    unfold State.reserveUnmet State.pagesShort State.slotsShort State.freeSlots at hm ⊢
    rw [noticeAt_store, noticeAt_takeTable]
    exact hm

theorem noticeAt_length (q : Port) (hp : (s.context e).position = some r) (h : (s.port (s.station e).lastPort).originate.length < 512) :
    ((noticeAt e x p s).port q).originate.length ≤ (s.port q).originate.length + 1 := by
  rw [(noticeAt_framesAdded q hp h).length]
  split <;> simp only [List.length_cons, List.length_nil] <;> omega

theorem noticeAt_grown (q : Port) : (s.port q).Grown ((noticeAt e x p s).port q) := by
  rcases noticeAt_cases e x p s with ⟨_, h⟩ | ⟨_, h⟩
  · rw [h]
    exact ((stationNotice_writes (rooms := false) (ports := false) e _).updContext).grown rfl q
  · rw [h]
    exact .refl _

/-! #### PAUSED (R144) -/

/-- A context PAUSED at the end of its take, with END_OF_TAKE sent (R144). -/
def pausedAtEnd (e : StationId) (x : Take) (p : Nat) (s : State) : State :=
  endOfTakeNotice e x.number p .ended ((noticeAt e x p s).updContext e fun c => { c with state := .paused })

theorem pausedAtEnd_context : (pausedAtEnd e x p s).context e =
    { s.context e with state := .paused, notice := if (s.context e).notice = some p then none else (s.context e).notice } := by
  unfold pausedAtEnd
  rw [endOfTakeNotice_context, State.context_updContext, noticeAt_context]

theorem pausedAtEnd_framesAdded (hp : (s.context e).position = some p)
    (h : (s.port (s.station e).lastPort).originate.length < 511) : FramesAdded (s.station e).lastPort
      ((if (s.context e).notice = some p then [s.noticePointFrame e x p p] else []) ++ [s.endFrame e x p .ended]) s
      (pausedAtEnd e x p s) := by
  have hroom : (s.port (s.station e).lastPort).originate.length < 512 := h.trans (by decide)
  have hnotice := noticeAt_framesAdded (p := p) (x := x) (s.station e).lastPort hp hroom
  have hend := endOfTakeNotice_framesAdded (e := e) (x := x) (p := p) (why := .ended)
    (s := (noticeAt e x p s).updContext e fun c => { c with state := .paused }) (by
      rw [State.updContext_station, State.updContext_port, noticeAt_station]
      have := noticeAt_length (p := p) (x := x) (s.station e).lastPort hp hroom
      omega)
  have hframe : (noticeAt e x p s).endFrame e x p .ended = s.endFrame e x p .ended :=
    endFrame_of_same noticeAt_node (congrArg Station.config noticeAt_station)
  rw [State.updContext_station, noticeAt_station] at hend
  simp only [true_and] at hnotice
  rw [← hframe]
  exact hnotice.then.trans hend

theorem pausedAtEnd_counters : (pausedAtEnd e x p s).playback.counters =
    { s.playback.counters with endOfTakeNotices := s.playback.counters.endOfTakeNotices + 1 } := by
  unfold pausedAtEnd
  rw [endOfTakeNotice_counters, State.updContext_playback_counters, noticeAt_counters]

theorem pausedAtEnd_same : (pausedAtEnd e x p s).takeTable = s.takeTable ∧ (pausedAtEnd e x p s).store = s.store :=
  ⟨(endOfTakeNotice_same _).1.trans noticeAt_takeTable, (endOfTakeNotice_same _).2.1.trans noticeAt_store⟩

/-! #### Detached (R131, R144) -/

/-- A follow context detached at the end of its take, with END_OF_TAKE sent (R144). -/
def followEnded (e : StationId) (x : Take) (p : Nat) (s : State) : State :=
  endOfTakeNotice e x.number p .followEnded (detach e (noticeAt e x p s))

theorem detach_counters (e : StationId) (s : State) : (detach e s).playback.counters = s.playback.counters := by
  unfold detach
  split
  · rfl
  · rw [unpin_counters]
    unfold endListening
    split <;> rfl

theorem followEnded_counters : (followEnded e x p s).playback.counters =
    { s.playback.counters with endOfTakeNotices := s.playback.counters.endOfTakeNotices + 1 } := by
  unfold followEnded
  rw [endOfTakeNotice_counters, detach_counters, noticeAt_counters]

section FollowEnded
variable (hk : (s.context e).take ≠ none)
include hk

theorem noticeAt_attached : ((noticeAt e x p s).context e).take ≠ none := by
  rw [noticeAt_context]
  exact hk

theorem followEnded_context : (followEnded e x p s).context e = stoppedContext (s.context e).mix := by
  unfold followEnded
  rw [endOfTakeNotice_context, detach_context _ _ (noticeAt_attached hk), noticeAt_context]

theorem followEnded_station : (followEnded e x p s).station e =
    { s.station e with state := if (s.station e).state = .listening then .idle else (s.station e).state } := by
  have hsame : (followEnded e x p s).station e = (detach e (noticeAt e x p s)).station e := by
    unfold State.station followEnded
    rw [(endOfTakeNotice_same _).2.2]
  rw [hsame, detach_station (noticeAt_attached hk), noticeAt_station]

/-- END_OF_TAKE comes last, after the notice point and the alerts of the detachment's reserve check (log 28). -/
theorem followEnded_framesAdded (h : ((followEnded e x p s).port (s.station e).lastPort).originate.length < 512) :
    ∃ earlier, FramesAdded (s.station e).lastPort (earlier ++ [s.endFrame e x p .followEnded]) s (followEnded e x p s) := by
  have hd : Writes false false (noticeAt e x p s) (detach e (noticeAt e x p s)) := detach_writes e
  have hstation := detach_station (noticeAt_attached (x := x) (p := p) hk)
  rw [noticeAt_station] at hstation
  have hlast : ((detach e (noticeAt e x p s)).station e).lastPort = (s.station e).lastPort := by rw [hstation]
  have hfr : (detach e (noticeAt e x p s)).endFrame e x p .followEnded = s.endFrame e x p .followEnded :=
    endFrame_of_same (hd.node.trans noticeAt_node) (by rw [hstation])
  unfold followEnded at h ⊢
  rw [endOfTakeNotice_eq, hlast, hfr] at h ⊢
  rw [State.countPlayback_port] at h
  have hsent := originate_frames _ _ h
  have hlen := congrArg List.length hsent
  simp only [List.length_map, List.length_append] at hlen
  obtain ⟨earlier, hearlier⟩ := ((noticeAt_grown (s.station e).lastPort).trans (hd.grown rfl _)).2 (by omega)
  refine ⟨earlier, ?_⟩
  unfold FramesAdded
  rw [State.countPlayback_port, hsent, hearlier, List.append_assoc]

end FollowEnded

/-! #### Gone on to another take (R145) -/

/-- A follow context that sent the first cell of the take it went on to, in the same sync (R145). -/
def followedToCell (e : StationId) (x : Take) (p k : Nat) (y : Take) (cell : AudioCell) (s : State) : State :=
  sendCell e k 0 y cell (followOn e k (noticeAt e x p s))

theorem cellFrame_of_same (hn : t.link.node = s.link.node) (hs : (t.station e).config = (s.station e).config)
    (hm : (t.context e).mix = (s.context e).mix) : t.cellFrame e x p cell = s.cellFrame e x p cell := by
  unfold State.cellFrame State.frameTo
  rw [hn, hs, hm]

theorem followed_counters (hk : (s.context e).take = some k) :
    (followOn e k' (noticeAt e x p s)).playback.counters = s.playback.counters := by
  rw [followOn_counters (j := k) (by rw [noticeAt_context]; exact hk), noticeAt_counters]

theorem followedToCell_counters (hk : (s.context e).take = some k) : (followedToCell e x p k' y cell s).playback.counters =
    { s.playback.counters with cellsPlayed := s.playback.counters.cellsPlayed + 1 } := by
  unfold followedToCell
  rw [sendCell_counters, followed_counters hk]

section Followed
variable (hy : s.take? k' = some y)
include hy

/-- Where the context stands once it has gone on, before it is delivered there (R145). -/
theorem followed_context : (followOn e k' (noticeAt e x p s)).context e =
    { state := .playing, take := some k', position := some 0, located := some (s.locate k' 0), saved := none, notice := none,
      mix := (s.context e).mix, follow := true, link := none, credits := 0, markersSent := 0, flags := none } := by
  rw [followOn_context (noticeAt_take hy), noticeAt_locate, noticeAt_context]

section Quiet
variable (hk : (s.context e).take = some k) (hquiet : QuietRelease k x s)
include hk hquiet

theorem followed_quiet : (followOn e k' (noticeAt e x p s)).link = (noticeAt e x p s).link ∧
    (followOn e k' (noticeAt e x p s)).store = s.store ∧ HoldsBut k' y (followOn e k' (noticeAt e x p s)) := by
  have h := followOn_quiet (k := k') (y := y) (by rw [noticeAt_context]; exact hk) (noticeAt_quiet (x := x) (p := p) hquiet)
    (holdsBut_of_take (noticeAt_take hy))
  exact ⟨h.1, h.2.1.trans noticeAt_store, h.2.2⟩

theorem followedToCell_context : (followedToCell e x p k' y cell s).context e =
    { state := .playing, take := some k', position := some 1, located := some (s.locate k' 1), saved := none, notice := none,
      mix := (s.context e).mix, follow := true, link := none, credits := 0, markersSent := 0, flags := none } := by
  obtain ⟨_, hstore, hholds⟩ := followed_quiet (p := p) hy hk hquiet
  unfold followedToCell
  rw [sendCell_context, followed_context hy, locate_of_same hstore (holdsBut_of_take hy) hholds]
  rfl

theorem followedToCell_framesAdded (hp : (s.context e).position = some p) (h : ∀ q : Port, (s.port q).originate.length < 511) (q : Port) :
    FramesAdded q ((if q = (s.station e).lastPort ∧ (s.context e).notice = some p then [s.noticePointFrame e x p p] else []) ++
      (if q = .office then [s.cellFrame e y 0 cell] else [])) s (followedToCell e x p k' y cell s) := by
  obtain ⟨hlink, _, _⟩ := followed_quiet (p := p) hy hk hquiet
  have hctx := followed_context (e := e) (x := x) (p := p) hy
  have hroom : (s.port (s.station e).lastPort).originate.length < 512 := (h _).trans (by decide)
  have hnode : (followOn e k' (noticeAt e x p s)).link.node = s.link.node := by rw [hlink, noticeAt_node]
  have hconfig : ((followOn e k' (noticeAt e x p s)).station e).config = (s.station e).config :=
    (followOn_config (noticeAt_take hy)).trans (congrArg Station.config noticeAt_station)
  have hoffice : (followOn e k' (noticeAt e x p s)).link.officePort.originate.length < 512 := by
    have hlen : (noticeAt e x p s).link.officePort.originate.length ≤ s.link.officePort.originate.length + 1 :=
      noticeAt_length .office hp hroom
    have hlt : s.link.officePort.originate.length < 511 := h .office
    rw [hlink]
    omega
  have hcell := cellSent_framesAdded (e := e) (k := k') (p := 0) (x := y) (cell := cell) q hoffice
  rw [cellFrame_of_same hnode hconfig (by rw [hctx])] at hcell
  unfold followedToCell
  rw [sendCell_of_no_notice _ _ _ (by rw [hctx]; nofun)]
  exact ((noticeAt_framesAdded q hp hroom).then hlink).trans hcell

end Quiet

end Followed

/-! ### Bulk delivery (R148) -/

/-- `m` items were sent to a BULK context: each used one credit, moved it on by a marker or a cell, and was counted (R148). -/
structure ItemsSent (e : StationId) (m : Nat) (s u : State) : Prop where
  credits : (s.context e).credits = (u.context e).credits + m
  progress : (u.context e).position.getD 0 + (u.context e).markersSent =
    (s.context e).position.getD 0 + (s.context e).markersSent + m
  counted : u.playback.counters.cellsSentBulk + u.playback.counters.markersSent =
    s.playback.counters.cellsSentBulk + s.playback.counters.markersSent + BitVec.ofNat 32 m

theorem ItemsSent.refl : ItemsSent e 0 s s := ⟨rfl, rfl, (BitVec.add_zero _).symm⟩

theorem ItemsSent.trans {a b : Nat} (h : ItemsSent e a s t) (h' : ItemsSent e b t u) : ItemsSent e (a + b) s u where
  credits := by have := h.credits; have := h'.credits; omega
  progress := by have := h.progress; have := h'.progress; omega
  counted := by rw [h'.counted, h.counted, BitVec.ofNat_add, BitVec.add_assoc]

/-- The frame of a marker item (R148, 11.4). -/
def markerItemFrame (e : StationId) (x : Take) (m : Marker) (s : State) : Frame :=
  mkFrame (s.station e).config.node s.link.node kindPlayback (bytesOf 2 x.number ++ bytesOf 3 16777215 ++ [4, 0] ++ m.bytes)

theorem sendMarkerItem_eq (e : StationId) (x : Take) (m : Marker) (s : State) : sendMarkerItem e x m s =
    ((originate .office (markerItemFrame e x m s) s).updContext e fun c =>
      { c with credits := c.credits - 1, markersSent := c.markersSent + 1 }).countPlayback
        fun c => { c with markersSent := c.markersSent + 1 } := by
  unfold sendMarkerItem useCredit
  rw [updContext_updContext]
  rfl

theorem sendMarkerItem_context : (sendMarkerItem e x m s).context e =
    { s.context e with credits := (s.context e).credits - 1, markersSent := (s.context e).markersSent + 1 } := by
  rw [sendMarkerItem_eq, State.countPlayback_context, State.context_updContext, (originate_told ..).context]

theorem sendMarkerItem_counters : (sendMarkerItem e x m s).playback.counters =
    { s.playback.counters with markersSent := s.playback.counters.markersSent + 1 } := by
  have hsent := (originate_told .office (markerItemFrame e x m s) s).playback
  rw [sendMarkerItem_eq]
  exact congrArg (fun y : Playback => { y.counters with markersSent := y.counters.markersSent + 1 }) hsent

theorem sendMarkerItem_takeTable : (sendMarkerItem e x m s).takeTable = s.takeTable := by
  rw [sendMarkerItem_eq, State.countPlayback_takeTable, State.updContext_takeTable, (originate_told ..).takeTable]

theorem sendMarkerItem_officePort (h : s.link.officePort.originate.length < 512) :
    (sendMarkerItem e x m s).link.officePort.originate =
      s.link.officePort.originate ++ [⟨s.link.nextSerial, markerItemFrame e x m s⟩] := by
  rw [sendMarkerItem_eq]
  exact originate_originate .office (markerItemFrame e x m s) h

/-- The frame of a cell item: every track, unmixed (R148). -/
def bulkCellFrame (e : StationId) (p : Nat) (x : Take) (cell : AudioCell) (s : State) : Frame :=
  mkFrame (s.station e).config.node s.link.node kindPlayback
    (cellPayload x p (x.spanAt p).isSome false ((List.range' 1 x.tracks).map fun i => (i, cell[i - 1]?.getD [])))

/-- A cell item sent, before the END_OF_TAKE that follows the last cell (R148). -/
def bulkCellSent (e : StationId) (k p : Nat) (x : Take) (cell : AudioCell) (s : State) : State :=
  ((originate .office (bulkCellFrame e p x cell s) s).updContext e fun c =>
    { c with credits := c.credits - 1, position := some (p + 1), located := some (s.locate k (p + 1)) }).countPlayback
      fun c => { c with cellsSentBulk := c.cellsSentBulk + 1 }

theorem sendBulkCell_eq (e : StationId) (k p : Nat) (x : Take) (cell : AudioCell) (s : State) : sendBulkCell e k p x cell s =
    if p + 1 = x.cells then endOfTakeNotice e x.number (p + 1) .ended (bulkCellSent e k p x cell s)
    else bulkCellSent e k p x cell s := by
  have hsent : (setPosition e k (p + 1) (useCredit e (originate .office (bulkCellFrame e p x cell s) s))).countPlayback
      (fun c => { c with cellsSentBulk := c.cellsSentBulk + 1 }) = bulkCellSent e k p x cell s := by
    unfold useCredit bulkCellSent
    rw [setPosition_updContext, (originate_told ..).locate]
  rw [← hsent]
  rfl

theorem bulkCellSent_context : (bulkCellSent e k p x cell s).context e =
    { s.context e with
      credits := (s.context e).credits - 1, position := some (p + 1), located := some (s.locate k (p + 1)) } := by
  unfold bulkCellSent
  rw [State.countPlayback_context, State.context_updContext, (originate_told ..).context]

theorem bulkCellSent_counters : (bulkCellSent e k p x cell s).playback.counters =
    { s.playback.counters with cellsSentBulk := s.playback.counters.cellsSentBulk + 1 } := by
  have hsent := (originate_told .office (bulkCellFrame e p x cell s) s).playback
  exact congrArg (fun y : Playback => { y.counters with cellsSentBulk := y.counters.cellsSentBulk + 1 }) hsent

theorem bulkCellSent_officePort (h : s.link.officePort.originate.length < 512) :
    (bulkCellSent e k p x cell s).link.officePort.originate =
      s.link.officePort.originate ++ [⟨s.link.nextSerial, bulkCellFrame e p x cell s⟩] :=
  originate_originate .office (bulkCellFrame e p x cell s) h

theorem sendBulkCell_context : (sendBulkCell e k p x cell s).context e =
    { s.context e with
      credits := (s.context e).credits - 1, position := some (p + 1), located := some (s.locate k (p + 1)) } := by
  rw [sendBulkCell_eq]
  split
  · rw [endOfTakeNotice_context, bulkCellSent_context]
  · exact bulkCellSent_context

theorem sendBulkCell_counters : (sendBulkCell e k p x cell s).playback.counters =
    { s.playback.counters with
      cellsSentBulk := s.playback.counters.cellsSentBulk + 1
      endOfTakeNotices := s.playback.counters.endOfTakeNotices + if p + 1 = x.cells then 1 else 0 } := by
  rw [sendBulkCell_eq]
  split
  · rw [endOfTakeNotice_counters, bulkCellSent_counters]
  · simp [bulkCellSent_counters]

theorem sendBulkCell_takeTable : (sendBulkCell e k p x cell s).takeTable = s.takeTable := by
  have hsent : (bulkCellSent e k p x cell s).takeTable = s.takeTable :=
    (originate_told .office (bulkCellFrame e p x cell s) s).takeTable
  rw [sendBulkCell_eq]
  split
  · exact (endOfTakeNotice_same _).1.trans hsent
  · exact hsent

/-- A frame for a port, if it has room, joins what stands there; the others keep theirs (R171). -/
theorem originate_extends (p q : Port) (fr : Frame) (s : State) :
    ∃ rest, ((originate p fr s).port q).originate = (s.port q).originate ++ rest := by
  by_cases hq : q = p
  · subst hq
    by_cases h : (s.port q).originate.length < 512
    · exact ⟨_, originate_originate q fr h⟩
    · exact ⟨[], by rw [originate_full h, List.append_nil]⟩
  · exact ⟨[], by rw [originate_port_ne fr hq, List.append_nil]⟩

/-- The frame of a cell item leaves by the Office Port, and only after the last cell does another follow (R148). -/
theorem sendBulkCell_officePort (h : s.link.officePort.originate.length < 512) : ∃ rest,
    (sendBulkCell e k p x cell s).link.officePort.originate =
      s.link.officePort.originate ++ ⟨s.link.nextSerial, bulkCellFrame e p x cell s⟩ :: rest ∧ (p + 1 ≠ x.cells → rest = []) := by
  have hcell := bulkCellSent_officePort (e := e) (k := k) (p := p) (x := x) (cell := cell) h
  rw [sendBulkCell_eq]
  split
  · rename_i hlast
    obtain ⟨rest, hrest⟩ := originate_extends ((bulkCellSent e k p x cell s).station e).lastPort .office
      ((bulkCellSent e k p x cell s).endFrame e x (p + 1) .ended) (bulkCellSent e k p x cell s)
    refine ⟨rest, ?_, fun hne => absurd hlast hne⟩
    rw [endOfTakeNotice_eq]
    exact hrest.trans ((congrArg (· ++ rest) hcell).trans (List.append_assoc ..))
  · exact ⟨[], hcell, fun _ => rfl⟩

/-! #### The items of one sync -/

section Bulk
variable (hk : (s.context e).take = some k) (hx : s.take? k = some x)
include hk hx

theorem deliverBulk_ended (h : x.cells ≤ (s.context e).position.getD 0) (n : Nat) : deliverBulk n e s = s := by
  cases n with
  | zero => rfl
  | succ n =>
    rw [deliverBulk, hk]
    dsimp only
    rw [hx]
    exact if_pos (.inr h)

variable (hc : (s.context e).credits ≠ 0) (hp : (s.context e).position.getD 0 = p) (hlt : p < x.cells)
include hc hp hlt

theorem deliverBulk_marker (hm : (s.context e).markersSent < x.markers.length)
    (hf : (x.markers.find? fun y => y.number == (s.context e).markersSent + 1) = some m) (n : Nat) :
    deliverBulk (n + 1) e s = deliverBulk n e (sendMarkerItem e x m s) := by
  rw [deliverBulk, hk]
  dsimp only
  rw [hx]
  dsimp only
  rw [hp, if_neg (by omega), if_pos hm, hf]

theorem deliverBulk_cell (hm : x.markers.length ≤ (s.context e).markersSent) (hcell : s.cellAt e k p x = some cell) (n : Nat) :
    deliverBulk (n + 1) e s = deliverBulk n e (sendBulkCell e k p x cell s) := by
  rw [deliverBulk, hk]
  dsimp only
  rw [hx]
  dsimp only
  rw [hp, if_neg (by omega), if_neg (Nat.not_lt.2 hm), hcell]

end Bulk

theorem sendMarkerItem_sent (hc : (s.context e).credits ≠ 0) : ItemsSent e 1 s (sendMarkerItem e x m s) where
  credits := by rw [sendMarkerItem_context]; dsimp only; omega
  progress := by rw [sendMarkerItem_context]; dsimp only; omega
  counted := by rw [sendMarkerItem_counters]; exact (BitVec.add_assoc ..).symm

theorem sendBulkCell_sent (hc : (s.context e).credits ≠ 0) (hp : (s.context e).position.getD 0 = p) :
    ItemsSent e 1 s (sendBulkCell e k p x cell s) where
  credits := by rw [sendBulkCell_context]; dsimp only; omega
  progress := by rw [sendBulkCell_context]; dsimp only [Option.getD_some]; omega
  counted := by rw [sendBulkCell_counters]; exact add_right_comm _ _ _

/-- A sync's turn sends one item and goes on with one fewer, or ends. -/
theorem deliverBulk_cases (n : Nat) (e : StationId) (s : State) :
    deliverBulk (n + 1) e s = s ∨ ∃ v, ItemsSent e 1 s v ∧ deliverBulk (n + 1) e s = deliverBulk n e v := by
  rw [deliverBulk]
  split
  · exact .inl rfl
  · split
    · exact .inl rfl
    · dsimp only
      split
      · exact .inl rfl
      · rename_i hgo
        obtain ⟨hc, _⟩ := not_or.1 hgo
        split
        · split
          · exact .inr ⟨_, sendMarkerItem_sent hc, rfl⟩
          · exact .inl rfl
        · split
          · exact .inr ⟨_, sendBulkCell_sent hc rfl, rfl⟩
          · exact .inl rfl

theorem deliverBulk_sent (n : Nat) (e : StationId) (s : State) : ∃ m, m ≤ n ∧ ItemsSent e m s (deliverBulk n e s) := by
  induction n generalizing s with
  | zero => exact ⟨0, le_refl _, .refl⟩
  | succ n ih =>
    rcases deliverBulk_cases n e s with h | ⟨v, hv, h⟩
    · rw [h]
      exact ⟨0, Nat.zero_le _, .refl⟩
    · obtain ⟨m, hm, hsent⟩ := ih v
      rw [h]
      exact ⟨1 + m, by omega, hv.trans hsent⟩

end Sys2Proof.Machine

/-! ### A context's turn -/

namespace Sys2Proof.Machine

variable {s : State} {e : StationId} {k k' n o p : Nat} {x y : Take} {z : Span} {cell : AudioCell} {m : Marker}

/-- An open span at the start of a take holds every position of it (R120). -/
theorem Take.spanAt_of_open_start (hz : x.spanAt 0 = some z) (ho : z.stop = none) (p : Nat) : x.spanAt p ≠ none := by
  have hfirst := Nat.le_zero.1 (Take.first_le_of_spanAt hz)
  intro hnone
  have hnot := List.find?_eq_none.1 hnone z (List.mem_of_find?_eq_some hz)
  exact hnot (by simp [Span.holds, ho, hfirst])

section Turn
variable (hk : (s.context e).take = some k) (hx : s.take? k = some x) (hp : (s.context e).position = some x.cells)
  (hclear : (s.station e).config.clearance = true ∨ x.spanAt x.cells = none) (hs : (s.context e).state.delivers)
include hk hx hp hclear hs

theorem deliverContext_live (ho : x.lifecycle = .open) : deliverContext e s = s.updContext e fun c => { c with state := .heldLive } :=
  (deliverContext_of hs).trans (deliver_live hk hx hp hclear ho 2)

theorem deliverContext_end (ho : x.lifecycle ≠ .open) :
    deliverContext e s = endReached 2 e x x.cells (noticeAt e x x.cells s) :=
  (deliverContext_of hs).trans (deliver_end hk hx hp hclear ho 2)

theorem deliverContext_paused (ho : x.lifecycle ≠ .open) (hf : (s.context e).follow = false) :
    deliverContext e s = pausedAtEnd e x x.cells s :=
  (deliverContext_end hk hx hp hclear hs ho).trans (endReached_paused (by rw [noticeAt_context]; exact hf))

theorem deliverContext_followEnded (ho : x.lifecycle ≠ .open) (hf : (s.context e).follow = true)
    (ht : s.followTarget e x = none) : deliverContext e s = followEnded e x x.cells s :=
  (deliverContext_end hk hx hp hclear hs ho).trans
    (endReached_followEnded (by rw [noticeAt_context]; exact hf) (noticeAt_followTarget.trans ht))

theorem deliverContext_follows (ho : x.lifecycle ≠ .open) (hf : (s.context e).follow = true)
    (ht : s.followTarget e x = some k') : deliverContext e s = deliver 2 e (followOn e k' (noticeAt e x x.cells s)) :=
  (deliverContext_end hk hx hp hclear hs ho).trans
    (endReached_follows (by rw [noticeAt_context]; exact hf) (noticeAt_followTarget.trans ht))

end Turn

/-! ### The turn goes on at the take linked (R145) -/

/-- The slot linked is another when its take is not the one at its end. -/
theorem slots_ne_of_takes_ne (hx : s.take? k = some x) (hy : s.take? k' = some y) (h : x ≠ y) : k ≠ k' := by
  rintro rfl
  exact h (Option.some.inj (hx.symm.trans hy))

section Linked
variable (hk : (s.context e).take = some k) (hy : s.take? k' = some y)
include hk hy

theorem deliver_followed_cell (hquiet : QuietRelease k x s) (hc : 0 < y.cells)
    (hclear : (s.station e).config.clearance = true ∨ y.spanAt 0 = none) (hl : s.locate k' 0 = .page n o)
    (hcell : s.readCell k' n 0 = some cell) (i : Nat) :
    deliver (i + 1) e (followOn e k' (noticeAt e x p s)) = followedToCell e x p k' y cell s := by
  obtain ⟨_, hstore, hholds⟩ := followed_quiet (p := p) hy hk hquiet
  exact deliver_followOn_cell (noticeAt_take hy) hholds (hstore.trans noticeAt_store.symm) hc (by rw [noticeAt_station]; exact hclear)
    (noticeAt_locate.trans hl) (noticeAt_readCell.trans hcell) i

variable (hx : s.take? k = some x)
include hx

theorem deliver_followed_live (hne : x ≠ y) (ho : y.lifecycle = .open) (hc : y.cells = 0)
    (hclear : (s.station e).config.clearance = true ∨ y.spanAt 0 = none) (n : Nat) :
    deliver (n + 1) e (followOn e k' (noticeAt e x p s)) =
      (followOn e k' (noticeAt e x p s)).updContext e fun c => { c with state := .heldLive } :=
  deliver_followOn_live (by rw [noticeAt_context]; exact hk) (noticeAt_take hy) ho hc (by rw [noticeAt_station]; exact hclear)
    (slots_ne_of_takes_ne hx hy hne) n

/-- The take gone on to has gained the context's pin (R131). -/
theorem followed_take (hne : x ≠ y) : (followOn e k' (noticeAt e x p s)).take? k' = some { y with pins := y.pins + 1 } :=
  followOn_take (noticeAt_take hy) (by
    rw [noticeAt_context]
    exact fun h => slots_ne_of_takes_ne hx hy hne (Option.some.inj (hk.symm.trans h)))

theorem deliver_followed_sealed (hne : x ≠ y) (hc : (s.station e).config.clearance = false) (hz : y.spanAt 0 = some z)
    (ho : z.stop = none) (n : Nat) : deliver (n + 1) e (followOn e k' (noticeAt e x p s)) =
      (followOn e k' (noticeAt e x p s)).updContext e fun c =>
        { c with state := .heldSealed, position := some z.first,
                 located := some ((followOn e k' (noticeAt e x p s)).locate k' z.first) } :=
  deliver_followOn_sealed (by rw [noticeAt_context]; exact hk) (noticeAt_take hy) (by rw [noticeAt_station]; exact hc) hz ho
    (slots_ne_of_takes_ne hx hy hne) n

end Linked

/-! ### A BULK context's last credit (R148) -/

section OneCredit
variable (hs : (s.context e).state = .bulk) (hk : (s.context e).take = some k) (hx : s.take? k = some x)
  (hp : (s.context e).position = some p) (hc : (s.context e).credits = 1) (hlt : p < x.cells)
include hs hk hx hp hc hlt

theorem deliverContext_marker (hm : (s.context e).markersSent < x.markers.length)
    (hf : (x.markers.find? fun y => y.number == (s.context e).markersSent + 1) = some m) :
    deliverContext e s = sendMarkerItem e x m s := by
  rw [deliverContext_bulk hs, deliverBulk_marker hk hx (by rw [hc]; decide) (by rw [hp]; rfl) hlt hm hf,
    deliverBulk_spent (by rw [sendMarkerItem_context, hc])]

theorem deliverContext_bulkCell (hm : x.markers.length ≤ (s.context e).markersSent) (hcell : s.cellAt e k p x = some cell) :
    deliverContext e s = sendBulkCell e k p x cell s := by
  rw [deliverContext_bulk hs, deliverBulk_cell hk hx (by rw [hc]; decide) (by rw [hp]; rfl) hlt hm hcell,
    deliverBulk_spent (by rw [sendBulkCell_context, hc])]

end OneCredit

end Sys2Proof.Machine

open Sys2Proof Sys2Proof.Machine in
/-- Settles O49: a turn comes to one send, hold, end or follow move, and each says what it writes; in BULK it is a chain of items. -/
theorem contextsDeliver : Obligations.ContextsDeliver := by
  refine ⟨fun e s h => deliverContext_idle h, fun e k p t s hk ht hp hclear hs => ?_, fun e k p t s hs hk ht hp => ?_,
    fun m t cell => ⟨mixGranules_separate, fun h => ⟨_, mixGranules_mono h, monoGranule_length .., fun j q hj => monoGranule_sample hj⟩⟩⟩
  · refine ⟨fun n o cell hlt hl hcell => ?_, fun hpe ho => ?_, fun hpe ho hf => ?_, fun n k' t' hpe ho hf hl hfind ht' hroom => ?_,
      fun hpe ho hf hnone => ?_⟩
    · refine ⟨_, deliverContext_cell hk ht hp hclear hs ((cellAt_found hlt.ne hl).trans hcell), sendCell_context, fun hn hroom => ?_,
        sendCell_framesAdded, by rw [sendCell_counters], sendCell_takeTable, sendCell_store, fun q hq => sendCell_context_ne hq⟩
      rw [sendCell_of_no_notice k t cell hn]
      exact ⟨cellSent_officePort k p t cell hroom, originate_port_ne (p := .office) (q := .capture) _ (by nofun)⟩
    · subst hpe
      exact deliverContext_live hk ht hp hclear hs ho
    · subst hpe
      exact ⟨_, deliverContext_paused hk ht hp hclear hs ho hf, pausedAtEnd_context, pausedAtEnd_framesAdded hp,
        by rw [pausedAtEnd_counters], by rw [pausedAtEnd_counters], pausedAtEnd_same⟩
    · subst hpe
      have hturn := deliverContext_follows hk ht hp hclear hs ho hf (followTarget_some hl hfind hroom)
      have hctx := followed_context (e := e) (x := t) (p := t.cells) ht'
      have hcounters := followed_counters (k' := k') (x := t) (p := t.cells) hk
      refine ⟨fun ho' hc' hclear' => ?_, fun x hc hx hxo => ?_, fun n' o cell hc' hclear' hl' hcell hcase => ?_⟩
      · have hne : t ≠ t' := fun h => ho (h ▸ ho')
        refine ⟨_, hturn.trans (deliver_followed_live hk ht' ht hne ho' hc' hclear' 1), ?_⟩
        rw [State.context_updContext, hctx]
        exact ⟨rfl, rfl, rfl, rfl, rfl, rfl, rfl, rfl, rfl, ⟨_, followed_take hk ht' ht hne, rfl⟩,
          congrArg PlaybackCounters.endOfTakeNotices hcounters⟩
      · have hne : t ≠ t' := by
          rintro rfl
          exact Take.spanAt_of_open_start hx hxo _ (hclear.resolve_left (by rw [hc]; nofun))
        refine ⟨_, hturn.trans (deliver_followed_sealed hk ht' ht hne hc hx hxo 1), ?_⟩
        rw [State.context_updContext, hctx]
        exact ⟨rfl, rfl, congrArg some (Nat.le_zero.1 (Take.first_le_of_spanAt hx)), rfl, rfl,
          congrArg PlaybackCounters.cellsPlayed hcounters⟩
      · have hquiet : QuietRelease k t s :=
          hcase.imp_left fun hclosed => ⟨holdsBut_of_take ht, by rw [hclosed]; nofun⟩
        exact ⟨_, hturn.trans (deliver_followed_cell hk ht' hquiet hc' hclear' hl' hcell 1), followedToCell_context ht' hk hquiet,
          followedToCell_framesAdded ht' hk hquiet hp, by rw [followedToCell_counters hk], by rw [followedToCell_counters hk]⟩
    · subst hpe
      have hattached : (s.context e).take ≠ none := by rw [hk]; nofun
      exact ⟨_, deliverContext_followEnded hk ht hp hclear hs ho hf (followTarget_none hnone), followEnded_context hattached,
        by rw [followEnded_station hattached], followEnded_framesAdded hattached, by rw [followEnded_counters]⟩
  · refine ⟨fun hle => ?_, ?_, fun m hc hlt hm hfind hroom => ?_, fun n o cell hc hlt hm hl hcell hroom => ?_⟩
    · rw [deliverContext_bulk hs]
      exact deliverBulk_ended hk ht (by rw [hp]; exact hle) 8
    · obtain ⟨m, hm, hsent⟩ := deliverBulk_sent 8 e s
      have hcredits := hsent.credits
      have hprogress := hsent.progress
      rw [hp, Option.getD_some] at hprogress
      refine ⟨_, deliverContext_bulk hs, by omega, by omega, by omega, ?_⟩
      rw [hsent.counted, hcredits, Nat.add_sub_cancel_left]
    · exact ⟨_, deliverContext_marker hs hk ht hp hc hlt hm hfind, by rw [sendMarkerItem_context, hc], sendMarkerItem_officePort hroom,
        by rw [sendMarkerItem_counters], sendMarkerItem_takeTable⟩
    · obtain ⟨rest, hrest, hnone⟩ := sendBulkCell_officePort (e := e) (k := k) (p := p) (x := t) (cell := cell) hroom
      exact ⟨_, rest, deliverContext_bulkCell hs hk ht hp hc hlt hm ((cellAt_found hlt.ne hl).trans hcell),
        by rw [sendBulkCell_context, hc], hrest, hnone, by rw [sendBulkCell_counters], by rw [sendBulkCell_counters],
        sendBulkCell_takeTable⟩

/-! ## The calendar (R152, R153) -/

namespace Sys2Proof.Machine

variable {c : Calendar}

/-! ### What an advance leaves alone -/

/-- A midnight writes the date and the day of week alone. -/
theorem Calendar.nextDay_keeps {β : Type} {g : Calendar → β}
    (h : ∀ (c : Calendar) y m d w, g { c with year := y, month := m, day := d, dow := w } = g c) : g c.nextDay = g c := by
  unfold Calendar.nextDay
  dsimp only
  split
  · exact h c c.year c.month _ _
  · split
    · exact h c c.year _ _ _
    · exact h c _ _ _ _

/-- A tick arrival leaves the validity and the outage record alone (R152, R153). -/
theorem Calendar.addTick_keeps {β : Type} {g : Calendar → β}
    (hday : ∀ (c : Calendar) y m d w, g { c with year := y, month := m, day := d, dow := w } = g c)
    (htime : ∀ (c : Calendar) h m s t, g { c with hour := h, minute := m, second := s, tick := t } = g c) : g c.addTick = g c := by
  unfold Calendar.addTick
  split
  · unfold Calendar.nextSecond
    dsimp only
    split
    · exact htime c c.hour c.minute _ _
    · split
      · exact htime c c.hour _ _ _
      · split
        · exact htime c _ _ _ _
        · exact (Calendar.nextDay_keeps hday).trans (htime c _ _ _ _)
  · exact htime c c.hour c.minute c.second _

@[simp] theorem Calendar.addTick_validity : c.addTick.validity = c.validity :=
  Calendar.addTick_keeps (fun _ _ _ _ _ => rfl) fun _ _ _ _ _ => rfl

@[simp] theorem Calendar.addTick_outage : c.addTick.outage = c.outage :=
  Calendar.addTick_keeps (fun _ _ _ _ _ => rfl) fun _ _ _ _ _ => rfl

/-! ### Days -/

/-- A month's length joins those of the months before it. -/
theorem monthLengths_sum_upTo {year m : Nat} (h : 1 ≤ m) : ((List.range' 1 m).map (monthLength year)).sum =
    ((List.range' 1 (m - 1)).map (monthLength year)).sum + monthLength year m := by
  obtain ⟨m, rfl⟩ := Nat.exists_eq_add_of_le' h
  simp [List.range'_1_concat, Nat.add_comm 1 m]

/-- The days before December (R152). -/
theorem monthLengths_sum_december (year : Nat) :
    ((List.range' 1 11).map (monthLength year)).sum = if year % 4 = 0 then 335 else 334 := by
  have hmonths : List.range' 1 11 = [1, 2, 3, 4, 5, 6, 7, 8, 9, 10, 11] := rfl
  rw [hmonths]
  split <;> simp [monthLength, *]

/-- The last day of the century that the calendar counts. -/
abbrev Calendar.lastDay (c : Calendar) : Prop := c.year = 2099 ∧ c.month = 12 ∧ c.day = 31

/-- A midnight adds one day, through the ends of months and years (R153). -/
theorem Calendar.nextDay_days (h : c.legal) (hlast : ¬c.lastDay) : c.nextDay.days = c.days + 1 := by
  obtain ⟨hy1, hy2, hm1, hm2, hd1, hd2, -⟩ := h
  unfold Calendar.nextDay
  dsimp only
  split
  · simp only [Calendar.days]
    omega
  · have hd : c.day = monthLength c.year c.month := by omega
    split
    · simp only [Calendar.days, Nat.add_sub_cancel, monthLengths_sum_upTo hm1]
      omega
    · have hm : c.month = 12 := by omega
      have hd : c.day = 31 := by rw [hd, hm]; rfl
      have hy : c.year ≠ 2099 := fun hy => hlast ⟨hy, hm, hd⟩
      have hsum := monthLengths_sum_december c.year
      simp only [Calendar.days, hm, hd, if_neg hy, Nat.sub_self, List.range'_zero, List.map_nil, List.sum_nil]
      rw [show 12 - 1 = 11 from rfl, hsum]
      split <;> omega

/-- The midnight after the century's last day begins it again (R153). -/
theorem Calendar.nextDay_days_lastDay (h : c.lastDay) : c.nextDay.days = 0 := by
  obtain ⟨hy, hm, hd⟩ := h
  simp [Calendar.nextDay, Calendar.days, monthLength, hy, hm, hd]

/-! ### Ticks -/

/-- A midnight leaves the time of day alone (R153). -/
theorem Calendar.nextDay_ticks :
    c.nextDay.ticks = (((c.nextDay.days * 24 + c.hour) * 60 + c.minute) * 60 + c.second) * 1024 + c.tick := by
  have keeps (g : Calendar → Nat) := Calendar.nextDay_keeps (c := c) (g := g)
  rw [Calendar.ticks, keeps Calendar.hour fun _ _ _ _ _ => rfl, keeps Calendar.minute fun _ _ _ _ _ => rfl,
    keeps Calendar.second fun _ _ _ _ _ => rfl, keeps Calendar.tick fun _ _ _ _ _ => rfl]

/-- A time in the day's last second. -/
abbrev Calendar.lastSecond (c : Calendar) : Prop := c.hour = 23 ∧ c.minute = 59 ∧ c.second = 59

/-- The second update after the day's last second is a midnight (R153). -/
theorem Calendar.nextSecond_midnight (h : c.lastSecond) :
    c.nextSecond = ({ c with second := 0, minute := 0, hour := 0 } : Calendar).nextDay := by
  obtain ⟨hh, hm, hs⟩ := h
  simp [Calendar.nextSecond, hh, hm, hs]

/-- A second update adds one second (R153). -/
theorem Calendar.nextSecond_ticks (h : c.legal) (hlast : ¬(c.lastDay ∧ c.lastSecond)) : c.nextSecond.ticks = c.ticks + 1024 := by
  obtain ⟨hy1, hy2, hm1, hm2, hd1, hd2, hh, hmin, hs, ht, hw1, hw2⟩ := h
  by_cases hsec : c.lastSecond
  · have hdays := Calendar.nextDay_days (c := { c with second := 0, minute := 0, hour := 0 })
      ⟨hy1, hy2, hm1, hm2, hd1, hd2, Nat.zero_le _, Nat.zero_le _, Nat.zero_le _, ht, hw1, hw2⟩ fun h => hlast ⟨h, hsec⟩
    rw [Calendar.nextSecond_midnight hsec, Calendar.nextDay_ticks, hdays]
    obtain ⟨hh, hm, hs⟩ := hsec
    simp only [Calendar.ticks, Calendar.days, hh, hm, hs]
    omega
  · unfold Calendar.nextSecond
    split
    · simp only [Calendar.ticks, Calendar.days]
      omega
    · split
      · simp only [Calendar.ticks, Calendar.days]
        omega
      · split
        · simp only [Calendar.ticks, Calendar.days]
          omega
        · exact absurd ⟨by omega, by omega, by omega⟩ hsec

/-- Short of a second update the calendar's tick alone counts (R153). -/
theorem Calendar.addTick_of_ne (h : c.tick ≠ 1023) : c.addTick = { c with tick := c.tick + 1 } :=
  if_neg (by simpa [Calendar.atLastTick] using h)

/-- The tick that wraps makes a second update (R153). -/
theorem Calendar.addTick_of_last (h : c.tick = 1023) : c.addTick = ({ c with tick := 0 } : Calendar).nextSecond :=
  if_pos (by simpa [Calendar.atLastTick] using h)

/-- A tick arrival adds one tick, until the century ends (R153). -/
theorem Calendar.addTick_ticks (h : c.legal) (hlast : ¬(c.lastDay ∧ c.lastSecond ∧ c.tick = 1023)) : c.addTick.ticks = c.ticks + 1 := by
  by_cases ht : c.tick = 1023
  · obtain ⟨hy1, hy2, hm1, hm2, hd1, hd2, hh, hmin, hs, -, hw1, hw2⟩ := h
    have hsecond := Calendar.nextSecond_ticks (c := { c with tick := 0 })
      ⟨hy1, hy2, hm1, hm2, hd1, hd2, hh, hmin, hs, Nat.zero_le _, hw1, hw2⟩ fun h => hlast ⟨h.1, h.2, ht⟩
    rw [Calendar.addTick_of_last ht, hsecond]
    simp only [Calendar.ticks, Calendar.days, ht]
  · rw [Calendar.addTick_of_ne ht]
    simp only [Calendar.ticks, Calendar.days]
    omega

/-- The century's last tick begins it again (R153). -/
theorem Calendar.addTick_ticks_wrap (hday : c.lastDay) (hsec : c.lastSecond) (ht : c.tick = 1023) : c.addTick.ticks = 0 := by
  rw [Calendar.addTick_of_last ht, Calendar.nextSecond_midnight (by exact hsec), Calendar.nextDay_ticks,
    Calendar.nextDay_days_lastDay (by exact hday)]
  simp only [Nat.zero_mul, Nat.add_zero]

end Sys2Proof.Machine

open Sys2Proof Sys2Proof.Machine in
/-- Settles O20: the days count one up at each midnight but the century's last, and below that a second and a tick are what they weigh. -/
theorem calendarAdvancesByOneTick : Obligations.CalendarAdvancesByOneTick :=
  fun _ h => ⟨Calendar.addTick_legal h,
    fun hlast => Calendar.addTick_ticks h fun ⟨⟨hy, hm, hd⟩, ⟨hh, hmin, hs⟩, ht⟩ => hlast ⟨hy, hm, hd, hh, hmin, hs, ht⟩,
    fun ⟨hy, hm, hd, hh, hmin, hs, ht⟩ => Calendar.addTick_ticks_wrap ⟨hy, hm, hd⟩ ⟨hh, hmin, hs⟩ ht,
    Calendar.addTick_validity, Calendar.addTick_outage⟩

/-! ## SET_CLOCK and READ_CLOCK (R156, R157) -/

namespace Sys2Proof.Machine

variable {s : State} {c : Ctl} {f : ClockFields}

theorem exec_setClock_valid (hm : FromManager c s) (hf : clockFieldsValid f = true) :
    exec (.setClock c f) s = .next (respond c .setClock .ok ((clockFieldsCalendar f).stamp.bytes ++ bytesOf 1 (clockFieldsCalendar f).dow)
      { handled c .setClock s with clock := clockFieldsCalendar f }) :=
  congrArg Host.Outcome.next ((managerCommand_of hm).trans (if_pos hf))

theorem exec_setClock_invalid (hm : FromManager c s) (hf : clockFieldsValid f = false) :
    exec (.setClock c f) s = .next (respond c .setClock .badParameter [] (handled c .setClock s)) :=
  congrArg Host.Outcome.next ((managerCommand_of hm).trans (if_neg (by rw [hf]; nofun)))

/-- A command outside R99 is noted with its last port and its count alone, whoever sends it. -/
theorem handled_of_no_lease {cmd : CommandName} (h : cmd.restartsLease = false) :
    handled c cmd s = (takenFrom c.port c.src s).countMgmt fun q => { q with controlTaken := q.controlTaken + 1 } := by
  unfold handled leaseEffect
  split
  · rw [h]
    rfl
  · rfl

theorem exec_readClock_of (hp : s.power = .on) (hs : s.sender c.src ≠ .unknown) (ho : c.ovr ≠ some 0) :
    exec (.readClock c) s = .next (respond c .readClock .ok
      (s.now.bytes ++ bytesOf 1 s.clock.dow ++ bytesOf 1 s.clock.validity.code ++ bytesOf 1 s.clock.outage.code)
      (handled c .readClock s)) := by
  have hz : ¬zeroOverride c = true := by simpa [zeroOverride] using ho
  refine congrArg Host.Outcome.next ((control_of hp hs).trans ((if_neg hz).trans ?_))
  rw [← handled_of_no_lease (cmd := .readClock) rfl, handled_now, handled_clock]

end Sys2Proof.Machine

open Sys2Proof Sys2Proof.Machine in
/-- Settles O18: both commands act on the state with the sender noted, whose clock is the one before. -/
theorem clockCommandsComplete : Obligations.ClockCommandsComplete :=
  fun _ _ => ⟨fun f hm => ⟨fun hf => ⟨clockFieldsCalendar f, rfl, exec_setClock_valid hm hf⟩, exec_setClock_invalid hm⟩,
    fun hp hs ho => exec_readClock_of hp hs ho⟩

/-! ## Tick arrivals (R153 to R163) -/

namespace Sys2Proof.Machine

variable {s : State} {r : RoomId}

/-! ### The tick timers (R159) -/

/-- An operation on the listed items, each acting on its own item, acts once on an item that is listed once. -/
theorem forEach_item {ι β : Type} [DecidableEq ι] {item : State → ι → β} {f : ι → State → State} {g : β → β}
    (hs : ∀ i s, item (f i s) i = g (item s i)) (ho : ∀ i j s, i ≠ j → item (f i s) j = item s j) (is : List ι) (hn : is.Nodup)
    (j : ι) (s : State) : item (forEach is f s) j = if j ∈ is then g (item s j) else item s j := by
  induction is generalizing s with
  | nil => rfl
  | cons i is ih =>
    obtain ⟨hi, hn⟩ := List.nodup_cons.1 hn
    have hrest : item (forEach (i :: is) f s) j = _ := ih hn (f i s)
    rw [hrest]
    by_cases hij : i = j
    · subst hij
      rw [if_neg hi, if_pos List.mem_cons_self, hs]
    · rw [ho i j s hij]
      simp only [List.mem_cons, Ne.symm hij, false_or]

/-- A station whose timer, if it runs, counts a tick (R159). -/
def Station.tick (x : Station) : Station := { x with timer := x.timer.map Timer.tick }

theorem tickStations_station (e : StationId) : (tickStations s).station e = (s.station e).tick :=
  (forEach_item (item := State.station) (g := Station.tick) (fun e s => s.station_updStation e _)
    (fun _ _ _ h => State.station_updStation_ne _ _ h) allStations (List.nodup_finRange 32) e s).trans (if_pos (List.mem_finRange e))

/-- Station-table entries changed in turn change the station table alone. -/
theorem forEach_updStation_eq (f : Station → Station) (es : List StationId) (s : State) :
    forEach es (fun e s => s.updStation e f) s =
      { s with handOff := { s.handOff with stations := (forEach es (fun e s => s.updStation e f) s).handOff.stations } } := by
  induction es generalizing s with
  | nil => rfl
  | cons e es ih => exact (ih (s.updStation e f)).trans rfl

/-- Every station timer counts the tick once, and nothing else changes. -/
theorem tickStations_eq :
    tickStations s = { s with handOff := { s.handOff with stations := s.handOff.stations.map Station.tick } } := by
  have hstations : (tickStations s).handOff.stations = s.handOff.stations.map Station.tick :=
    Vector.ext fun i hi => (tickStations_station ⟨i, hi⟩).trans (Vector.getElem_map Station.tick hi).symm
  rw [← hstations]
  exact forEach_updStation_eq Station.tick allStations s

/-- The calendar and the tick timers count a tick arrival together. -/
theorem tickLinkAndStatus_tickStations : tickLinkAndStatus (tickStations { s with clock := s.clock.addTick }) = ticked s := by
  have hcount : s.mgmt.statusCount.map StatusCount.tick = (ticked s).mgmt.statusCount :=
    congrArg (s.mgmt.statusCount.map ·) (funext fun c => by cases c <;> rfl)
  rw [tickStations_eq]
  unfold tickLinkAndStatus
  rw [hcount]
  rfl

/-! ### The second update (R155, R161) -/

theorem exec_tickArrival (s : State) : exec .tickArrival s = .next (takeTick s) := rfl

theorem takeTick_on (hp : s.power = .on) :
    takeTick s = if s.clock.tick = 1023 then secondUpdate (ticked s) else ticked s := by
  unfold takeTick
  split
  · simp only [tickLinkAndStatus_tickStations, Calendar.atLastTick, beq_iff_eq]
  next h => exact absurd (hp.symm.trans h) nofun
  next h => exact absurd (hp.symm.trans h) nofun

theorem exec_tickArrival_short (hp : s.power = .on) (ht : s.clock.tick ≠ 1023) : exec .tickArrival s = .next (ticked s) := by
  rw [exec_tickArrival, takeTick_on hp, if_neg ht]

theorem exec_tickArrival_second (hp : s.power = .on) (ht : s.clock.tick = 1023) :
    exec .tickArrival s = .next (secondUpdate (ticked s)) := by
  rw [exec_tickArrival, takeTick_on hp, if_pos ht]

theorem exec_tickArrival_backup (hp : s.power = .backup) : exec .tickArrival s = .next { s with clock := s.clock.addTick } := by
  simp only [exec_tickArrival, takeTick, hp]

theorem exec_tickArrival_dead (hp : s.power = .dead) : exec .tickArrival s = .next s := by
  simp only [exec_tickArrival, takeTick, hp]

theorem secondUpdate_unset (h : s.clock.validity = .unset) : secondUpdate s = reportAlert .clockUnset s :=
  (if_pos h).trans (if_pos h)

theorem secondUpdate_set (h : s.clock.validity = .set) : secondUpdate s = evaluateSchedule s := if_neg (by rw [h]; nofun)

/-! ### The matched rooms (R161) -/

theorem getLsbD_foldl_masks (xs : List ScheduleEntry) (b : BitVec 16) (i : Nat) :
    (xs.foldl (fun m x => m ||| x.mask) b).getLsbD i = (b.getLsbD i || xs.any fun x => x.mask.getLsbD i) := by
  induction xs generalizing b with
  | nil => simp
  | cons x xs ih => rw [List.foldl_cons, ih, BitVec.getLsbD_or, List.any_cons, Bool.or_assoc]

/-- A room is matched when some matching entry's mask names it. -/
theorem matchedRooms_getLsbD (i : Nat) :
    s.matchedRooms.getLsbD i = s.schedule.toList.any fun x => x.matches s.clock && x.mask.getLsbD i := by
  unfold State.matchedRooms
  rw [getLsbD_foldl_masks, List.any_filter, show (0 : BitVec 16).getLsbD i = false from BitVec.getLsbD_zero, Bool.false_or]

/-- The rooms whose masks match once the tick has been counted, in ascending order. -/
def State.dueRooms (s : State) : List RoomId :=
  allRooms.filter fun q => s.schedule.toList.any fun x => x.matches s.clock.addTick && x.mask.getLsbD q.val

theorem exec_tickArrival_schedule (hp : s.power = .on) (ht : s.clock.tick = 1023) (hv : s.clock.validity = .set) :
    exec .tickArrival s = .next (forEach s.dueRooms scheduleRoom (ticked s)) := by
  rw [exec_tickArrival_second hp ht, secondUpdate_set (Calendar.addTick_validity.trans hv)]
  unfold evaluateSchedule
  simp only [matchedRooms_getLsbD]
  rfl

theorem dueRooms_nil (h : ∀ q : RoomId, ∀ x ∈ s.schedule.toList, x.matches s.clock.addTick = true → x.mask.getLsbD q.val = false) :
    s.dueRooms = [] :=
  List.filter_eq_nil_iff.2 fun q _ hq => by
    obtain ⟨x, hx, hxq⟩ := List.any_eq_true.1 hq
    obtain ⟨hm, hmask⟩ := Bool.and_eq_true_iff.1 hxq
    rw [h q x hx hm] at hmask
    cases hmask

theorem dueRooms_singleton
    (h : ∀ q : RoomId, (s.schedule.toList.any fun x => x.matches s.clock.addTick && x.mask.getLsbD q.val) = decide (q = r)) :
    s.dueRooms = [r] := by
  unfold State.dueRooms
  simp only [h]
  rw [List.filter_eq, allRooms, List.count_eq_one_of_mem (List.nodup_finRange 16) (List.mem_finRange r)]
  rfl

/-! ### The decision for a room (R162) -/

theorem scheduleRoom_closed (h : (s.room r).state = .closed) : scheduleRoom r s = s := by
  unfold scheduleRoom
  rw [h]

theorem scheduleRoom_offRecord (h : (s.room r).state = .offRecord) :
    scheduleRoom r s = s.countClock fun k => { k with scheduleOffRecord := k.scheduleOffRecord + 1 } := by
  unfold scheduleRoom
  rw [h]

section OnRecord
variable {k : Nat} {t : Take} (h : (s.room r).state = .onRecord) (ho : (s.room r).openTake = some k) (ht : s.take? k = some t)
include h ho ht

theorem scheduleRoom_onRecord : scheduleRoom r s = if t.cells < (s.room r).config.minCells then
      s.countClock fun k => { k with scheduleShort := k.scheduleShort + 1 }
    else (requestCut r .schedule s.link.node (s.countClock fun k => { k with scheduleCuts := k.scheduleCuts + 1 })).1 := by
  unfold scheduleRoom
  rw [h, ho, Option.map_some, Option.getD_some, cellsOf_of ht]

theorem scheduleRoom_short (hc : t.cells < (s.room r).config.minCells) :
    scheduleRoom r s = s.countClock fun k => { k with scheduleShort := k.scheduleShort + 1 } :=
  (scheduleRoom_onRecord h ho ht).trans (if_pos hc)

theorem scheduleRoom_cut (hc : (s.room r).config.minCells ≤ t.cells) : scheduleRoom r s =
    (requestCut r .schedule s.link.node (s.countClock fun k => { k with scheduleCuts := k.scheduleCuts + 1 })).1 :=
  (scheduleRoom_onRecord h ho ht).trans (if_neg (Nat.not_lt.2 hc))

end OnRecord

end Sys2Proof.Machine

open Sys2Proof Sys2Proof.Machine in
/-- Settles O19: the tick is counted everywhere, and a second update goes through the rooms that the schedule matches at the new time. -/
theorem tickArrivalCounts : Obligations.TickArrivalCounts := by
  refine fun s => ⟨fun hp => ⟨exec_tickArrival_short hp, fun ht hv => ⟨?_, reportAlert_latched _ _⟩, fun ht hv => ?_⟩,
    exec_tickArrival_backup, exec_tickArrival_dead⟩
  · rw [exec_tickArrival_second hp ht, secondUpdate_unset (Calendar.addTick_validity.trans hv)]
  · have hexec := exec_tickArrival_schedule hp ht hv
    refine ⟨hexec, fun hnone => by rw [hexec, dueRooms_nil hnone]; rfl, fun r hone => ?_⟩
    have hroom : exec .tickArrival s = .next (scheduleRoom r (ticked s)) := by rw [hexec, dueRooms_singleton hone]; rfl
    exact ⟨fun h => hroom.trans (congrArg Host.Outcome.next (scheduleRoom_closed h)),
      fun h => hroom.trans (congrArg Host.Outcome.next (scheduleRoom_offRecord h)), fun k t h ho hk =>
        ⟨fun hc => hroom.trans (congrArg Host.Outcome.next (scheduleRoom_short (s := ticked s) h ho hk hc)),
          fun hc => hroom.trans (congrArg Host.Outcome.next (scheduleRoom_cut (s := ticked s) h ho hk hc))⟩⟩

/-! ## Frames built and read (11.1, R167) -/

namespace Sys2Proof.Machine

theorem bytesOf_length (k n : Nat) : (bytesOf k n).length = k := by
  induction k generalizing n with
  | zero => rfl
  | succ k ih => rw [bytesOf, List.length_append, ih, List.length_singleton]

theorem natOf_bytesOf (k n : Nat) : natOf (bytesOf k n) = n % 256 ^ k := by
  induction k generalizing n with
  | zero => exact (Nat.mod_one n).symm
  | succ k ih =>
    have hbyte : (BitVec.ofNat 8 n).toNat = n % 256 := BitVec.toNat_ofNat n 8
    rw [bytesOf, natOf_append, ih, hbyte, pow_succ', Nat.mod_mul, Nat.add_comm, Nat.mul_comm]

theorem natOf_bytesOf_of_lt {k n : Nat} (h : n < 256 ^ k) : natOf (bytesOf k n) = n :=
  (natOf_bytesOf k n).trans (Nat.mod_eq_of_lt h)

theorem natOf_wordBytes (w : Word) : natOf (bytesOf 2 w.toNat) = w.toNat := natOf_bytesOf_of_lt w.isLt

/-- A frame is the five bytes of its header, its payload and its CRC (11.1). -/
theorem mkFrame_eq (dst src kind : Byte) (payload : List Byte) : mkFrame dst src kind payload =
    dst :: src :: kind :: BitVec.ofNat 8 (payload.length / 256) :: BitVec.ofNat 8 payload.length ::
      (payload ++ bytesOf 2 (crcOf (frameBody dst src kind payload)).toNat) := rfl

theorem parseFrame_mkFrame (dst src kind : Byte) {payload : List Byte} (h : payload.length ≤ 1024) :
    parseFrame (mkFrame dst src kind payload) = some ⟨dst, src, kind, payload, crcOf (frameBody dst src kind payload)⟩ := by
  have hlen : natOf [BitVec.ofNat 8 (payload.length / 256), BitVec.ofNat 8 payload.length] = payload.length :=
    natOf_bytesOf_of_lt (k := 2) (by omega)
  have hbody : [dst, src, kind, BitVec.ofNat 8 (payload.length / 256), BitVec.ofNat 8 payload.length] ++ payload =
      frameBody dst src kind payload := rfl
  rw [mkFrame_eq, parseFrame]
  simp only [hlen, List.take_left, List.drop_left, List.length_append, bytesOf_length, natOf_wordBytes, hbody, h, true_and, if_true,
    BitVec.ofNat_toNat, BitVec.setWidth_eq]

end Sys2Proof.Machine

open Sys2Proof Sys2Proof.Machine in
/-- Settles O41: length field and CRC are read back as the numbers whose bytes they are. -/
theorem framesReadBack : Obligations.FramesReadBack := fun dst src kind _ h => ⟨_, parseFrame_mkFrame dst src kind h⟩

/-! ## The transmitters (R171) -/

namespace Sys2Proof.Machine

variable {p : Port} {s : State}

/-- A free Office Port sends a waiting sync first (R171). -/
theorem transmitNext_sync {fr : Frame} {rest : List Frame} (h : s.link.syncs = fr :: rest) :
    transmitNext .office s = sendOut .office fr { s with link := { s.link with syncs := rest } } := by
  unfold transmitNext
  rw [h]

theorem transmitNext_queued (h : p = .capture ∨ s.link.syncs = []) : transmitNext p s = transmitQueued p s := by
  cases p with
  | capture => rfl
  | office =>
    have hs : s.link.syncs = [] := h.resolve_left nofun
    unfold transmitNext
    rw [hs]

theorem transmitQueued_originated {x : Queued} {xs : List Queued} (hx : (s.port p).originate = x :: xs)
    (h : ∀ y ∈ (s.port p).forward.head?, x.serial < y.serial) : transmitQueued p s = sendOriginated p x.frame s := by
  unfold transmitQueued
  rw [hx]
  cases hy : (s.port p).forward with
  | nil => rfl
  | cons y ys => exact if_pos (h y (by rw [hy]; rfl))

theorem transmitQueued_forwarded {y : Queued} {ys : List Queued} (hy : (s.port p).forward = y :: ys)
    (h : ∀ x ∈ (s.port p).originate.head?, y.serial ≤ x.serial) : transmitQueued p s = sendForwarded p y.frame s := by
  unfold transmitQueued
  rw [hy]
  cases hx : (s.port p).originate with
  | nil => rfl
  | cons x xs => exact if_neg (Nat.not_lt.2 (h x (by rw [hx]; rfl)))

theorem transmitQueued_idle (hx : (s.port p).originate = []) (hy : (s.port p).forward = []) : transmitQueued p s = s := by
  unfold transmitQueued
  rw [hx, hy]

theorem sendOut_port (fr : Frame) : (sendOut p fr s).port p =
    { s.port p with lastSent := some fr, counters := { (s.port p).counters with framesSent := (s.port p).counters.framesSent + 1 } } :=
  s.port_updPort ..

theorem sendOut_syncs (fr : Frame) : (sendOut p fr s).link.syncs = s.link.syncs := s.updPort_link_syncs ..

theorem sendOriginated_port (fr : Frame) : (sendOriginated p fr s).port p =
    { s.port p with
      originate := (s.port p).originate.drop 1, lastSent := some fr
      counters := { (s.port p).counters with framesSent := (s.port p).counters.framesSent + 1 } } := by
  unfold sendOriginated
  rw [sendOut_port, State.port_updPort]

theorem sendForwarded_port (fr : Frame) : (sendForwarded p fr s).port p =
    { s.port p with
      forward := (s.port p).forward.drop 1, lastSent := some fr
      counters := { (s.port p).counters with framesSent := (s.port p).counters.framesSent + 1 } } := by
  unfold sendForwarded
  rw [sendOut_port, State.port_updPort]

theorem exec_transmitFrame (h : s.power = .on) : exec (.transmitFrame p) s = .next (transmitNext p s) :=
  congrArg Host.Outcome.next (if_pos h)

end Sys2Proof.Machine

open Sys2Proof Sys2Proof.Machine in
/-- Settles O42: what the transmitter takes is decided by the waiting syncs and then by the serial numbers of the two heads, and each way of sending
writes one port. -/
theorem transmitFrameCompletes : Obligations.TransmitFrameCompletes := by
  unfold Obligations.TransmitFrameCompletes
  refine fun p s hp => ⟨fun fr rest hport hsyncs => ?_, fun hfree => ?_⟩
  · subst hport
    refine ⟨_, (exec_transmitFrame hp).trans (congrArg _ (transmitNext_sync hsyncs)), sendOut_syncs fr, ?_⟩
    rw [sendOut_port]
    exact ⟨rfl, rfl, rfl, rfl⟩
  · rw [exec_transmitFrame hp, transmitNext_queued hfree]
    refine ⟨fun x xs hx hy => ⟨_, congrArg _ (transmitQueued_originated hx hy), ?_⟩,
      fun y ys hy hx => ⟨_, congrArg _ (transmitQueued_forwarded hy hx), ?_⟩, fun hx hy => congrArg _ (transmitQueued_idle hx hy)⟩
    · rw [sendOriginated_port, hx]
      exact ⟨rfl, rfl, rfl, rfl, (sendOut_syncs _).trans (s.updPort_link_syncs ..)⟩
    · rw [sendForwarded_port, hy]
      exact ⟨rfl, rfl, rfl, rfl, (sendOut_syncs _).trans (s.updPort_link_syncs ..)⟩

/-! ## Responses by the port's mode (R171, R181, R191, R192) -/

namespace Sys2Proof.Machine

variable {p : Port} {c : Ctl} {cmd : CommandName} {r : Result} {fields : List Byte} {fr : Frame} {s : State}

theorem originate_dropped (h : 512 ≤ (s.port p).originate.length) : originate p fr s =
    s.updPort p fun q => { q with counters := { q.counters with originateDrops := q.counters.originateDrops + 1 } } :=
  if_neg (Nat.not_lt.2 h)

theorem originate_held (p : Port) (fr : Frame) : ((originate p fr s).port p).held = (s.port p).held :=
  ((originate_writes (rooms := true) (ports := false) p fr).grown rfl p).1

theorem sendResponse_immediate (h : (s.port p).mode = .immediate) : sendResponse p fr s = originate p fr s := by
  unfold sendResponse
  rw [h]

theorem sendResponse_onSync (h : (s.port p).mode = .onSync) (hl : (s.port p).held.length < 16) :
    sendResponse p fr s = s.updPort p fun q => { q with held := q.held ++ [fr] } := by
  unfold sendResponse
  rw [h]
  exact if_pos hl

theorem sendResponse_overflow (h : (s.port p).mode = .onSync) (hl : 16 ≤ (s.port p).held.length) :
    sendResponse p fr s = (originate p fr s).countMgmt fun k => { k with heldOverflows := k.heldOverflows + 1 } := by
  unfold sendResponse
  rw [h]
  exact if_neg (Nat.not_lt.2 hl)

/-- The OK responses of HALT and SESSION_RESET alone are sent at once in either mode (R191; log 53). -/
theorem sentAtOnce_iff : sentAtOnce cmd r = true ↔ (cmd = .halt ∨ cmd = .sessionReset) ∧ r = .ok := by
  simp only [sentAtOnce, Bool.and_eq_true, Bool.or_eq_true, beq_iff_eq]

theorem respond_atOnce (h : (cmd = .halt ∨ cmd = .sessionReset) ∧ r = .ok) :
    respond c cmd r fields s = originate c.port (s.responseFrame c.src cmd.code c.tag.toNat r fields) s :=
  if_pos (sentAtOnce_iff.2 h)

theorem respond_byMode (h : (cmd = .halt ∨ cmd = .sessionReset) → r ≠ .ok) :
    respond c cmd r fields s = sendResponse c.port (s.responseFrame c.src cmd.code c.tag.toNat r fields) s :=
  if_neg fun hs => h (sentAtOnce_iff.1 hs).1 (sentAtOnce_iff.1 hs).2

/-- In IMMEDIATE every response is sent at once (R191). -/
theorem respond_immediate (h : (s.port c.port).mode = .immediate) :
    respond c cmd r fields s = originate c.port (s.responseFrame c.src cmd.code c.tag.toNat r fields) s := by
  by_cases hs : (cmd = .halt ∨ cmd = .sessionReset) ∧ r = .ok
  · exact respond_atOnce hs
  · exact (respond_byMode fun hc hr => hs ⟨hc, hr⟩).trans (sendResponse_immediate h)

end Sys2Proof.Machine

open Sys2Proof Sys2Proof.Machine in
/-- Settles O3: a response is a frame of the originate list or of the held queue, by the mode and by the command, and a full list drops its frame. -/
theorem responsesFollowTheMode : Obligations.ResponsesFollowTheMode := by
  unfold Obligations.ResponsesFollowTheMode
  refine ⟨fun c cmd r fields s => ⟨fun hm hl => ?_, fun hm hc hh => ?_, fun hm hc hh hl => ?_, fun hc hr hl => ?_, fun hm hl => ?_⟩,
    fun p fr s hl => originate_dropped hl⟩
  · rw [respond_immediate hm]
    exact ⟨originate_originate _ _ hl, originate_held _ _⟩
  · rw [respond_byMode hc, sendResponse_onSync hm hh, State.port_updPort]
    exact ⟨rfl, rfl⟩
  · rw [respond_byMode hc, sendResponse_overflow hm hh, State.countMgmt_port]
    refine ⟨originate_originate _ _ hl, originate_held _ _, ?_⟩
    rw [State.countMgmt, originate_mgmt]
  · rw [respond_atOnce ⟨hc, hr⟩]
    exact ⟨originate_originate _ _ hl, originate_held _ _⟩
  · rw [respond_immediate hm, originate_dropped hl, State.port_updPort]
    exact ⟨rfl, rfl, rfl⟩

/-! ## Frames arriving (R167 to R170, R177, R199) -/

namespace Sys2Proof.Machine

variable {p : Port} {f : Parsed} {bytes : Frame} {order : SyncOrder} {s : State}

@[simp] theorem received_node : (received p s).link.node = s.link.node := State.updPort_link_node ..

/-- What R168 asks of the addresses of a sound frame that goes on to its handling. -/
def Parsed.addressed (f : Parsed) (node : Byte) : Prop := f.dst ≠ 0 ∧ f.src ≠ 0 ∧ f.src ≠ 255 ∧ f.src ≠ node

/-! ### The checks -/

theorem exec_frameArrival_unsound (hp : s.power = .on) (h : parseFrame bytes = none) : exec (.frameArrival p bytes order) s =
    .next (s.updPort p fun q => { q with counters := { q.counters with crcErrors := q.counters.crcErrors + 1 } }) := by
  change execFrameArrival p bytes order s = _
  unfold execFrameArrival
  rw [if_neg (not_not.2 hp), h]

theorem exec_frameArrival_sound (hp : s.power = .on) (h : parseFrame bytes = some f) :
    exec (.frameArrival p bytes order) s = checkAddresses p f bytes order (received p s) := by
  change execFrameArrival p bytes order s = _
  unfold execFrameArrival
  rw [if_neg (not_not.2 hp), h]
  rfl

theorem checkAddresses_bad (h : f.dst = 0 ∨ f.src = 0 ∨ f.src = 255) :
    checkAddresses p f bytes order s = .next (s.countLink fun k => { k with badAddress := k.badAddress + 1 }) := if_pos h

theorem checkAddresses_looped (hd : f.dst ≠ 0) (h0 : f.src ≠ 0) (h1 : f.src ≠ 255) (h : f.src = s.link.node) :
    checkAddresses p f bytes order s = .next (s.countLink fun k => { k with looped := k.looped + 1 }) :=
  (if_neg (not_or.2 ⟨hd, not_or.2 ⟨h0, h1⟩⟩)).trans (if_pos h)

theorem exec_frameArrival_looped (hp : s.power = .on) (h : parseFrame bytes = some f) (hd : f.dst ≠ 0) (h0 : f.src ≠ 0)
    (h1 : f.src ≠ 255) (hl : f.src = s.link.node) : exec (.frameArrival p bytes order) s =
    .next ((received p s).countLink fun k => { k with looped := k.looped + 1 }) :=
  (exec_frameArrival_sound hp h).trans (checkAddresses_looped hd h0 h1 (hl.trans received_node.symm))

/-- What an entry of R169's table does with a frame. -/
def Handling.outcome (x : Handling) (p : Port) (f : Parsed) (bytes : Frame) (order : SyncOrder) (s : State) :
    Host.Outcome State Fault Refusal :=
  match x with
  | .take => takeFrame p f order s
  | .takeAndForward => afterTaking (takeFrame p f order s) (forward p bytes)
  | .pass => .next (forward p bytes s)
  | .untaken => .next (s.countLink fun k => { k with untakenKind := k.untakenKind + 1 })
  | .officeSync => .next (s.countLink fun k => { k with officeSyncDiscards := k.officeSyncDiscards + 1 })

theorem handleFrame_eq : handleFrame p f bytes order s = (handling s.link.node p f.kind f.dst).outcome p f bytes order s := rfl

/-- A sound frame with good addresses is handled by R169's table, on the state with the frame counted. -/
theorem exec_frameArrival_handled {x : Handling} (hp : s.power = .on) (hf : parseFrame bytes = some f) (ha : f.addressed s.link.node)
    (hx : handling s.link.node p f.kind f.dst = x) :
    exec (.frameArrival p bytes order) s = x.outcome p f bytes order (received p s) := by
  obtain ⟨hd, h0, h1, hl⟩ := ha
  have hnode : (received p s).link.node = s.link.node := received_node
  rw [← hx, ← hnode, ← handleFrame_eq, exec_frameArrival_sound hp hf]
  exact (if_neg (not_or.2 ⟨hd, not_or.2 ⟨h0, h1⟩⟩)).trans (if_neg (by rwa [hnode]))

/-! ### The table of R169 -/

section Table
variable {node dst kind : Byte}

theorem handling_officeSync : handling node .office kindSync dst = .officeSync := rfl

theorem handling_captureSync : handling node .capture kindSync dst = .take := rfl

section Broadcastable
variable (hk : kind = kindAudio ∨ kind = kindMark)
include hk

/-- AUDIO and MARK frames go by their destination alone. -/
theorem handling_audioMark :
    handling node p kind dst = if dst = node then .take else if dst = 255 then .takeAndForward else .pass := by
  rcases hk with rfl | rfl <;> rfl

theorem handling_audioMark_device (h : dst = node) : handling node p kind dst = .take := (handling_audioMark hk).trans (if_pos h)

theorem handling_audioMark_broadcast (hn : dst ≠ node) (h : dst = 255) : handling node p kind dst = .takeAndForward :=
  (handling_audioMark hk).trans ((if_neg hn).trans (if_pos h))

theorem handling_audioMark_other (hn : dst ≠ node) (h : dst ≠ 255) : handling node p kind dst = .pass :=
  (handling_audioMark hk).trans ((if_neg hn).trans (if_neg h))

end Broadcastable

section Untimed
variable (hs : kind ≠ kindSync) (ha : kind ≠ kindAudio) (hm : kind ≠ kindMark)
include hs ha hm

/-- The other kinds are for the device or pass on. -/
theorem handling_untimed :
    handling node p kind dst = if dst = node then (if kind = kindControl then .take else .untaken) else .pass :=
  (if_neg hs).trans (if_neg (not_or.2 ⟨ha, hm⟩))

theorem handling_untimed_other (h : dst ≠ node) : handling node p kind dst = .pass := (handling_untimed hs ha hm).trans (if_neg h)

theorem handling_untaken (h : dst = node) (hc : kind ≠ kindControl) : handling node p kind dst = .untaken :=
  (handling_untimed hs ha hm).trans ((if_pos h).trans (if_neg hc))

end Untimed

theorem handling_control (h : dst = node) : handling node p kindControl dst = .take :=
  (handling_untimed (by decide) (by decide) (by decide)).trans ((if_pos h).trans (if_pos rfl))

end Table

/-! ### The forward queues (R170) -/

theorem forward_queued (h : (s.port (oppositePort p)).forward.length < 32) :
    ((forward p bytes s).port (oppositePort p)).forward = (s.port (oppositePort p)).forward ++ [⟨s.link.nextSerial, bytes⟩] ∧
      ((forward p bytes s).port p).forward = (s.port p).forward := by
  have h' : (s.port (oppositePort p)).forward.length < Config.forwardFrames := h
  unfold forward
  rw [if_pos h']
  cases p <;> exact ⟨rfl, rfl⟩

theorem forward_dropped (h : 32 ≤ (s.port (oppositePort p)).forward.length) : forward p bytes s =
    s.updPort p fun q => { q with counters := { q.counters with forwardDrops := q.counters.forwardDrops + 1 } } :=
  if_neg (Nat.not_lt.2 h)

/-! ### SYNC, AUDIO and MARK frames taken -/

/-- A MARK frame is its kind's command, or is counted where its kind byte names no mark (R17, R83). -/
theorem takeMarkFrame_eq (kind : Byte) (m : Mark) : takeMarkFrame kind m s =
    (markCommand? kind m).elim (.next (takeBadMark m.port m.src s)) fun i => exec i s := by
  unfold takeMarkFrame
  split
  case h_10 =>
    unfold markCommand?
    simp only [*, Option.elim_none]
  all_goals
    rename_i hkind
    unfold markCommand?
    rw [hkind]
    rfl

theorem takeMarkFrame_none {kind : Byte} {m : Mark} (h : markCommand? kind m = none) :
    takeMarkFrame kind m s = .next (takeBadMark m.port m.src s) := by
  rw [takeMarkFrame_eq, h, Option.elim_none]

theorem takeMarkFrame_some {kind : Byte} {m : Mark} {i : Instr} (h : markCommand? kind m = some i) :
    takeMarkFrame kind m s = exec i s := by
  rw [takeMarkFrame_eq, h, Option.elim_some]

theorem takeBadMark_notConsole {n : Byte} (h : s.findConsole n = none) :
    takeBadMark p n s = { takenFrom p n s with notConsole := s.notConsole + 1 } := by
  unfold takeBadMark
  simp only [takenFrom_findConsole, h, takenFrom_notConsole]

theorem takeBadMark_counted {n : Byte} {r : RoomId} (h : s.findConsole n = some r) :
    takeBadMark p n s = { takenFrom p n s with
      markerPool := { s.markerPool with badMarkKind := s.markerPool.badMarkKind + 1 } } := by
  unfold takeBadMark
  simp only [takenFrom_findConsole, h, takenFrom_markerPool]

theorem short_sync (h : f.kind = kindSync) : f.short = decide (f.payload.length < 2) := by
  simp [Parsed.short, h, kindSync, kindAudio, kindMark]

theorem short_audio (h : f.kind = kindAudio) : f.short = decide (f.payload.length < 3) := by
  simp [Parsed.short, h, kindSync, kindAudio, kindMark]

theorem short_mark (h : f.kind = kindMark) : f.short = decide (f.payload.length < 5) := by
  simp [Parsed.short, h, kindSync, kindAudio, kindMark]

theorem takingOf_short (h : f.short = true) : takingOf p f order s = .next (countShort s) := if_pos h

theorem takingOf_some {i : Instr} (h : f.short = false) (hi : timedCommand? p f order = some i) : takingOf p f order s = exec i s := by
  unfold takingOf
  rw [h, hi]
  rfl

theorem takingOf_none (h : f.short = false) (hi : timedCommand? p f order = none) :
    takingOf p f order s = .next (takeBadMark p f.src s) := by
  unfold takingOf
  rw [h, hi]
  cases hc : s.findConsole f.src with
  | none => rw [takeBadMark_notConsole hc]; rfl
  | some r => rw [takeBadMark_counted hc]; rfl

theorem takeFrame_sync (h : f.kind = kindSync) : takeFrame p f order s = takingOf p f order s := by
  have hshort := short_sync h
  unfold takeFrame
  rw [if_pos h]
  split
  · exact (takingOf_short (hshort.trans (decide_eq_true ‹_›))).symm
  · exact (takingOf_some (hshort.trans (decide_eq_false ‹_›)) (if_pos h)).symm

theorem takeFrame_audio (h : f.kind = kindAudio) : takeFrame p f order s = takingOf p f order s := by
  have hshort := short_audio h
  have hs : f.kind ≠ kindSync := by rw [h]; decide
  unfold takeFrame
  rw [if_neg hs, if_pos h]
  split
  · exact (takingOf_short (hshort.trans (decide_eq_true ‹_›))).symm
  · exact (takingOf_some (hshort.trans (decide_eq_false ‹_›)) ((if_neg hs).trans (if_pos h))).symm

theorem takeFrame_mark (h : f.kind = kindMark) : takeFrame p f order s = takingOf p f order s := by
  have hshort := short_mark h
  have hs : f.kind ≠ kindSync := by rw [h]; decide
  have ha : f.kind ≠ kindAudio := by rw [h]; decide
  have hcommand : timedCommand? p f order = markCommand? (byteAt f.payload 0) (markOfPayload p f.src f.payload) :=
    (if_neg hs).trans ((if_neg ha).trans (if_pos h))
  unfold takeFrame
  rw [if_neg hs, if_neg ha, if_pos h]
  split
  · exact (takingOf_short (hshort.trans (decide_eq_true ‹_›))).symm
  · have hlong : f.short = false := hshort.trans (decide_eq_false ‹_›)
    cases hi : markCommand? (byteAt f.payload 0) (markOfPayload p f.src f.payload) with
    | none => rw [takeMarkFrame_none hi, takingOf_none hlong (hcommand.trans hi)]; rfl
    | some i => rw [takeMarkFrame_some hi, takingOf_some hlong (hcommand.trans hi)]

theorem takeFrame_audioMark (h : f.kind = kindAudio ∨ f.kind = kindMark) : takeFrame p f order s = takingOf p f order s :=
  h.elim takeFrame_audio takeFrame_mark

end Sys2Proof.Machine

open Sys2Proof Sys2Proof.Machine in
/-- Settles O37: the soundness check and the two address checks come before the handling, each with its counter. -/
theorem badFramesAreCounted : Obligations.BadFramesAreCounted := fun _ _ _ _ hp =>
  ⟨exec_frameArrival_unsound hp, fun _ hf hbad => (exec_frameArrival_sound hp hf).trans (checkAddresses_bad hbad),
    fun _ hf hd h0 h1 hl => exec_frameArrival_looped hp hf hd h0 h1 hl⟩

open Sys2Proof Sys2Proof.Machine in
/-- Settles O38: R169's table gives a SYNC on the Office Port one entry, whatever the sync source. -/
theorem officeSyncsAreDiscarded : Obligations.OfficeSyncsAreDiscarded := fun _ f _ s hp hf hk hd h0 h1 =>
  ⟨fun hl =>
    have hx : handling s.link.node .office f.kind f.dst = .officeSync := by rw [hk]; exact handling_officeSync
    exec_frameArrival_handled hp hf ⟨hd, h0, h1, hl⟩ hx, exec_frameArrival_looped hp hf hd h0 h1⟩

open Sys2Proof Sys2Proof.Machine in
/-- Settles O39: each frame has one entry of R169's table, and what that entry does is forwarding, a counter, or the taking of the frame's command. -/
theorem otherFramesPassOn : Obligations.OtherFramesPassOn := by
  unfold Obligations.OtherFramesPassOn
  refine ⟨fun p bytes f order s hp hf hd h0 h1 hl hs ha hm => ?_, fun p bytes f order s hp hf hd h0 h1 hl => ?_⟩
  · have hexec {x : Handling} := exec_frameArrival_handled (p := p) (order := order) (x := x) hp hf ⟨hd, h0, h1, hl⟩
    have hother : (received p s).port (oppositePort p) = s.port (oppositePort p) := s.port_updPort_other ..
    have hsame : ((received p s).port p).forward = (s.port p).forward := by rw [received, State.port_updPort]
    refine ⟨fun hn hq => ⟨_, hexec (handling_untimed_other hs ha hm hn), ?_⟩,
      fun hn hq => ⟨_, hexec (handling_untimed_other hs ha hm hn), ?_⟩, fun hn hc => hexec (handling_untaken hs ha hm hn hc)⟩
    · rw [← hother] at hq
      obtain ⟨hto, hfrom⟩ := forward_queued (bytes := bytes) hq
      rw [hto, hfrom, hother, hsame, received, State.updPort_link_nextSerial]
      exact ⟨rfl, rfl⟩
    · rw [forward_dropped (by rwa [hother]), State.port_updPort_other, State.port_updPort, hother, received, State.port_updPort]
      exact ⟨rfl, rfl⟩
  · have hexec {x : Handling} := exec_frameArrival_handled (p := p) (order := order) (x := x) hp hf ⟨hd, h0, h1, hl⟩
    refine ⟨fun hk => ⟨fun hn hb => hexec (handling_audioMark_other hk hn hb),
      fun hn => (hexec (handling_audioMark_device hk hn)).trans (takeFrame_audioMark hk), fun hn hb => ?_⟩, fun hk hcap => ?_⟩
    · obtain ⟨u, hu, -⟩ := takeFrame_moves (s := received p s) p f order
      refine ⟨u, (takeFrame_audioMark hk).symm.trans hu, ?_⟩
      rw [hexec (handling_audioMark_broadcast hk hn hb), Handling.outcome, hu]
      rfl
    · subst hcap
      have hx : handling s.link.node .capture f.kind f.dst = .take := by rw [hk]; exact handling_captureSync
      exact (hexec hx).trans (takeFrame_sync hk)

/-! ## CONTROL frames and their commands (11.3, R183) -/

namespace Sys2Proof.Machine

variable {p : Port} {src : Byte} {cmd : CommandName} {payload : List Byte} {f : Parsed} {order : SyncOrder} {s : State}

/-- A payload that holds a whole command holds its header. -/
theorem four_le_of_whole (h : controlFault payload = none) (hc : commandOfCode (controlHeader payload).1 = some cmd) :
    4 ≤ payload.length := by
  unfold controlFault at h
  simp only [hc] at h
  split at h
  · cases h
  · split at h
    · cases h
    · omega

theorem controlHeader_tag (h : 4 ≤ payload.length) : (controlHeader payload).2 = fieldAt payload 2 2 := by
  unfold controlHeader
  rw [if_neg (by omega), if_neg (by omega)]
  rfl

theorem wordAt_toNat (bs : List Byte) (i : Nat) : (wordAt bs i).toNat = fieldAt bs i 2 :=
  (BitVec.toNat_ofNat ..).trans (Nat.mod_eq_of_lt (fieldAt_lt bs i 2))

theorem ctlOf_eq : ctlOf p src cmd payload =
    { port := p, src := src, tag := wordAt payload 2
      ovr := if cmd = .writeEntry then none else trailerOf (payload.drop (4 + cmd.fieldBytes)) } := by
  cases cmd <;> rfl

theorem control?_controlCommand (c : Ctl) (b : List Byte) : control? (controlCommand cmd c b) = some (c, cmd) := by
  cases cmd <;> rfl

theorem takeControl_whole (h : controlFault payload = none) (hc : commandOfCode (controlHeader payload).1 = some cmd) :
    takeControl p src payload s = handCommand cmd (ctlOf p src cmd payload) (payload.drop 4) s := by
  unfold takeControl
  rw [h, hc]

theorem takeFrame_control (h : f.kind = kindControl) : takeFrame p f order s = takeControl p f.src f.payload s := by
  unfold takeFrame
  rw [h]
  rfl

end Sys2Proof.Machine

open Sys2Proof Sys2Proof.Machine in
/-- Settles O40: the frame is taken, its header and trailer are read into a `Ctl`, and the block it is handed to carries out the row command. -/
theorem controlFrameIsItsCommand : Obligations.ControlFrameIsItsCommand := by
  unfold Obligations.ControlFrameIsItsCommand
  intro p bytes f cmd order s hf hdev hk hw hc
  obtain ⟨hp, hd, haddr⟩ := hdev
  refine ⟨ctlOf p f.src cmd f.payload, ctlOf_eq, ?_, control?_controlCommand _ _, ?_, handCommand_eq cmd _ _⟩
  · rw [controlHeader_tag (four_le_of_whole hw hc)]
    exact wordAt_toNat f.payload 2
  · have hx : handling s.link.node p f.kind f.dst = .take := by rw [hk]; exact handling_control hd
    calc exec (.frameArrival p bytes order) s
      _ = takeFrame p f order (received p s) := exec_frameArrival_handled hp hf haddr hx
      _ = takeControl p f.src f.payload (received p s) := takeFrame_control hk
      _ = handCommand cmd (ctlOf p f.src cmd f.payload) (f.payload.drop 4) (received p s) := takeControl_whole hw hc
      _ = exec (controlCommand cmd (ctlOf p f.src cmd f.payload) (f.payload.drop 4)) (received p s) := handCommand_eq ..

/-! ## The distance between capture syncs (R173) -/

namespace Sys2Proof.Machine

variable {m n : Word} {f : SyncFrame} {order : SyncOrder} {s : State}

theorem skippedCount_skips (h : 2 ≤ (m - n).toNat) (h' : (m - n).toNat ≤ 32768) : skippedCount (some n) m = (m - n).toNat - 1 :=
  if_pos ⟨h, h'⟩

theorem skippedCount_none_skipped (h : (m - n).toNat < 2 ∨ 32768 < (m - n).toNat) : skippedCount (some n) m = 0 :=
  if_neg fun hr => h.elim (Nat.not_lt.2 hr.1) (Nat.not_lt.2 hr.2)

theorem renumbered_iff : renumbered (some n) m = true ↔ (m - n).toNat = 0 ∨ 32768 < (m - n).toNat := by
  change ((m - n).toNat == 0 || decide (32768 < (m - n).toNat)) = true ↔ _
  rw [Bool.or_eq_true, beq_iff_eq, decide_eq_true_iff]

theorem renumbered_false (h : 1 ≤ (m - n).toNat) (h' : (m - n).toNat ≤ 32768) : renumbered (some n) m = false :=
  Bool.eq_false_iff.2 fun hr => by rcases renumbered_iff.1 hr with h0 | hb <;> omega

/-- What a capture sync in REPEATING counts, by the skipped count and by whether it renumbers. -/
theorem captureSync_counters (h : s.link.source = .repeating) :
    (takeCaptureSync f order s).link.counters = (s.link.skipCounted f.cycle).counters := by
  rw [takeCaptureSync_repeating f order h, (syncRuns_writes (closing_writes f) f order).path]
  rfl

section Counted
variable (h : s.link.source = .repeating)
include h

theorem captureSync_cyclesSkipped {k : Nat} (hk : skippedCount s.link.previousSync f.cycle = k) :
    (takeCaptureSync f order s).link.counters.cyclesSkipped = s.link.counters.cyclesSkipped + BitVec.ofNat 32 k := by
  rw [captureSync_counters h, ← hk]
  rfl

theorem captureSync_none_skipped (hk : skippedCount s.link.previousSync f.cycle = 0) :
    (takeCaptureSync f order s).link.counters.cyclesSkipped = s.link.counters.cyclesSkipped :=
  (captureSync_cyclesSkipped h hk).trans (BitVec.add_zero _)

theorem captureSync_renumbered (hr : renumbered s.link.previousSync f.cycle = true) :
    (takeCaptureSync f order s).link.counters.syncRenumbered = s.link.counters.syncRenumbered + 1 := by
  rw [captureSync_counters h]
  exact if_pos hr

theorem captureSync_not_renumbered (hr : renumbered s.link.previousSync f.cycle = false) :
    (takeCaptureSync f order s).link.counters.syncRenumbered = s.link.counters.syncRenumbered := by
  rw [captureSync_counters h]
  exact if_neg (Bool.eq_false_iff.1 hr)

end Counted

end Sys2Proof.Machine

open Sys2Proof Sys2Proof.Machine in
/-- Settles O46: the distance decides the skipped count and the counters; the rooms close with that count, since their turn at the sync writes
nothing on the cycle path. -/
theorem skippedCountsFollowTheDistance : Obligations.SkippedCountsFollowTheDistance := by
  unfold Obligations.SkippedCountsFollowTheDistance
  intro f order s hp hs
  have hrun := takeCaptureSync_repeating f order hs
  obtain ⟨-, -, hcycle, -, hsyncs, -, -⟩ := takeCaptureSync_repeated (s := s) f order
  refine ⟨takeCaptureSync f order s, congrArg Host.Outcome.next (if_pos hp), hcycle, hsyncs, fun n hn => ?_, fun hprev => ?_,
    fun n hprev => ⟨fun hone => ?_, fun hlow hhigh => ?_, fun hback => ?_⟩⟩
  · have hclose : s.closing f = closeCell n (skippedCount s.link.previousSync f.cycle) := by unfold State.closing; rw [hn]
    rw [hclose] at hrun
    exact ⟨_, hrun, takenFrom_rooms .., takenFrom_takeTable .., takenFrom_store .., takenFrom_markerPool .., takenFrom_playback ..⟩
  · have hk : skippedCount s.link.previousSync f.cycle = 0 := by rw [hprev]; rfl
    exact ⟨hk, captureSync_none_skipped hs hk, captureSync_not_renumbered hs (by rw [hprev]; rfl)⟩
  · have hk : skippedCount s.link.previousSync f.cycle = 0 := by
      rw [hprev]
      exact skippedCount_none_skipped (.inl (by omega))
    exact ⟨hk, captureSync_none_skipped hs hk, captureSync_not_renumbered hs (by
      rw [hprev]
      exact renumbered_false (by omega) (by omega))⟩
  · have hk : skippedCount s.link.previousSync f.cycle = (f.cycle - n).toNat - 1 := by
      rw [hprev]
      exact skippedCount_skips hlow hhigh
    exact ⟨hk, captureSync_cyclesSkipped hs hk, captureSync_not_renumbered hs (by
      rw [hprev]
      exact renumbered_false (by omega) hhigh)⟩
  · have hk : skippedCount s.link.previousSync f.cycle = 0 := by
      rw [hprev]
      exact skippedCount_none_skipped (by omega)
    exact ⟨hk, captureSync_none_skipped hs hk, captureSync_renumbered hs (by
      rw [hprev]
      exact renumbered_iff.2 hback)⟩

/-! ## Every command answers (R167, R168, R183) -/

namespace Sys2Proof.Machine

variable {s t : State}

/-! ### The queue of waiting commands -/

theorem Change.pending (h : Change s t) : t.pending = s.pending := by
  cases h with
  | quiet _ hq => exact congrArg Shape.pending hq
  | moved e x _ _ => exact moveContext_keeps (g := State.pending) (fun _ _ _ => rfl) (fun _ _ _ => rfl) e x s
  | port p f _ => exact s.updPort_pending p f
  | linked k n rest t cell _ _ _ => rw [storeLinked_eq]
  | wrote k t cell ht _ => rw [writeCell_eq cell ht]
  | room _ _ _ _ => rfl
  | station _ _ _ => rfl
  | manager _ _ => rfl
  | context _ _ _ _ => rfl
  | take _ _ _ _ _ _ _ _ => rfl
  | place _ _ _ _ _ => rfl
  | opened _ _ _ _ _ _ _ _ => rfl
  | freed _ _ _ _ => rfl

theorem Move.pending (h : Move s t) : t.pending = s.pending := by
  cases h with
  | change _ hc => exact hc.pending
  | tick => rfl
  | clock _ _ => rfl
  | power _ => rfl
  | op _ => rfl
  | ingest _ _ _ => rfl
  | roomConfig _ _ _ => rfl
  | stationConfig _ _ _ => rfl
  | schedule _ _ _ => rfl
  | statusItem _ _ => rfl
  | managerNode _ _ _ => rfl
  | period _ => rfl
  | reserve _ _ => rfl
  | timeouts _ _ => rfl

/-- No chain of moves touches the queue of waiting commands. -/
theorem Moves.pending (h : Moves s t) : t.pending = s.pending :=
  h.keeps (P := fun u => u.pending = s.pending) (fun _ _ hm hu => hm.pending.trans hu) rfl

/-! ### The two resets -/

/-- A reset answers a next state, with main power and without. -/
theorem exec_reset_next {i : Instr} (hi : isReset i = true) (s : State) : ∃ t, exec i s = .next t := by
  cases i with
  | powerOnReset straps held => exact ⟨_, exec_powerOnReset straps held s⟩
  | hardReset straps => exact ⟨_, rfl⟩
  | _ => cases hi

/-- The model's queue is no block's item, so that a reset leaves it (R180). -/
theorem exec_reset_pending {i : Instr} (hi : isReset i = true) (h : exec i s = .next t) : t.pending = s.pending := by
  rcases reset_cases hi h with rfl | ⟨_, _, _, hc⟩
  · rfl
  · exact hc.moves.pending

end Sys2Proof.Machine

open Sys2Proof Sys2Proof.Machine in
/-- Settles O2: every command but the resets is a chain of moves, none of which touches the queue, and a reset takes the queue over. -/
theorem everyCommandAnswersNext : Obligations.EveryCommandAnswersNext := by
  intro i s
  by_cases hi : isReset i = true
  · obtain ⟨t, ht⟩ := exec_reset_next hi s
    exact ⟨t, ht, exec_reset_pending hi ht⟩
  · obtain ⟨t, ht, hm⟩ := exec_moves (s := s) i (Bool.eq_false_iff.2 hi)
    exact ⟨t, ht, hm.pending⟩

/-! ## The source and class checks (R182, R183) -/

namespace Sys2Proof.Machine

variable {s : State} {c : Ctl} {cmd : CommandName} {i : Instr}

/-- An unknown source is refused and counted, whatever the command would do (R183). -/
theorem control_of_unknown {k : Sender → State → State} (hp : s.power = .on) (hs : s.sender c.src = .unknown) :
    control c cmd k s = respond c cmd .notPermitted []
      ((takenFrom c.port c.src s).countMgmt fun q => { q with unknownSource := q.unknownSource + 1 }) := by
  unfold control whenOn
  rw [if_pos hp]
  dsimp only
  rw [sender_takenFrom, hs]

/-- A command that R99 does not name has no lease effect. -/
theorem leaseEffect_of_not_restartsLease (h : cmd.restartsLease = false) (who : Sender) : leaseEffect cmd who s = s := by
  unfold leaseEffect
  split
  · exact if_neg (by rw [h]; nofun)
  · rfl

theorem CommandName.restartsLease_of_managerOnly (h : cmd.managerOnly = true) : cmd.restartsLease = false := by
  revert h
  cases cmd <;> decide

theorem handled_of_managerOnly (h : cmd.managerOnly = true) : handled c cmd s =
    (takenFrom c.port c.src s).countMgmt fun q => { q with controlTaken := q.controlTaken + 1 } :=
  leaseEffect_of_not_restartsLease (CommandName.restartsLease_of_managerOnly h) _

/-- A manager command is refused to every known source that is no manager (R183). -/
theorem managerCommand_of_not_manager {k : State → State} (hm : cmd.managerOnly = true) (hp : s.power = .on)
    (hs : s.sender c.src ≠ .unknown) (hn : s.sender c.src ≠ .manager) :
    managerCommand c cmd k s = respond c cmd .notPermitted [] (handled c cmd s) := by
  unfold managerCommand
  rw [control_of hp hs, ← handled_of_managerOnly hm]
  split
  · exact absurd ‹_› hn
  · rfl

/-- A WRITE_ENTRY long enough for its entry is refused to every known source that is no manager (R183; log 15). -/
theorem exec_writeEntry_of_not_manager {body : List Byte} (hp : s.power = .on) (hs : s.sender c.src ≠ .unknown)
    (hn : s.sender c.src ≠ .manager) (hb : s.entryShort c.port body = false) :
    exec (.writeEntry c body) s = .next (respond c .writeEntry .notPermitted [] (handled c .writeEntry s)) := by
  have hb' : ¬(handled c .writeEntry s).entryShort c.port body = true := by
    unfold State.entryShort at hb ⊢
    rw [handled_port, hb]
    nofun
  change Host.Outcome.next (control c .writeEntry _ s) = _
  rw [control_of hp hs, ← handled_writeEntry]
  refine congrArg Host.Outcome.next ((if_neg hb').trans ?_)
  split
  · exact absurd ‹_› hn
  · rfl

/-- Every manager command but WRITE_ENTRY makes the class check before its own part. -/
theorem exec_managerCommand (h : control? i = some (c, cmd)) (hm : cmd.managerOnly = true) (hw : cmd ≠ .writeEntry) :
    ∃ k, ∀ s, exec i s = .next (managerCommand c cmd k s) := by
  cases i <;> cases h
  case writeEntry => exact absurd rfl hw
  case run | halt | sessionReset | setCursor | readEntry | setResponseMode | readAlerts | readCounters | clearCounters | openRoom |
      closeRoom | cutTake | readTake | readQueue | moveTake | readMarker | releaseTake | clearStore | setClock =>
    exact ⟨_, fun _ => rfl⟩
  all_goals cases hm

theorem eq_writeEntry_of_control? (h : control? i = some (c, .writeEntry)) : ∃ body, i = .writeEntry c body := by
  cases i <;> cases h
  exact ⟨_, rfl⟩

/-- Every CONTROL command makes the source check before its own part. -/
theorem exec_control (h : control? i = some (c, cmd)) : ∃ k, ∀ s, exec i s = .next (control c cmd k s) := by
  by_cases hw : cmd = .writeEntry ∨ cmd = .hello ∨ cmd = .readClock
  · rcases hw with rfl | rfl | rfl
    all_goals
      cases i <;> cases h
      exact ⟨_, fun _ => rfl⟩
  · simp only [not_or] at hw
    obtain ⟨hw, hh, hr⟩ := hw
    by_cases hm : cmd.managerOnly = true
    · obtain ⟨k, hk⟩ := exec_managerCommand h hm hw
      exact ⟨_, hk⟩
    · obtain ⟨k, hk⟩ := exec_stationCommand h (Bool.eq_false_iff.2 hm) hh hr
      exact ⟨_, hk⟩

end Sys2Proof.Machine

open Sys2Proof Sys2Proof.Machine in
/-- Settles O5: every CONTROL command begins with the source check, and a manager command goes on with the class check, which in WRITE_ENTRY
stands behind the length of the entry. -/
theorem sourcesAreChecked : Obligations.SourcesAreChecked := by
  intro i c cmd s h hp
  refine ⟨fun hs => ?_, fun hm hs hn hb => ?_⟩
  · obtain ⟨k, hk⟩ := exec_control h
    exact (hk s).trans (congrArg _ (control_of_unknown hp hs))
  · by_cases hw : cmd = .writeEntry
    · subst hw
      obtain ⟨body, rfl⟩ := eq_writeEntry_of_control? h
      exact exec_writeEntry_of_not_manager hp hs hn (hb body rfl)
    · obtain ⟨k, hk⟩ := exec_managerCommand h hm hw
      exact (hk s).trans (congrArg _ (managerCommand_of_not_manager hm hp hs hn))

/-! ## CONTROL payloads that hold no whole command (R183, R199) -/

namespace Sys2Proof.Machine

variable {s t : State} {p : Port} {src dst : Byte} {payload : List Byte} {r : Result}

/-- A RESPONSE reads of the state the device's node address alone (R181). -/
theorem responseFrame_of_link (h : t.link = s.link) (command tag : Nat) (fields : List Byte) :
    t.responseFrame dst command tag r fields = s.responseFrame dst command tag r fields := by
  unfold State.responseFrame State.deviceFrame
  rw [h]

theorem leaseEffect_link (cmd : CommandName) (who : Sender) : (leaseEffect cmd who s).link = s.link := by
  obtain ⟨-, -, -, -, -, -, -, -, -, -, -, -, -, -, hlink, -⟩ := leaseEffect_same (s := s) (cmd := cmd) who
  exact hlink

theorem shortLeaseEffect_link (who : Sender) : (shortLeaseEffect payload who s).link = s.link := by
  unfold shortLeaseEffect
  split
  · split
    · rfl
    · exact leaseEffect_link _ _
  · rfl

theorem answerFaulty_whole (h : controlFault payload = none) : answerFaulty p src payload s = s := by
  unfold answerFaulty
  rw [h]

theorem answerFaulty_unknown (h : controlFault payload = some r) (hs : s.sender src = .unknown) :
    answerFaulty p src payload s =
      sendResponse p (s.responseFrame src (controlHeader payload).1 (controlHeader payload).2 .notPermitted [])
        ((takenFrom p src s).countMgmt fun q => { q with unknownSource := q.unknownSource + 1 }) := by
  unfold answerFaulty
  rw [h]
  dsimp only
  rw [sender_takenFrom, hs, responseFrame_of_link (takenFrom_link p src)]

theorem answerFaulty_known (h : controlFault payload = some r) (hs : s.sender src ≠ .unknown) :
    answerFaulty p src payload s =
      sendResponse p (s.responseFrame src (controlHeader payload).1 (controlHeader payload).2 r [])
        (shortLeaseEffect payload (s.sender src)
          ((takenFrom p src s).countMgmt fun q => { q with controlTaken := q.controlTaken + 1 })) := by
  unfold answerFaulty
  rw [h]
  dsimp only
  rw [sender_takenFrom]
  split
  · exact absurd ‹_› hs
  · rw [responseFrame_of_link (s := s) (by rw [shortLeaseEffect_link, State.countMgmt_link, takenFrom_link])]

theorem exec_unknownCommand_on (hp : s.power = .on) :
    exec (.unknownCommand p src payload) s = .next (answerFaulty p src payload s) :=
  congrArg Host.Outcome.next (if_pos hp)

end Sys2Proof.Machine

open Sys2Proof Sys2Proof.Machine in
/-- Settles O7: the answer is a RESPONSE whose frame reads the node address alone, which neither the last port noted nor the lease effect
changes. -/
theorem faultyControlIsAnswered : Obligations.FaultyControlIsAnswered := by
  intro p src payload s hp
  simp only [exec_unknownCommand_on hp]
  exact ⟨fun _ h hs => congrArg _ (answerFaulty_known h hs), fun _ h hs => congrArg _ (answerFaulty_unknown h hs),
    fun h => congrArg _ (answerFaulty_whole h)⟩

/-! ## SET_CURSOR and READ_ENTRY (R185, R186) -/

namespace Sys2Proof.Machine

variable {s : State} {c : Ctl}

theorem exec_setCursor_of {table : Byte} {index : Word} {t : TableName} (hm : FromManager c s) (ht : tableOfCode table = some t)
    (hi : index.toNat < t.size) : exec (.setCursor c table index) s = .next (respond c .setCursor .ok
      (bytesOf 1 t.code ++ bytesOf 2 index.toNat) (setCursor c.port ⟨t, index.toNat⟩ (handled c .setCursor s))) := by
  refine congrArg Host.Outcome.next ((managerCommand_of hm).trans ?_)
  rw [ht]
  exact if_pos hi

theorem exec_readEntry_of {x : Cursor} (hm : FromManager c s) (hx : (s.port c.port).cursor = some x) (hi : x.index < x.table.size) :
    exec (.readEntry c) s = .next (respond c .readEntry .ok
      ((handled c .readEntry s).entryBytes x.table x.index ++ (handled c .readEntry s).entryExtra x.table x.index ++
        bytesOf 2 (x.index + 1))
      (setCursor c.port ⟨x.table, x.index + 1⟩ (handled c .readEntry s))) := by
  have hx' : ((handled c .readEntry s).port c.port).cursor = some x := by rw [handled_port]; exact hx
  refine congrArg Host.Outcome.next ((managerCommand_of hm).trans ?_)
  rw [hx']
  exact if_neg (Nat.not_le.2 hi)

end Sys2Proof.Machine

open Sys2Proof Sys2Proof.Machine in
/-- Settles O9: noting the manager's frame leaves the cursor where it was, so both commands act at the entry it stands on. -/
theorem cursorCommandsComplete : Obligations.CursorCommandsComplete := by
  intro c s hm
  exact ⟨fun _ _ _ ht hi => exec_setCursor_of hm ht hi, fun _ hx hi => exec_readEntry_of hm hx hi⟩

/-! ## Response modes, alerts and counters (R191, R192, R194, R197) -/

namespace Sys2Proof.Machine

variable {s t : State} {c : Ctl} {cmd : CommandName} {p : Port} {m : ResponseMode}

/-! ### Response modes -/

theorem originate_mode (p : Port) (fr : Frame) (s : State) : ((originate p fr s).port p).mode = (s.port p).mode := by
  unfold originate
  split <;> cases p <;> rfl

theorem releaseHeld_mode (p : Port) (s : State) : ((releaseHeld p s).port p).mode = (s.port p).mode :=
  (forEach_keeps (g := fun s => (s.port p).mode) (originate_mode p) _ _).trans (by rw [port_updPort])

/-- Frames for which an originate list has room join it in their order (R171). -/
theorem forEach_originate_fits (p : Port) (frs : List Frame) (s : State) (h : (s.port p).originate.length + frs.length ≤ 512) :
    ((forEach frs (originate p) s).port p).originate.map Queued.frame = (s.port p).originate.map Queued.frame ++ frs := by
  induction frs generalizing s with
  | nil => exact (List.append_nil _).symm
  | cons fr frs ih =>
    rw [List.length_cons] at h
    have ho := originate_originate p fr (s := s) (by omega)
    refine (ih (originate p fr s) (by rw [ho, List.length_append, List.length_singleton]; omega)).trans ?_
    rw [ho, List.map_append, List.append_assoc]
    rfl

theorem releaseHeld_fits (p : Port) (s : State) (h : (s.port p).originate.length + (s.port p).held.length ≤ 512) :
    ((releaseHeld p s).port p).originate.map Queued.frame = (s.port p).originate.map Queued.frame ++ (s.port p).held := by
  unfold releaseHeld
  rw [forEach_originate_fits p _ _ (by rw [port_updPort]; exact h), port_updPort]

/-- A port that becomes IMMEDIATE sends what it holds, in the order held (R191, R192). -/
theorem setMode_immediate_port (p : Port) (s : State) : ((setMode p .immediate s).port p).mode = .immediate ∧
    ((setMode p .immediate s).port p).held = [] ∧
    ((s.port p).originate.length + (s.port p).held.length ≤ 512 →
      ((setMode p .immediate s).port p).originate.map Queued.frame = (s.port p).originate.map Queued.frame ++ (s.port p).held) := by
  have hport : (s.updPort p fun q => { q with mode := .immediate }).port p = { s.port p with mode := .immediate } := port_updPort ..
  refine ⟨(releaseHeld_mode p _).trans (by rw [hport]), (releaseHeld_joins p).1, fun h => ?_⟩
  exact (releaseHeld_fits p _ (by rw [hport]; exact h)).trans (by rw [hport])

/-- A port that becomes ON_SYNC keeps what it holds (R191). -/
theorem setMode_onSync_port (p : Port) (s : State) : (setMode p .onSync s).port p = { s.port p with mode := .onSync } := port_updPort ..

theorem exec_setResponseMode_of {port mode : Byte} (hm : FromManager c s) (hp : portOfCode port = some p)
    (hmode : responseModeOfCode mode = some m) : exec (.setResponseMode c port mode) s =
      .next (respond c .setResponseMode .ok [] (setMode p m (handled c .setResponseMode s))) := by
  refine congrArg Host.Outcome.next ((managerCommand_of hm).trans ?_)
  rw [hp, hmode]

/-! ### Alerts -/

/-- No alert watches the Management Unit or a station's dynamic part (R194). -/
theorem Noted.live (h : Noted s t) (a : Alert) : t.live a = s.live a := by
  rw [h.frame]
  cases a <;> rfl

theorem Noted.liveSet (h : Noted s t) : t.liveSet = s.liveSet := by
  unfold State.liveSet
  simp only [h.live]

theorem exec_readAlerts_of (hm : FromManager c s) : exec (.readAlerts c) s =
    .next (respond c .readAlerts .ok (bytesOf 2 s.mgmt.latches.toNat ++ bytesOf 2 s.liveSet.toNat)
      { handled c .readAlerts s with mgmt := { (handled c .readAlerts s).mgmt with latches := 0 } }) := by
  have hlatches : (handled c .readAlerts s).mgmt.latches = s.mgmt.latches := by rw [handled_mgmt]
  refine congrArg Host.Outcome.next ((managerCommand_of hm).trans ?_)
  dsimp only
  rw [hlatches, handled_noted.liveSet]

/-! ### Counters -/

theorem exec_readCounters_of (hm : FromManager c s) : exec (.readCounters c) s =
    .next (respond c .readCounters .ok ((handled c .readCounters s).allCounters.flatMap fun k => bytesOf 4 k.toNat)
      (handled c .readCounters s)) :=
  congrArg Host.Outcome.next (managerCommand_of hm)

theorem clearRoomCounters_eq (s : State) : clearRoomCounters s = { s with rooms := (clearRoomCounters s).rooms } := by
  have h : ∀ (rs : List RoomId) (s : State), forEach rs (fun r s => s.countRoom r fun _ => {}) s =
      { s with rooms := (forEach rs (fun r s => s.countRoom r fun _ => {}) s).rooms } := fun rs => by
    induction rs with
    | nil => exact fun _ => rfl
    | cons r rs ih => exact fun s => (ih _).trans rfl
  exact h allRooms s

theorem clearRoomCounters_room (r : RoomId) (s : State) : (clearRoomCounters s).room r = { s.room r with counters := {} } := by
  unfold clearRoomCounters
  exact allRooms_room (g := fun x => { x with counters := {} }) (fun r s => s.room_updRoom r _)
    (fun _ _ s h => s.room_updRoom_ne _ h.symm) r s

/-- The rooms of the cleared state are those with their own counters cleared. -/
theorem clearCounters_room (r : RoomId) (s : State) : (clearCounters s).room r = { s.room r with counters := {} } := by
  rw [← clearRoomCounters_room]
  unfold clearCounters State.room
  rfl

theorem roomCounters_zero (h : ∀ r : RoomId, (s.room r).counters = {}) : ∀ k ∈ s.rooms.toList.flatMap fun r => r.counters.list, k = 0 := by
  intro k hk
  obtain ⟨x, hx, hk⟩ := List.mem_flatMap.1 hk
  obtain ⟨i, hi, rfl⟩ := Vector.getElem_of_mem (Vector.mem_toList_iff.1 hx)
  have hzero : (s.rooms[i]).counters = {} := h ⟨i, hi⟩
  rw [hzero] at hk
  simpa [RoomCounters.list] using hk

/-- Every counter is 0 once all are cleared (R197). -/
theorem clearCounters_allCounters (s : State) : ∀ k ∈ (clearCounters s).allCounters, k = 0 := by
  have hrooms := roomCounters_zero (s := clearRoomCounters s) fun r => by rw [clearRoomCounters_room]
  unfold clearCounters
  generalize clearRoomCounters s = v at hrooms ⊢
  unfold State.allCounters State.bothPorts PortCounters.list
  simpa only [List.forall_mem_append, List.forall_mem_cons, List.not_mem_nil, false_implies, implies_true, and_true,
    true_and] using hrooms

/-- CLEAR_COUNTERS leaves the takes, the contexts and the pages (R197). -/
theorem clearCounters_leaves (s : State) : (clearCounters s).takeTable.takes = s.takeTable.takes ∧
    (clearCounters s).playback.contexts = s.playback.contexts ∧ (clearCounters s).store.pages = s.store.pages := by
  unfold clearCounters
  rw [clearRoomCounters_eq]
  exact ⟨rfl, rfl, rfl⟩

theorem exec_clearCounters_of (hm : FromManager c s) : exec (.clearCounters c) s =
    .next (respond c .clearCounters .ok [] (clearCounters (handled c .clearCounters s))) :=
  congrArg Host.Outcome.next (managerCommand_of hm)

end Sys2Proof.Machine

open Sys2Proof Sys2Proof.Machine in
/-- Settles O11: what noting the manager's frame leaves alone is what each command reads, and CLEAR_COUNTERS writes counters alone. -/
theorem managementReadsComplete : Obligations.ManagementReadsComplete := by
  intro c s hm
  refine ⟨fun port mode p m hp hmode => ?_, exec_readAlerts_of hm, exec_readCounters_of hm, ?_⟩
  · refine ⟨_, exec_setResponseMode_of hm hp hmode, ?_⟩
    cases m with
    | immediate =>
      have himm := setMode_immediate_port p (handled c .setResponseMode s)
      rw [handled_port] at himm
      exact himm
    | onSync =>
      rw [setMode_onSync_port, handled_port]
      exact ⟨rfl, rfl, fun _ => (List.append_nil _).symm⟩
  · obtain ⟨htakes, hcontexts, hpages⟩ := clearCounters_leaves (handled c .clearCounters s)
    rw [handled_takeTable] at htakes
    rw [handled_playback] at hcontexts
    rw [handled_store] at hpages
    exact ⟨_, exec_clearCounters_of hm, clearCounters_allCounters _, htakes, hcontexts, hpages, fun r => by
      rw [clearCounters_room, handled_room]⟩

/-! ## The step takes the front command (O1) -/

namespace Sys2Proof.Machine

variable {s : State}

/-- The front command acts on the state with the rest of the queue. -/
theorem step_of_pending_cons {i : Instr} {rest : List Instr} (h : s.pending = i :: rest) :
    step s = exec i { s with pending := rest } := by
  rw [step, h]

/-- With no command waiting the device idles (log 4). -/
theorem step_of_pending_nil (h : s.pending = []) : step s = .next s := by
  rw [step, h]

end Sys2Proof.Machine

open Sys2Proof Sys2Proof.Machine in
/-- Settles O1: the queue is a front command with its rest, or empty, and a step has one equation for each. -/
theorem stepRunsTheFrontCommand : Obligations.StepRunsTheFrontCommand :=
  ⟨fun _ _ _ => step_of_pending_cons, fun _ => step_of_pending_nil⟩
